-- ==== Sys2Proof/Word.lean ====
section
/-!
DEFINITION. The words of the machine: bytes, 32-bit and 64-bit words, and their byte lists.
-/

namespace Sys2Proof

/-- A byte. -/
abbrev Byte := BitVec 8

/-- A 32-bit word: an instruction word or one v register of one lane. -/
abbrev W32 := BitVec 32

/-- A 64-bit word: one s register. -/
abbrev W64 := BitVec 64

/-- A lane mask: one bit per lane 0..1023 (R83). -/
abbrev Mask := BitVec 1024

end Sys2Proof
end

