-- ==== Sys2Proof/Config.lean ====
section
/-!
DEFINITION. What the spec leaves open and this model leaves free: constants without a body, so that no proof can see their
values (log entry 1). A function of a counter is applied to the plain counter `State.fresh`.
-/

namespace Sys2Proof.Config

/-- An unspecified 64-bit value (R4), by the counter at which it is taken. -/
opaque freeWord : Nat → W64

/-- An unspecified byte (R4): overlapped copy bytes (R315), bytes of a failed copy (R313), a tile in ERROR (R345). -/
opaque freeByte : Nat → Byte

/-- An unspecified choice among the alternatives that a rule permits (R4), by the counter. -/
opaque freeChoice : Nat → Nat

/-- Which of the two enclosing binary32 values a faithful function returns (R242), by function and input bits: true for
the one of larger magnitude. It is a function of the input alone, so equal inputs give equal results. -/
opaque faithfulUp : Nat → W32 → Bool

/-- The word by which STO rounds a block-scaled integer element of an integer pair, which draws none (R407): by the lane's generator, the
element's number and its bits (log entry 19). -/
opaque undrawnWord : Nat → Nat → Nat → Nat

/-- Whether the ML-DSA-65 signature of a firmware image verifies against the fused key (R401): image, signature. -/
opaque bootSignatureValid : List Byte → List Byte → Bool

/-- The bytes over which a measurement's digest is taken, by measurement index and the values measured: R404 names the
content of measurements 2 to 4 and no layout. -/
opaque measureBytes : Nat → List Nat → List Byte

/-- The device's certificate chain (R404). -/
opaque certChain : List Byte

/-- The ML-DSA-65 signature of the device's identity key over bytes (R404). -/
opaque identitySign : List Byte → List Byte

/-- Byte `i` of the 16-byte header that a gateway ring gets before a payload: R368 names what it holds (source domain,
source device, band, LEN) and no layout. -/
opaque gatewayHeader (i domain device band len : Nat) : Byte

end Sys2Proof.Config
end

