-- ==== Sys2Proof/Machine/Num.lean ====
section
/-!
DEFINITION. Exact numbers, rounding (R36, R37), float formats (R24 to R30) and float arithmetic (R233, R234, R240).
-/

namespace Sys2Proof.Machine

/-- The rounding modes of MODE.RND (R36). -/
inductive Rnd where
  /-- To nearest, ties to even. -/
  | rne
  /-- Toward zero. -/
  | rtz
  /-- Toward minus infinity. -/
  | rdn
  /-- Toward plus infinity. -/
  | rup
  /-- To nearest, ties away from zero. -/
  | rna
  /-- Stochastic (R37). -/
  | sto
deriving DecidableEq, Repr

/-- The mode of an RND code; reserved codes never stand in MODE (R206) and read as RNE. -/
def Rnd.ofCode : Nat → Rnd
  | 0 => .rne
  | 1 => .rtz
  | 2 => .rdn
  | 3 => .rup
  | 4 => .rna
  | 5 => .sto
  | _ => .rne

/-- The number (-1)^neg × (m + δ) × 2^e. δ is 0, or, when `sticky`, an amount above 0 and below every retained bit. -/
structure Exact where
  /-- Sign. -/
  neg : Bool
  /-- Magnitude. -/
  m : Nat
  /-- Exponent of the unit of `m`. -/
  e : Int
  /-- Non-zero bits below were dropped. -/
  sticky : Bool
deriving DecidableEq, Repr

/-- A decoded float. -/
inductive FVal where
  /-- Not a number. -/
  | nan
  /-- An infinity. -/
  | inf (neg : Bool)
  /-- A finite value; zeros keep their sign. -/
  | fin (x : Exact)
deriving DecidableEq, Repr

/-- An exact finite value. -/
def FVal.num (neg : Bool) (m : Nat) (e : Int) : FVal := .fin ⟨neg, m, e, false⟩

/-- The value of an integer. -/
def FVal.ofInt (i : Int) : FVal := .num (i < 0) i.natAbs 0

/-- m shifted to the unit 2^(e - d): m × 2^d, rounding down for negative d. -/
def shiftNat (m : Nat) (d : Int) : Nat := if 0 ≤ d then m * 2 ^ d.toNat else m / 2 ^ (-d).toNat

/-- What lies below the unit when 2^(-d) is dropped: the dropped bits and their count. -/
def dropped (m : Nat) (d : Int) : Nat × Nat := if 0 ≤ d then (0, 0) else (m % 2 ^ (-d).toNat, (-d).toNat)

/-- Whether a truncated magnitude rises by one unit (R36, R37): `r` of `n` dropped bits, `odd` the truncated magnitude,
`g` the word drawn under STO. -/
def roundsUp (rnd : Rnd) (g : Nat) (neg odd sticky : Bool) (r n : Nat) : Bool :=
  match rnd with
  | .rne => decide (2 ^ n < 2 * r) || (decide (2 * r = 2 ^ n) && (sticky || odd))
  | .rtz => false
  | .rdn => neg && (decide (r ≠ 0) || sticky)
  | .rup => !neg && (decide (r ≠ 0) || sticky)
  | .rna => decide (2 ^ n ≤ 2 * r)
  | .sto => decide (g < r * 2 ^ 16 / 2 ^ n)

/-- A float format (R24, R27 to R30): `frac` fraction bits under `bias`, magnitude codes up to `maxCode`. -/
structure FloatFmt where
  /-- Bits of an element. -/
  width : Nat
  /-- Fraction bits f. -/
  frac : Nat
  /-- Exponent bias. -/
  bias : Nat
  /-- Has a sign bit. -/
  signed : Bool
  /-- Magnitude code of the largest finite value. -/
  maxCode : Nat
  /-- Magnitude code of infinity. -/
  inf : Option Nat
  /-- The NaN that the device produces, all bits. -/
  nan : Option Nat
  /-- Binary8 family: one zero, one NaN. -/
  p8 : Bool
deriving DecidableEq, Repr

/-- IEEE 754 interchange formats (R27). -/
def FloatFmt.ieee (width frac bias : Nat) : FloatFmt :=
  let infCode := 2 ^ (width - 1) - 2 ^ frac
  ⟨width, frac, bias, true, infCode - 1, some infCode, some (infCode + 2 ^ (frac - 1)), false⟩

/-- binary16. -/
def FloatFmt.b16 : FloatFmt := .ieee 16 10 15
/-- bfloat16. -/
def FloatFmt.bf16 : FloatFmt := .ieee 16 7 127
/-- binary32. -/
def FloatFmt.b32 : FloatFmt := .ieee 32 23 127
/-- binary64. -/
def FloatFmt.b64 : FloatFmt := .ieee 64 52 1023
/-- E5M2 (R28). -/
def FloatFmt.e5m2 : FloatFmt := .ieee 8 2 15
/-- E4M3 (R28). -/
def FloatFmt.e4m3 : FloatFmt := ⟨8, 3, 7, true, 0x7E, none, some 0x7F, false⟩
/-- E2M1 (R28). -/
def FloatFmt.e2m1 : FloatFmt := ⟨4, 1, 1, true, 7, none, none, false⟩

/-- binary8 with precision p, 1..7 (R29). -/
def FloatFmt.binary8 (p : Nat) (signed infs : Bool) : FloatFmt :=
  if signed then ⟨8, p - 1, 2 ^ (7 - p), true, if infs then 0x7E else 0x7F, if infs then some 0x7F else none, some 0x80, true⟩
  else ⟨8, p - 1, 2 ^ (8 - p), false, if infs then 0xFD else 0xFE, if infs then some 0xFE else none, some 0xFF, true⟩

/-- The finite value of a magnitude code (R27 to R29). -/
def FloatFmt.value (F : FloatFmt) (neg : Bool) (code : Nat) : FVal :=
  if code / 2 ^ F.frac = 0 then .num neg code (1 - F.bias - F.frac)
  else .num neg (2 ^ F.frac + code % 2 ^ F.frac) (code / 2 ^ F.frac - F.bias - F.frac : Int)

/-- The bits of a sign and a magnitude code; a signed binary8 format has no negative zero (R29). -/
def FloatFmt.pack (F : FloatFmt) (neg : Bool) (code : Nat) : Nat :=
  if neg && F.signed && !(F.p8 && code = 0) then 2 ^ (F.width - 1) + code else code

/-- The sign bit of an element. -/
def FloatFmt.signOf (F : FloatFmt) (x : Nat) : Bool := F.signed && decide (2 ^ (F.width - 1) ≤ x)

/-- The magnitude code of an element. -/
def FloatFmt.magOf (F : FloatFmt) (x : Nat) : Nat := if F.signed then x % 2 ^ (F.width - 1) else x

/-- The value of an element (R27 to R29). -/
def FloatFmt.decode (F : FloatFmt) (x : Nat) : FVal :=
  let neg := F.signOf x
  let mag := F.magOf x
  if F.p8 ∧ some x = F.nan then .nan
  else if F.inf = some mag then .inf neg
  else if mag ≤ F.maxCode then F.value neg mag
  else .nan

/-- The magnitude code of a finite magnitude truncated to the format, codes counting on above the largest finite one,
and what was dropped: bits and their count. -/
def FloatFmt.truncate (F : FloatFmt) (x : Exact) : Nat × Nat × Nat :=
  let top : Int := Nat.log2 x.m + x.e
  if top < 1 - F.bias then
    let d := x.e - (1 - F.bias - F.frac)
    (shiftNat x.m d, dropped x.m d)
  else
    let d := x.e - (top - F.frac)
    ((top + F.bias - 1).toNat * 2 ^ F.frac + shiftNat x.m d, dropped x.m d)

/-- The magnitude code nearest by the rounding mode (R36, R37). -/
def FloatFmt.roundCode (F : FloatFmt) (rnd : Rnd) (g : Nat) (x : Exact) : Nat :=
  if x.m = 0 then 0
  else
    let t := F.truncate x
    t.1 + if roundsUp rnd g x.neg (t.1 % 2 = 1) x.sticky t.2.1 t.2.2 then 1 else 0

/-- The bits of a rounded magnitude code, with the overflow rules of R40. -/
def FloatFmt.finish (F : FloatFmt) (rnd : Rnd) (sat neg : Bool) (code : Nat) : Nat :=
  if code ≤ F.maxCode then F.pack neg code
  else if sat then F.pack neg F.maxCode
  else match F.inf with
    | some i =>
      if rnd = .rtz ∨ (rnd = .rdn ∧ !neg) ∨ (rnd = .rup ∧ neg) then F.pack neg F.maxCode else F.pack neg i
    | none => match F.nan with
      | some n => n
      | none => F.pack neg F.maxCode

/-- The bits of the NaN of a format; E2M1, which has none, gives +0 (R40). -/
def FloatFmt.nanBits (F : FloatFmt) : Nat := F.nan.getD 0

/-- The bits of an infinity of an arithmetic result or a conversion (R40). -/
def FloatFmt.infBits (F : FloatFmt) (sat neg : Bool) : Nat :=
  if sat then F.pack neg F.maxCode
  else match F.inf with
    | some i => F.pack neg i
    | none => match F.nan with
      | some n => n
      | none => F.pack neg F.maxCode

/-- A value rounded once to a format by R40 and R41. -/
def FloatFmt.encode (F : FloatFmt) (rnd : Rnd) (g : Nat) (sat : Bool) (v : FVal) : Nat :=
  match v with
  | .nan => F.nanBits
  | .inf neg => if neg && !F.signed then (if sat then 0 else F.nanBits) else F.infBits sat neg
  | .fin x =>
    if x.neg && !F.signed && decide (x.m ≠ 0) then (if sat then 0 else F.nanBits)
    else F.finish rnd sat x.neg (F.roundCode rnd g x)

/-- A finite value rounded to an integer (R36, R40). -/
def Exact.toInt (x : Exact) (rnd : Rnd) (g : Nat) : Int :=
  let q := shiftNat x.m x.e
  let d := dropped x.m x.e
  let r : Nat := q + if roundsUp rnd g x.neg (q % 2 = 1) x.sticky d.1 d.2 then 1 else 0
  if x.neg then -r else r

/-- An integer held to a range. -/
def clampInt (lo hi i : Int) : Int := if i < lo then lo else if hi < i then hi else i

/-- A value converted to an integer range (R40): saturated, NaN gives 0. -/
def FVal.toRange (v : FVal) (rnd : Rnd) (g : Nat) (lo hi : Int) : Int :=
  match v with
  | .nan => 0
  | .inf neg => if neg then lo else hi
  | .fin x => clampInt lo hi (x.toInt rnd g)

/-- The sum of two finite values; an exact zero from opposite terms is +0, or -0 under RDN (R233). -/
def Exact.add (rnd : Rnd) (x y : Exact) : Exact :=
  let e := if x.e ≤ y.e then x.e else y.e
  let a : Int := shiftNat x.m (x.e - e)
  let b : Int := shiftNat y.m (y.e - e)
  let s := (if x.neg then -a else a) + (if y.neg then -b else b)
  if s = 0 then
    ⟨if x.m = 0 ∧ y.m = 0 ∧ x.neg = y.neg then x.neg else decide (rnd = .rdn), 0, e, false⟩
  else ⟨s < 0, s.natAbs, e, false⟩

/-- Sum of two floats, not yet rounded. -/
def FVal.add (rnd : Rnd) : FVal → FVal → FVal
  | .nan, _ => .nan
  | _, .nan => .nan
  | .inf a, .inf b => if a = b then .inf a else .nan
  | .inf a, .fin _ => .inf a
  | .fin _, .inf b => .inf b
  | .fin x, .fin y => .fin (x.add rnd y)

/-- Change of sign. -/
def FVal.neg : FVal → FVal
  | .nan => .nan
  | .inf a => .inf !a
  | .fin x => .fin { x with neg := !x.neg }

/-- Product of two floats, not yet rounded. -/
def FVal.mul : FVal → FVal → FVal
  | .nan, _ => .nan
  | _, .nan => .nan
  | .inf a, .inf b => .inf (a != b)
  | .inf a, .fin y => if y.m = 0 then .nan else .inf (a != y.neg)
  | .fin x, .inf b => if x.m = 0 then .nan else .inf (x.neg != b)
  | .fin x, .fin y => .num (x.neg != y.neg) (x.m * y.m) (x.e + y.e)

/-- Quotient of two floats with far more bits than any format keeps, and a sticky bit for the remainder. -/
def FVal.div : FVal → FVal → FVal
  | .nan, _ => .nan
  | _, .nan => .nan
  | .inf _, .inf _ => .nan
  | .inf a, .fin y => .inf (a != y.neg)
  | .fin x, .inf b => .num (x.neg != b) 0 0
  | .fin x, .fin y =>
    if y.m = 0 then (if x.m = 0 then .nan else .inf (x.neg != y.neg))
    else if x.m = 0 then .num (x.neg != y.neg) 0 0
    else
      let k := 160 + Nat.log2 y.m
      .fin ⟨x.neg != y.neg, x.m * 2 ^ k / y.m, x.e - y.e - k, decide (x.m * 2 ^ k % y.m ≠ 0)⟩

/-- The integer square root, bit by bit from bit `n - 1` down. -/
def isqrt : Nat → Nat → Nat → Nat
  | 0, r, _ => r
  | n + 1, r, x => isqrt n (if (r + 2 ^ n) * (r + 2 ^ n) ≤ x then r + 2 ^ n else r) x

/-- The square root of a positive finite value, with more bits than binary32 keeps and a sticky bit. -/
def Exact.sqrt (x : Exact) : Exact :=
  let odd := x.e % 2 = 1
  let m := (if odd then 2 * x.m else x.m) * 2 ^ 160
  let e := (if odd then x.e - 1 else x.e) / 2 - 80
  let r := isqrt (Nat.log2 m / 2 + 1) 0 m
  ⟨false, r, e, decide (r * r ≠ m)⟩

/-- The reciprocal square root of a positive finite value, likewise. -/
def Exact.rsqrt (x : Exact) : Exact :=
  let odd := x.e % 2 = 1
  let m := if odd then 2 * x.m else x.m
  let e := -((if odd then x.e - 1 else x.e) / 2)
  let k := 100 + Nat.log2 m
  let r := isqrt (k + 1) 0 (2 ^ (2 * k) / m)
  ⟨false, r, e - k, decide (r * r * m ≠ 2 ^ (2 * k))⟩

/-- An input under FTZ: a subnormal is zero of its sign (R39). -/
def FloatFmt.flush (F : FloatFmt) (ftz : Bool) (x : Nat) : Nat :=
  if ftz ∧ F.magOf x < 2 ^ F.frac then F.pack (F.signOf x) 0 else x

/-- An arithmetic result rounded once; overflow by the IEEE rules, MODE.SAT not read (R233). -/
def FloatFmt.result (F : FloatFmt) (rnd : Rnd) (g : Nat) (ftz : Bool) (v : FVal) : Nat :=
  F.flush ftz (F.encode rnd g false v)

/-- Whether the bits are a NaN. -/
def FloatFmt.isNan (F : FloatFmt) (x : Nat) : Bool := decide (F.decode x = .nan)

/-- The place of a non-NaN element in the order in which -0 lies below +0 (R236). -/
def FloatFmt.rank (F : FloatFmt) (x : Nat) : Int :=
  if F.signOf x then -(F.magOf x : Int) - 1 else F.magOf x

/-- FMIN, FMAX, FMINN and FMAXN of two elements (R236). -/
def FloatFmt.minMax (F : FloatFmt) (isMax number : Bool) (x y : Nat) : Nat :=
  if F.isNan x ∨ F.isNan y then
    if number ∧ ¬ F.isNan x then x
    else if number ∧ ¬ F.isNan y then y
    else F.nanBits
  else if isMax then (if F.rank y ≤ F.rank x then x else y)
  else (if F.rank x ≤ F.rank y then x else y)

/-- The number that orders two non-NaN elements, with both zeros equal (R238). -/
def FloatFmt.key (F : FloatFmt) (x : Nat) : Int :=
  if F.signOf x then -(F.magOf x : Int) else F.magOf x

/-- The class bit of FCLASS (R239). -/
def FloatFmt.classBit (F : FloatFmt) (x : Nat) : Nat :=
  let neg := F.signOf x
  let mag := F.magOf x
  match F.decode x with
  | .nan => if mag / 2 ^ (F.frac - 1) % 2 = 1 then 9 else 8
  | .inf n => if n then 0 else 7
  | .fin _ =>
    if mag = 0 then (if neg then 3 else 4)
    else if mag < 2 ^ F.frac then (if neg then 2 else 5)
    else (if neg then 1 else 6)

/-- FRND: an element rounded to an integral value; a zero result keeps the sign (R240). -/
def FVal.integral (v : FVal) (rnd : Rnd) (g : Nat) : FVal :=
  match v with
  | .fin x => if 0 ≤ x.e ∨ x.m = 0 then .fin x else .num x.neg (x.toInt rnd g).natAbs 0
  | w => w

/-- FSCALE: the exponent added is held to ±2^16 (R240). -/
def FVal.scale (v : FVal) (n : Int) : FVal :=
  match v with
  | .fin x => .fin { x with e := x.e + clampInt (-65536) 65536 n }
  | w => w

end Sys2Proof.Machine
end

