-- ==== Sys2Proof/Machine/Format.lean ====
section
/-!
DEFINITION. Element formats of the FMT field (R24 to R30), TYPE codes (R208), block scales and block-scaled storage
(R31 to R34), conversions between formats (R40, R41, R407) and the lane generators (R38).
-/

namespace Sys2Proof.Machine

/-- A format of one element: an integer or a float. -/
inductive ElemFmt where
  /-- Two's complement or plain binary of a width (R26). -/
  | int (signed : Bool) (width : Nat)
  /-- A float format. -/
  | float (F : FloatFmt)
deriving DecidableEq, Repr

/-- Bits of an element. -/
def ElemFmt.width : ElemFmt → Nat
  | .int _ w => w
  | .float F => F.width

/-- Whether the format is an integer format. -/
def ElemFmt.isInt : ElemFmt → Bool
  | .int _ _ => true
  | .float _ => false

/-- The format that an FMT code designates for decoding; none for raw bytes, reserved codes and binary8 with P = 0
(R24, R25). -/
def fmtElem (c : BitVec 6) : Option ElemFmt :=
  let n := c.toNat
  if 32 ≤ n then
    let p := n / 4 % 8
    if p = 0 then none else some (.float (.binary8 p (n / 2 % 2 = 1) (n % 2 = 1)))
  else match n with
    | 0x01 => some (.int true 8)
    | 0x02 => some (.int false 8)
    | 0x03 => some (.int true 16)
    | 0x04 => some (.int false 16)
    | 0x05 => some (.int true 32)
    | 0x06 => some (.int false 32)
    | 0x07 => some (.int true 64)
    | 0x08 => some (.int false 64)
    | 0x09 => some (.float .b16)
    | 0x0A => some (.float .bf16)
    | 0x0B => some (.float .b32)
    | 0x0C => some (.float .b64)
    | 0x0D => some (.float .e4m3)
    | 0x0E => some (.float .e5m2)
    | 0x0F => some (.float .e2m1)
    | 0x10 => some (.int true 4)
    | 0x11 => some (.int false 4)
    | _ => none

/-- The signed value of the low `w` bits. -/
def toSigned (w x : Nat) : Int := if x % 2 ^ w < 2 ^ (w - 1) then (x % 2 ^ w : Nat) else (x % 2 ^ w : Nat) - (2 ^ w : Nat)

/-- The integer that an integer element holds. -/
def intValue (signed : Bool) (w x : Nat) : Int := if signed then toSigned w x else (x % 2 ^ w : Nat)

/-- Least value of an integer element. -/
def intLo (signed : Bool) (w : Nat) : Int := if signed then -(2 ^ (w - 1) : Nat) else 0

/-- Largest value of an integer element. -/
def intHi (signed : Bool) (w : Nat) : Int := if signed then (2 ^ (w - 1) : Nat) - 1 else (2 ^ w : Nat) - 1

/-- The low `w` bits of an integer. -/
def wrapInt (w : Nat) (i : Int) : Nat := (i % (2 ^ w : Nat)).toNat

/-- The value of an element. -/
def ElemFmt.decode : ElemFmt → Nat → FVal
  | .int s w, x => .ofInt (intValue s w x)
  | .float F, x => F.decode x

/-- A value converted to a format (R40, R41); `g` is the word drawn under STO. -/
def ElemFmt.encode (f : ElemFmt) (rnd : Rnd) (g : Nat) (sat : Bool) (v : FVal) : Nat :=
  match f with
  | .int s w => wrapInt w (v.toRange rnd g (intLo s w) (intHi s w))
  | .float F => F.encode rnd g sat v

/-- The value of an element with its block scale byte (R31). -/
def scaleBy (s : Nat) (v : FVal) : FVal :=
  if s = 0xFF then .nan
  else match v with
    | .fin x => .fin { x with e := x.e + (s - 127 : Int) }
    | w => w

/-- The values of a format: bits of precision, exponent of the last place, the largest magnitude, and which of negative
values, infinities and NaNs it has. -/
structure Reach where
  /-- Significant bits. -/
  prec : Nat
  /-- Exponent of the least magnitude. -/
  lsb : Int
  /-- Largest magnitude: significand. -/
  top : Nat
  /-- Its exponent. -/
  topExp : Int
  /-- Negative values. -/
  neg : Bool
  /-- Infinities. -/
  inf : Bool
  /-- NaNs. -/
  nan : Bool
deriving DecidableEq, Repr

/-- The values of an element format. -/
def ElemFmt.reach : ElemFmt → Reach
  | .int s w => ⟨if s then w - 1 else w, 0, if s then 2 ^ (w - 1) else 2 ^ w - 1, 0, s, false, false⟩
  | .float F =>
    ⟨F.frac + 1, 1 - (F.bias : Int) - F.frac, 2 ^ F.frac + F.maxCode % 2 ^ F.frac, (F.maxCode / 2 ^ F.frac : Nat) - (F.bias : Int) - F.frac,
      F.signed, F.inf.isSome, F.nan.isSome⟩

/-- The values times every block scale (R31): scales 2^-127 to 2^127, and the NaN scale. -/
def Reach.scaled (r : Reach) : Reach := { r with lsb := r.lsb - 127, topExp := r.topExp + 127, nan := true }

/-- Whether m × 2^e ≤ m' × 2^e'. -/
def leScaled (m : Nat) (e : Int) (m' : Nat) (e' : Int) : Bool :=
  if e ≤ e' then decide (m ≤ m' * 2 ^ (e' - e).toNat) else decide (m * 2 ^ (e - e').toNat ≤ m')

/-- Whether a format with the values `b` represents every value of `a`. -/
def Reach.within (a b : Reach) : Bool :=
  decide (a.prec ≤ b.prec) && decide (b.lsb ≤ a.lsb) && leScaled a.top a.topExp b.top b.topExp && (!a.neg || b.neg) && (!a.inf || b.inf) &&
    (!a.nan || b.nan)

/-- Whether the pair of formats is rounding: some value of the source, times any block scale its storage admits (`blk`),
is not representable in the destination; an integer-to-integer pair never is (R407). -/
def roundingPair (src : ElemFmt) (blk : Bool) (dst : ElemFmt) : Bool :=
  !(src.isInt && dst.isInt) && (dst.isInt || !(if blk then src.reach.scaled else src.reach).within dst.reach)

/-- An exponent that is an E2M1 or integer element's own: whether an FMT code is of 8 or fewer bits and interpreted
(R32, R245). -/
def isNarrow (c : BitVec 6) : Bool :=
  match fmtElem c with
  | some f => decide (f.width ≤ 8)
  | none => false

/-- Whether FMT and GEO designate block-scaled storage (R32). -/
def isBlockScaled (c : BitVec 6) (geo : BitVec 2) : Bool := decide (geo ≠ 0) && isNarrow c

/-- Bytes of a superblock for element width `w` (R33). -/
def superBytes (w : Nat) : Nat := 128 * w + 16

/-- Bit offset of element `n` of block-scaled storage from the base (R33). -/
def blockElemBit (w n : Nat) : Nat := n / 1024 * superBytes w * 8 + n % 1024 * w

/-- Byte offset of the scale of element `n` (R33). -/
def blockScaleByte (w n : Nat) : Nat := n / 1024 * superBytes w + 128 * w + n / 64 % 16

/-- Whether a byte offset lies in a scale trailer (R34). -/
def inTrailer (w off : Nat) : Bool := decide (128 * w ≤ off % superBytes w)

/-- The element number at a byte offset outside trailers, and for 4-bit elements the low one of the byte (R26, R33). -/
def blockElemAt (w off : Nat) : Nat := off / superBytes w * 1024 + off % superBytes w * 8 / w

/-- The TYPE codes (R208). -/
inductive Ty where
  /-- Signed 32-bit. -/
  | i32
  /-- Unsigned 32-bit. -/
  | n32
  /-- Signed 64-bit. -/
  | i64
  /-- Unsigned 64-bit. -/
  | n64
  /-- Two signed 16-bit. -/
  | i16x2
  /-- Two unsigned 16-bit. -/
  | n16x2
  /-- Four signed 8-bit. -/
  | i8x4
  /-- Four unsigned 8-bit. -/
  | n8x4
  /-- binary32. -/
  | f32
  /-- binary64. -/
  | f64
  /-- Two bfloat16. -/
  | bf16x2
  /-- Two binary16. -/
  | f16x2
  /-- 32 raw bits. -/
  | b32
  /-- 64 raw bits. -/
  | b64
deriving DecidableEq, Repr

/-- The TYPE of a code; 0x0E to 0x1F are reserved (R208). -/
def Ty.ofCode : Nat → Option Ty
  | 0x00 => some .i32
  | 0x01 => some .n32
  | 0x02 => some .i64
  | 0x03 => some .n64
  | 0x04 => some .i16x2
  | 0x05 => some .n16x2
  | 0x06 => some .i8x4
  | 0x07 => some .n8x4
  | 0x08 => some .f32
  | 0x09 => some .f64
  | 0x0A => some .bf16x2
  | 0x0B => some .f16x2
  | 0x0C => some .b32
  | 0x0D => some .b64
  | _ => none

/-- The format of one element of a TYPE; raw bits count as unsigned (R221). -/
def Ty.elem : Ty → ElemFmt
  | .i32 => .int true 32
  | .n32 => .int false 32
  | .i64 => .int true 64
  | .n64 => .int false 64
  | .i16x2 => .int true 16
  | .n16x2 => .int false 16
  | .i8x4 => .int true 8
  | .n8x4 => .int false 8
  | .f32 => .float .b32
  | .f64 => .float .b64
  | .bf16x2 => .float .bf16
  | .f16x2 => .float .b16
  | .b32 => .int false 32
  | .b64 => .int false 64

/-- Elements per group (R208). -/
def Ty.count : Ty → Nat
  | .i16x2 | .n16x2 | .bf16x2 | .f16x2 => 2
  | .i8x4 | .n8x4 => 4
  | _ => 1

/-- Whether an element group fills a register pair (R201, R208). -/
def Ty.wide : Ty → Bool
  | .i64 | .n64 | .f64 | .b64 => true
  | _ => false

/-- Element width w (R221). -/
def Ty.width (t : Ty) : Nat := t.elem.width

/-- Whether the elements are signed (R221). -/
def Ty.signed : Ty → Bool
  | .i32 | .i64 | .i16x2 | .i8x4 => true
  | _ => false

/-- Access bytes (R208). -/
def Ty.bytes (t : Ty) : Nat := if t.wide then 8 else 4

/-- The set INT (R222). -/
def Ty.isInt : Ty → Bool
  | .i32 | .n32 | .i64 | .n64 | .i16x2 | .n16x2 | .i8x4 | .n8x4 => true
  | _ => false

/-- The set BITS (R222). -/
def Ty.isBits (t : Ty) : Bool := t.isInt || t = .b32 || t = .b64

/-- The set WIDE (R222). -/
def Ty.isWide : Ty → Bool
  | .i32 | .n32 | .i64 | .n64 | .b32 | .b64 => true
  | _ => false

/-- The set FLT (R222). -/
def Ty.isFlt : Ty → Bool
  | .f32 | .f64 | .bf16x2 | .f16x2 => true
  | _ => false

/-- The set FS (R222). -/
def Ty.isFs : Ty → Bool
  | .f32 | .f64 => true
  | _ => false

/-- The float format of a float TYPE; binary32 for the others, which no caller uses. -/
def Ty.flt : Ty → FloatFmt
  | .f64 => .b64
  | .bf16x2 => .bf16
  | .f16x2 => .b16
  | _ => .b32

/-- Element `j` of a group of elements of `w` bits (R208). -/
def elemOf (w x j : Nat) : Nat := x / 2 ^ (w * j) % 2 ^ w

/-- The group of `n` elements of `w` bits. -/
def joinElems (w : Nat) (f : Nat → Nat) : Nat → Nat
  | 0 => 0
  | n + 1 => joinElems w f n + f n % 2 ^ w * 2 ^ (w * n)

/-- One draw of a lane generator: the new state and the word (R38). -/
def genDraw (x : W32) : W32 × Nat :=
  let a := x ^^^ (x <<< 13)
  let b := a ^^^ (a >>> 17)
  let c := b ^^^ (b <<< 5)
  (c, (c >>> 16).toNat)

/-- The generator state of a lane at team start (R38). -/
def genInit (inst team lane : Nat) : W32 :=
  let x := 0x9E3779B9#32 ^^^ BitVec.ofNat 32 (inst % 2 ^ 16 * 2 ^ 16) ^^^ BitVec.ofNat 32 (team * 2 ^ 10) ^^^ BitVec.ofNat 32 lane
  if x = 0 then 1 else x

/-- Exponent of the largest finite value of a float format (R50). -/
def FloatFmt.emax (F : FloatFmt) : Int :=
  match F.value false F.maxCode with
  | .fin x => Nat.log2 x.m + x.e
  | _ => 0

/-- emax_f of a destination format (R50): of an integer format, the exponent of its largest value. -/
def ElemFmt.emax : ElemFmt → Int
  | .int s w => Nat.log2 (intHi s w).toNat
  | .float F => F.emax

end Sys2Proof.Machine
end

