-- ==== Sys2Proof/Syntax.lean ====
section
/-!
DEFINITION. The syntax of the Brohar instruction set and of the part's steps: operand forms, the messages that steps
carry, and the one inductive `Instr`.
-/

namespace Sys2Proof

/-- The capability operand of a memory operand (R202) and of a cq operand (R262): a uniform register, or the quad
v4n..v4n+3 of each lane. -/
inductive CapRef where
  /-- Uniform register cn. -/
  | c (n : BitVec 5)
  /-- Quad n, the registers v4n..v4n+3. -/
  | quad (n : BitVec 6)
deriving DecidableEq, Repr

/-- What a peer or a port answers to one request (R354, R355): the step and code of a rejection (`step` 0 when
accepted), a missing verdict, and the data with their tags and poison. -/
structure Answer where
  /-- Step of R67 that rejected the request, or 0. -/
  step : BitVec 4
  /-- Fault code of R180 that goes with it, or 0. -/
  code : BitVec 8
  /-- No verdict came within the fabric timeout (R356). -/
  timeout : Bool
  /-- The bytes read, or the old value of an atomic. -/
  data : List (BitVec 8)
  /-- The tag of each granule of `data`. -/
  tags : List Bool
  /-- The poison of each granule of `data` (R186, R351). -/
  poison : List Bool
  /-- For a QUARANTINE rejection, the number of the owner's lehr pass (R181). -/
  pass : Nat
deriving DecidableEq, Repr

/-- The operation of a request flit (R351, field OP). -/
inductive FlitOp where
  /-- Load of the bytes that BYTEMASK names. -/
  | load
  /-- Load of a granule as a capability, with its tag. -/
  | loadCap
  /-- Store of the bytes that BYTEMASK names. -/
  | store
  /-- Store of a granule as a capability. -/
  | storeCap
  /-- Atomic: operation of R297, TYPE code, operands x and y. -/
  | atomic (op : BitVec 4) (ty : BitVec 5) (x y : BitVec 64)
  /-- Use of a command capability, and whether it completes at a barrier (R325). -/
  | go (barrier : Bool)
  /-- A switch's read of a member of a group, for MLRED (R363). -/
  | groupLoad
  /-- A switch's write of a member of a group, for MSTM (R365). -/
  | groupStore
deriving DecidableEq, Repr

/-- A request flit, as far as a port judges it (R351). SEQ, the reorder tag, is a lane and a program-order number: the split of
its 64 bits is the model's (log entry 33). -/
structure Flit where
  /-- Requesting device. -/
  src : BitVec 14
  /-- Issuing band (R54). -/
  band : BitVec 8
  /-- Operation. -/
  op : FlitOp
  /-- The sealed capability and its tag bit. -/
  cap : BitVec 128
  /-- The ninth tag bit. -/
  capTag : Bool
  /-- Offset in the capability of the line's first byte. -/
  off : BitVec 64
  /-- Bytes of the 128-byte line that are read or written. -/
  mask : BitVec 128
  /-- One line of data. -/
  payload : BitVec 1024
  /-- Tag of each granule of the payload. -/
  tags : BitVec 8
  /-- Poison of each granule of the payload. -/
  poison : BitVec 8
  /-- SEQ [63..40]: the requesting lane. -/
  lane : BitVec 24
  /-- SEQ [39..0]: the program-order number. -/
  seq : BitVec 40
deriving DecidableEq, Repr

/-- A gateway message at its destination device (R368). -/
structure GatewayMsg where
  /-- Source domain. -/
  domain : BitVec 8
  /-- Source device. -/
  device : BitVec 14
  /-- The packet's band. -/
  band : BitVec 8
  /-- Destination ring index. -/
  ring : BitVec 16
  /-- The payload, LEN bytes. -/
  payload : List (BitVec 8)
  /-- Poison of the granule from which each byte was read (R186). -/
  poison : List Bool
deriving DecidableEq, Repr

/-- A register that band 0 writes through the MMIO window (R395, R396, R403), or the host through BAR0 (R399) or BAR4
(R394). -/
inductive RegAddr where
  /-- Offset in the MMIO window. -/
  | mmio (off : Nat)
  /-- Offset in BAR0 of a function. -/
  | bar0 (fn off : Nat)
  /-- Offset in BAR4, the MSI-X table, of a function. -/
  | bar4 (fn off : Nat)
deriving DecidableEq, Repr

/-- A flit that a link replays (R352). -/
structure Replay where
  /-- The port. -/
  port : Nat
  /-- The link has delivered a flit in good order since its last replay. -/
  fresh : Bool
deriving DecidableEq, Repr

/-- Where an uncorrectable error lies (R405). -/
inductive ErrPlace where
  /-- A 128-byte line of HBM, by local line number. -/
  | hbmLine (line : Nat)
  /-- A granule of a shop's scratchpad. -/
  | spadGranule (shop granule : Nat)
  /-- A granule of the register section: quad `quad` of a lane of a team. -/
  | registerGranule (team lane quad : Nat)
  /-- A granule of the accumulator store: element `key` (256 × row + column) of a tile of a shop. -/
  | tileGranule (shop tile key : Nat)
  /-- A granule by local granule number: of HBM, held in L1 or L2 or whose tag bit is bad; of a host-window line, held in L2. -/
  | cachedGranule (granule : Nat)
  /-- A uniform capability register of a team: its tag bit is bad. -/
  | capRegister (team reg : Nat)
  /-- An L2 directory entry whose data is good. -/
  | directory (line : Nat)
  /-- An L2 directory entry whose data is also bad, by local line number. -/
  | directoryAndData (line : Nat)
  /-- A remap entry of a channel with both copies bad, and the lines of HBM that this affects, should their group have no parity
  any more (R153). -/
  | remapBoth (stack channel : Nat) (lines : List Nat)
deriving DecidableEq, Repr

/-- The instructions and steps of the part: one constructor per row of the opcode table. The words come first
(their arguments are the fields the encoding of the row names, hints included), then the literal forms
(`lit` is the literal word, R198), then the steps that have no word (engines, host, reset), whose arguments say
which instance of the step it is and what comes in from outside. -/
inductive Instr where
  /-- ILL (R204). -/
  | ill (d : BitVec 8) (a : BitVec 8) (b : BitVec 8)
  /-- NOP (R268). -/
  | nop (h : BitVec 4)
  /-- BRA (R264). -/
  | bra (i : BitVec 24)
  /-- BANY (R263). -/
  | bany (k : BitVec 3) (i : BitVec 16)
  /-- BALL (R263). -/
  | ball (k : BitVec 3) (i : BitVec 16)
  /-- BNONE (R263). -/
  | bnone (k : BitVec 3) (i : BitVec 16)
  /-- BRS (R263). -/
  | brs (s : BitVec 6) (i : BitVec 16)
  /-- BRS_Z (R263). -/
  | brsZ (s : BitVec 6) (i : BitVec 16)
  /-- JMP (R264). -/
  | jmp (s : BitVec 6) (h : BitVec 4)
  /-- CALL (R263). -/
  | call (d : BitVec 6) (i : BitVec 16)
  /-- RET (R264). -/
  | ret (s : BitVec 6) (h : BitVec 4)
  /-- REP (R266). -/
  | rep (s : BitVec 6) (l : BitVec 8)
  /-- LOOPB (R266). -/
  | loopb (k : BitVec 3) (l : BitVec 8)
  /-- EXIT (R268). -/
  | exit (h : BitVec 4)
  /-- END (R268). -/
  | endTeam (h : BitVec 4)
  /-- YIELD (R269). -/
  | yield (n : BitVec 12) (h : BitVec 4)
  /-- YIELDC (R270). -/
  | yieldc (t : BitVec 1) (c : BitVec 5) (a : BitVec 6) (b : BitVec 6)
  /-- SETM (R272). -/
  | setm (s : BitVec 6) (h : BitVec 4)
  /-- GETM (R272). -/
  | getm (d : BitVec 6) (h : BitVec 4)
  /-- SETPRI (R104). -/
  | setpri (n : BitVec 4)
  /-- ROLE (R102). -/
  | role (n : BitVec 3)
  /-- JOIN (R98). -/
  | join (n : BitVec 3)
  /-- LEAVE (R98). -/
  | leave (n : BitVec 3)
  /-- TRAP (R274). -/
  | trap (v : BitVec 16)
  /-- BKPT (R274). -/
  | bkpt (v : BitVec 16)
  /-- ERET (R183). -/
  | eret (h : BitVec 4)
  /-- RDSR (R273). -/
  | rdsr (d : BitVec 6) (n : BitVec 8)
  /-- WRSR (R273). -/
  | wrsr (n : BitVec 8) (s : BitVec 6) (h : BitVec 4)
  /-- SEEDR (R247). -/
  | seedr (a : BitVec 8) (h : BitVec 4)
  /-- WAITC (R306). -/
  | waitc (l : BitVec 6) (s : BitVec 6) (c : BitVec 6) (t : BitVec 6)
  /-- MONARM (R307). -/
  | monarm (c : BitVec 5) (s : BitVec 6)
  /-- MONWAIT (R307). -/
  | monwait (d : BitVec 6) (a : BitVec 6) (h : BitVec 4)
  /-- BARW (R329). -/
  | barw (d : BitVec 6) (c : BitVec 5) (b : BitVec 6)
  /-- BARY (R329). -/
  | bary (d : BitVec 6) (c : BitVec 5) (b : BitVec 6)
  /-- MWAIT (R348). -/
  | mwait (d : BitVec 6) (a : BitVec 6) (h : BitVec 4)
  /-- REVOKE (R73). -/
  | revoke (d : BitVec 6) (c : BitVec 5) (h : BitVec 4)
  /-- SWEEPQ (R295). -/
  | sweepq (d : BitVec 6) (h : BitVec 4)
  /-- KAND (R261). -/
  | kand (d : BitVec 3) (a : BitVec 3) (b : BitVec 3)
  /-- KOR (R261). -/
  | kor (d : BitVec 3) (a : BitVec 3) (b : BitVec 3)
  /-- KXOR (R261). -/
  | kxor (d : BitVec 3) (a : BitVec 3) (b : BitVec 3)
  /-- KANDN (R261). -/
  | kandn (d : BitVec 3) (a : BitVec 3) (b : BitVec 3)
  /-- KNOT (R261). -/
  | knot (d : BitVec 3) (a : BitVec 3) (h : BitVec 4)
  /-- KMOV (R261). -/
  | kmov (d : BitVec 3) (a : BitVec 3) (h : BitVec 4)
  /-- KPOP (R261). -/
  | kpop (d : BitVec 6) (a : BitVec 3) (h : BitVec 4)
  /-- KFST (R261). -/
  | kfst (d : BitVec 6) (a : BitVec 3) (h : BitVec 4)
  /-- KSPLIT (R261). -/
  | ksplit (d : BitVec 3) (a : BitVec 3) (b : BitVec 6)
  /-- ADD (R227). -/
  | add (d : BitVec 8) (a : BitVec 8) (b : BitVec 8)
  /-- ADDS (R227). -/
  | adds (d : BitVec 8) (a : BitVec 8) (b : BitVec 6)
  /-- SUB (R227). -/
  | sub (d : BitVec 8) (a : BitVec 8) (b : BitVec 8)
  /-- MUL (R227). -/
  | mul (d : BitVec 8) (a : BitVec 8) (b : BitVec 8)
  /-- MULH (R227). -/
  | mulh (d : BitVec 8) (a : BitVec 8) (b : BitVec 8)
  /-- MAD (R227). -/
  | mad (d : BitVec 8) (a : BitVec 8) (b : BitVec 8)
  /-- MIN (R227). -/
  | min (d : BitVec 8) (a : BitVec 8) (b : BitVec 8)
  /-- MAX (R227). -/
  | max (d : BitVec 8) (a : BitVec 8) (b : BitVec 8)
  /-- ABS (R227). -/
  | abs (d : BitVec 8) (a : BitVec 8) (h : BitVec 4)
  /-- NEG (R227). -/
  | neg (d : BitVec 8) (a : BitVec 8) (h : BitVec 4)
  /-- AND (R229). -/
  | and (d : BitVec 8) (a : BitVec 8) (b : BitVec 8)
  /-- OR (R229). -/
  | or (d : BitVec 8) (a : BitVec 8) (b : BitVec 8)
  /-- XOR (R229). -/
  | xor (d : BitVec 8) (a : BitVec 8) (b : BitVec 8)
  /-- ANDN (R229). -/
  | andn (d : BitVec 8) (a : BitVec 8) (b : BitVec 8)
  /-- NOT (R229). -/
  | not (d : BitVec 8) (a : BitVec 8) (h : BitVec 4)
  /-- SHL (R228). -/
  | shl (d : BitVec 8) (a : BitVec 8) (b : BitVec 8)
  /-- SHR (R228). -/
  | shr (d : BitVec 8) (a : BitVec 8) (b : BitVec 8)
  /-- SHA (R228). -/
  | sha (d : BitVec 8) (a : BitVec 8) (b : BitVec 8)
  /-- ROT (R228). -/
  | rot (d : BitVec 8) (a : BitVec 8) (b : BitVec 8)
  /-- CMP (R230). -/
  | cmp (c : BitVec 3) (d : BitVec 3) (a : BitVec 8) (b : BitVec 8)
  /-- SEL (R231). -/
  | sel (d : BitVec 8) (a : BitVec 8) (b : BitVec 8)
  /-- MOV (R229). -/
  | mov (d : BitVec 8) (a : BitVec 8) (h : BitVec 4)
  /-- POPC (R248). -/
  | popc (d : BitVec 8) (a : BitVec 8) (h : BitVec 4)
  /-- CLZ (R248). -/
  | clz (d : BitVec 8) (a : BitVec 8) (h : BitVec 4)
  /-- CTZ (R248). -/
  | ctz (d : BitVec 8) (a : BitVec 8) (h : BitVec 4)
  /-- FNS (R248). -/
  | fns (d : BitVec 8) (a : BitVec 8) (b : BitVec 8)
  /-- BREV (R248). -/
  | brev (d : BitVec 8) (a : BitVec 8) (h : BitVec 4)
  /-- BFX (R249). -/
  | bfx (d : BitVec 8) (a : BitVec 8) (b : BitVec 8)
  /-- BFI (R249). -/
  | bfi (d : BitVec 8) (a : BitVec 8) (b : BitVec 8)
  /-- CVT (R244). -/
  | cvt (d : BitVec 8) (a : BitVec 8) (t : BitVec 5)
  /-- CVTN (R245). -/
  | cvtn (d : BitVec 8) (a : BitVec 8) (f : BitVec 6)
  /-- PACKN (R246). -/
  | packn (d : BitVec 8) (a : BitVec 8) (f : BitVec 6)
  /-- UNPKN (R246). -/
  | unpkn (d : BitVec 8) (a : BitVec 8) (f : BitVec 6)
  /-- FADD (R234). -/
  | fadd (d : BitVec 8) (a : BitVec 8) (b : BitVec 8)
  /-- FSUB (R234). -/
  | fsub (d : BitVec 8) (a : BitVec 8) (b : BitVec 8)
  /-- FMUL (R234). -/
  | fmul (d : BitVec 8) (a : BitVec 8) (b : BitVec 8)
  /-- FMA (R234). -/
  | fma (d : BitVec 8) (a : BitVec 8) (b : BitVec 8)
  /-- FMAL (R235). -/
  | fmal (d : BitVec 8) (a : BitVec 8) (b : BitVec 8)
  /-- FMIN (R236). -/
  | fmin (d : BitVec 8) (a : BitVec 8) (b : BitVec 8)
  /-- FMAX (R236). -/
  | fmax (d : BitVec 8) (a : BitVec 8) (b : BitVec 8)
  /-- FMINN (R236). -/
  | fminn (d : BitVec 8) (a : BitVec 8) (b : BitVec 8)
  /-- FMAXN (R236). -/
  | fmaxn (d : BitVec 8) (a : BitVec 8) (b : BitVec 8)
  /-- FABS (R237). -/
  | fabs (d : BitVec 8) (a : BitVec 8) (h : BitVec 4)
  /-- FNEG (R237). -/
  | fneg (d : BitVec 8) (a : BitVec 8) (h : BitVec 4)
  /-- FCMP (R238). -/
  | fcmp (c : BitVec 3) (d : BitVec 3) (a : BitVec 8) (b : BitVec 8)
  /-- FCLASS (R239). -/
  | fclass (d : BitVec 8) (a : BitVec 8) (h : BitVec 4)
  /-- FRND (R240). -/
  | frnd (d : BitVec 8) (a : BitVec 8) (h : BitVec 4)
  /-- FSCALE (R240). -/
  | fscale (d : BitVec 8) (a : BitVec 8) (b : BitVec 8)
  /-- FDIVS (R234). -/
  | fdivs (d : BitVec 8) (a : BitVec 8) (b : BitVec 8)
  /-- FRCP (R241). -/
  | frcp (d : BitVec 8) (a : BitVec 8) (h : BitVec 4)
  /-- FRSQ (R241). -/
  | frsq (d : BitVec 8) (a : BitVec 8) (h : BitVec 4)
  /-- FSQRT (R241). -/
  | fsqrt (d : BitVec 8) (a : BitVec 8) (h : BitVec 4)
  /-- FEXP2 (R242). -/
  | fexp2 (d : BitVec 8) (a : BitVec 8) (h : BitVec 4)
  /-- FLOG2 (R242). -/
  | flog2 (d : BitVec 8) (a : BitVec 8) (h : BitVec 4)
  /-- FSIN (R242). -/
  | fsin (d : BitVec 8) (a : BitVec 8) (h : BitVec 4)
  /-- FCOS (R242). -/
  | fcos (d : BitVec 8) (a : BitVec 8) (h : BitVec 4)
  /-- FTANH (R242). -/
  | ftanh (d : BitVec 8) (a : BitVec 8) (h : BitVec 4)
  /-- BSINI (R252). -/
  | bsini (q : BitVec 8) (a : BitVec 8) (h : BitVec 4)
  /-- BSRD (R252). -/
  | bsrd (d : BitVec 8) (q : BitVec 8) (b : BitVec 8)
  /-- BSPK (R252). -/
  | bspk (d : BitVec 8) (q : BitVec 8) (b : BitVec 8)
  /-- BSSK (R252). -/
  | bssk (q : BitVec 8) (b : BitVec 8) (h : BitVec 4)
  /-- BSLD (R253). -/
  | bsld (q : BitVec 8) (c : BitVec 5) (h : BitVec 4)
  /-- BSPOS (R252). -/
  | bspos (d : BitVec 8) (q : BitVec 8) (h : BitVec 4)
  /-- SHFL_IDX (R255). -/
  | shflIdx (d : BitVec 8) (a : BitVec 8) (b : BitVec 8)
  /-- SHFL_UP (R255). -/
  | shflUp (d : BitVec 8) (a : BitVec 8) (i : BitVec 6)
  /-- SHFL_DN (R255). -/
  | shflDn (d : BitVec 8) (a : BitVec 8) (i : BitVec 6)
  /-- SHFL_XOR (R255). -/
  | shflXor (d : BitVec 8) (a : BitVec 8) (i : BitVec 6)
  /-- VOTE_ANY (R256). -/
  | voteAny (d : BitVec 3) (a : BitVec 3) (b : BitVec 3)
  /-- VOTE_ALL (R256). -/
  | voteAll (d : BitVec 3) (a : BitVec 3) (b : BitVec 3)
  /-- BALLOT (R256). -/
  | ballot (d : BitVec 8) (a : BitVec 3) (b : BitVec 3)
  /-- RSUM (R257). -/
  | rsum (d : BitVec 8) (a : BitVec 8) (b : BitVec 3)
  /-- RMIN (R257). -/
  | rmin (d : BitVec 8) (a : BitVec 8) (b : BitVec 3)
  /-- RMAX (R257). -/
  | rmax (d : BitVec 8) (a : BitVec 8) (b : BitVec 3)
  /-- SCAN_ADD (R257). -/
  | scanAdd (d : BitVec 8) (a : BitVec 8) (b : BitVec 3)
  /-- BCAST (R258). -/
  | bcast (d : BitVec 6) (a : BitVec 8) (b : BitVec 6)
  /-- LANEID (R258). -/
  | laneid (d : BitVec 8) (h : BitVec 4)
  /-- MOVS (R258). -/
  | movs (d : BitVec 8) (a : BitVec 6) (h : BitVec 4)
  /-- SADD (R259). -/
  | sadd (d : BitVec 6) (a : BitVec 6) (b : BitVec 6)
  /-- SSUB (R259). -/
  | ssub (d : BitVec 6) (a : BitVec 6) (b : BitVec 6)
  /-- SMUL (R259). -/
  | smul (d : BitVec 6) (a : BitVec 6) (b : BitVec 6)
  /-- SAND (R259). -/
  | sand (d : BitVec 6) (a : BitVec 6) (b : BitVec 6)
  /-- SOR (R259). -/
  | sor (d : BitVec 6) (a : BitVec 6) (b : BitVec 6)
  /-- SXOR (R259). -/
  | sxor (d : BitVec 6) (a : BitVec 6) (b : BitVec 6)
  /-- SSHL (R259). -/
  | sshl (d : BitVec 6) (a : BitVec 6) (b : BitVec 6)
  /-- SSHR (R259). -/
  | sshr (d : BitVec 6) (a : BitVec 6) (b : BitVec 6)
  /-- SCMP (R260). -/
  | scmp (x : BitVec 2) (d : BitVec 6) (y : BitVec 2) (a : BitVec 6) (b : BitVec 6)
  /-- SSEL (R259). -/
  | ssel (d : BitVec 6) (a : BitVec 6) (b : BitVec 6)
  /-- SMOV (R259). -/
  | smov (d : BitVec 6) (a : BitVec 6) (h : BitVec 4)
  /-- PLEN (R58). -/
  | plen (d : BitVec 6) (a : BitVec 6) (h : BitVec 4)
  /-- LD (R277). -/
  | ld (d : BitVec 8) (m : CapRef) (o : BitVec 8)
  /-- LDV (R277). -/
  | ldv (d : BitVec 8) (c : BitVec 5) (o : BitVec 6)
  /-- LDU (R277). -/
  | ldu (d : BitVec 6) (c : BitVec 5) (o : BitVec 6)
  /-- LDW (R280). -/
  | ldw (d : BitVec 8) (m : CapRef) (o : BitVec 8)
  /-- ST (R277). -/
  | st (d : BitVec 8) (m : CapRef) (o : BitVec 8)
  /-- STV (R277). -/
  | stv (d : BitVec 8) (c : BitVec 5) (o : BitVec 6)
  /-- STU (R277). -/
  | stu (d : BitVec 6) (c : BitVec 5) (o : BitVec 6)
  /-- STN (R281). -/
  | stn (d : BitVec 8) (m : CapRef) (o : BitVec 8)
  /-- LDQ (R282). -/
  | ldq (q : CapRef) (m : CapRef) (o : BitVec 8)
  /-- STQ (R282). -/
  | stq (q : CapRef) (m : CapRef) (o : BitVec 8)
  /-- LD_ACQ (R166). -/
  | ldAcq (d : BitVec 8) (m : CapRef) (o : BitVec 8)
  /-- ST_REL (R166). -/
  | stRel (d : BitVec 8) (m : CapRef) (o : BitVec 8)
  /-- PRF (R283). -/
  | prf (l : BitVec 1) (m : CapRef) (o : BitVec 8)
  /-- DEAD (R284). -/
  | dead (l : BitVec 6) (c : BitVec 5) (o : BitVec 6)
  /-- ATOM (R298). -/
  | atom (p : BitVec 4) (n : BitVec 4) (r : BitVec 2) (c : BitVec 5) (o : BitVec 8)
  /-- ATOMU (R298). -/
  | atomu (p : BitVec 4) (m : BitVec 4) (r : BitVec 2) (c : BitVec 5) (o : BitVec 6)
  /-- RED (R298). -/
  | red (p : BitVec 4) (n : BitVec 4) (r : BitVec 1) (c : BitVec 5) (o : BitVec 8)
  /-- MCAS (R301). -/
  | mcas (d : BitVec 6) (c : BitVec 5) (h : BitVec 4)
  /-- FENCE (R304). -/
  | fence (m : BitVec 1) (s : BitVec 6)
  /-- QFENCE (R305). -/
  | qfence (q : BitVec 6)
  /-- PBOUND (R287). -/
  | pbound (d : BitVec 5) (a : BitVec 5) (b : BitVec 6)
  /-- PBOUNDV (R287). -/
  | pboundv (q : BitVec 8) (a : BitVec 5) (b : BitVec 8)
  /-- PPERM (R288). -/
  | pperm (d : BitVec 5) (a : BitVec 5) (b : BitVec 6)
  /-- PFORM (R289). -/
  | pform (d : BitVec 5) (a : BitVec 5) (b : BitVec 6)
  /-- PLOCK (R290). -/
  | plock (d : BitVec 5) (a : BitVec 5) (b : BitVec 6)
  /-- PUNLOCK (R69). -/
  | punlock (d : BitVec 5) (a : BitVec 5) (h : BitVec 4)
  /-- PINFO (R291). -/
  | pinfo (d : BitVec 6) (a : BitVec 5) (f : BitVec 4)
  /-- PWITHIN (R292). -/
  | pwithin (d : BitVec 6) (a : BitVec 5) (b : BitVec 5)
  /-- PSAME (R292). -/
  | psame (d : BitVec 6) (a : BitVec 5) (b : BitVec 5)
  /-- PMOV (R293). -/
  | pmov (d : CapRef) (a : CapRef) (h : BitVec 4)
  /-- CMDMK (R322). -/
  | cmdmk (d : BitVec 5) (a : BitVec 5) (h : BitVec 4)
  /-- CMDMK_L (R322). -/
  | cmdmkL (d : BitVec 5) (a : BitVec 5) (h : BitVec 4)
  /-- DELEG (R71). -/
  | deleg (d : BitVec 5) (a : BitVec 5) (b : BitVec 6)
  /-- CPY (R315). -/
  | cpy (d : BitVec 5) (a : BitVec 5) (g : BitVec 3)
  /-- CPYT (R315). -/
  | cpyt (d : BitVec 5) (a : BitVec 5) (g : BitVec 3)
  /-- CPYG (R315). -/
  | cpyg (d : BitVec 5) (a : BitVec 5) (g : BitVec 3)
  /-- CPYS (R315). -/
  | cpys (d : BitVec 5) (a : BitVec 5) (g : BitVec 3)
  /-- CPYB (R317). -/
  | cpyb (d : BitVec 5) (a : BitVec 5) (g : BitVec 3)
  /-- CPYM (R321). -/
  | cpym (d : BitVec 5) (a : BitVec 5) (g : BitVec 3)
  /-- GO (R324). -/
  | go (a : BitVec 5) (g : BitVec 3)
  /-- BARI (R328). -/
  | bari (c : BitVec 5) (b : BitVec 6)
  /-- BARA (R328). -/
  | bara (d : BitVec 6) (c : BitVec 5) (b : BitVec 6)
  /-- BARX (R328). -/
  | barx (c : BitVec 5) (b : BitVec 6)
  /-- QDEF (R332). -/
  | qdef (c : BitVec 5) (b : BitVec 6)
  /-- QPUSH (R332). -/
  | qpush (d : BitVec 6) (c : BitVec 5) (b : BitVec 6)
  /-- QPOP (R332). -/
  | qpop (d : BitVec 6) (c : BitVec 5) (b : BitVec 6)
  /-- QTRY (R332). -/
  | qtry (d : BitVec 6) (c : BitVec 5) (b : BitVec 6)
  /-- QGRANT (R332). -/
  | qgrant (t : BitVec 5) (c : BitVec 5) (b : BitVec 6)
  /-- MLOADB (R337). -/
  | mloadb (l : BitVec 1) (c : BitVec 5) (b : BitVec 6)
  /-- MSUB (R338). -/
  | msub (i : BitVec 3) (n : BitVec 6) (w : BitVec 4)
  /-- MUNSUB (R338). -/
  | munsub (i : BitVec 3) (h : BitVec 4)
  /-- MPUB (R338). -/
  | mpub (n : BitVec 6) (c : BitVec 5) (b : BitVec 6)
  /-- MMA (R342). -/
  | mma (l : BitVec 1) (t : BitVec 4) (c : BitVec 5) (b : BitVec 6)
  /-- MMAS (R342). -/
  | mmas (l : BitVec 1) (t : BitVec 4) (c : BitVec 5) (b : BitVec 6)
  /-- MFENCE (R348). -/
  | mfence (d : BitVec 6) (h : BitVec 4)
  /-- MEPI (R343). -/
  | mepi (k : BitVec 1) (t : BitVec 4) (c : BitVec 5) (b : BitVec 6)
  /-- MCLR (R344). -/
  | mclr (t : BitVec 4) (h : BitVec 4)
  /-- MREL (R339). -/
  | mrel (i : BitVec 3) (h : BitVec 4)
  /-- MSTAT (R346). -/
  | mstat (d : BitVec 6) (s : BitVec 8)
  /-- NSPAWN (R349). -/
  | nspawn (g : BitVec 5) (a : BitVec 5) (s : BitVec 5)
  /-- MLRED (R362). -/
  | mlred (d : BitVec 5) (a : BitVec 5) (g : BitVec 3)
  /-- MSTM (R362). -/
  | mstm (d : BitVec 5) (a : BitVec 5) (g : BitVec 3)
  /-- GRPMK (R360). -/
  | grpmk (d : BitVec 5) (a : BitVec 5) (h : BitVec 4)
  /-- GRPQ (R361). -/
  | grpq (d : BitVec 6) (a : BitVec 5) (s : BitVec 8)
  /-- RSQ (R382). -/
  | rsq (d : BitVec 6) (a : BitVec 5) (b : BitVec 6)
  /-- MOVL (R229). -/
  | movl (d : BitVec 8) (h : BitVec 4) (lit : BitVec 32)
  /-- SMOVL (R259). -/
  | smovl (d : BitVec 6) (h : BitVec 4) (lit : BitVec 32)
  /-- SETML (R272). -/
  | setml (h : BitVec 4) (lit : BitVec 32)
  /-- ADD_LIT (R211). -/
  | addLit (d : BitVec 8) (a : BitVec 8) (h : BitVec 4) (lit : BitVec 32)
  /-- SUB_LIT (R211). -/
  | subLit (d : BitVec 8) (a : BitVec 8) (h : BitVec 4) (lit : BitVec 32)
  /-- MUL_LIT (R211). -/
  | mulLit (d : BitVec 8) (a : BitVec 8) (h : BitVec 4) (lit : BitVec 32)
  /-- AND_LIT (R211). -/
  | andLit (d : BitVec 8) (a : BitVec 8) (h : BitVec 4) (lit : BitVec 32)
  /-- OR_LIT (R211). -/
  | orLit (d : BitVec 8) (a : BitVec 8) (h : BitVec 4) (lit : BitVec 32)
  /-- XOR_LIT (R211). -/
  | xorLit (d : BitVec 8) (a : BitVec 8) (h : BitVec 4) (lit : BitVec 32)
  /-- SHL_LIT (R211). -/
  | shlLit (d : BitVec 8) (a : BitVec 8) (h : BitVec 4) (lit : BitVec 32)
  /-- SHR_LIT (R211). -/
  | shrLit (d : BitVec 8) (a : BitVec 8) (h : BitVec 4) (lit : BitVec 32)
  /-- SHA_LIT (R211). -/
  | shaLit (d : BitVec 8) (a : BitVec 8) (h : BitVec 4) (lit : BitVec 32)
  /-- MIN_LIT (R211). -/
  | minLit (d : BitVec 8) (a : BitVec 8) (h : BitVec 4) (lit : BitVec 32)
  /-- MAX_LIT (R211). -/
  | maxLit (d : BitVec 8) (a : BitVec 8) (h : BitVec 4) (lit : BitVec 32)
  /-- CMP_LIT (R211). -/
  | cmpLit (c : BitVec 3) (d : BitVec 3) (a : BitVec 8) (h : BitVec 4) (lit : BitVec 32)
  /-- FADD_LIT (R211). -/
  | faddLit (d : BitVec 8) (a : BitVec 8) (h : BitVec 4) (lit : BitVec 32)
  /-- FMUL_LIT (R211). -/
  | fmulLit (d : BitVec 8) (a : BitVec 8) (h : BitVec 4) (lit : BitVec 32)
  /-- FMA_LIT (R211). -/
  | fmaLit (d : BitVec 8) (a : BitVec 8) (h : BitVec 4) (lit : BitVec 32)
  /-- SADD_LIT (R211). -/
  | saddLit (d : BitVec 6) (a : BitVec 6) (h : BitVec 4) (lit : BitVec 32)
  /-- SSUB_LIT (R211). -/
  | ssubLit (d : BitVec 6) (a : BitVec 6) (h : BitVec 4) (lit : BitVec 32)
  /-- SMUL_LIT (R211). -/
  | smulLit (d : BitVec 6) (a : BitVec 6) (h : BitVec 4) (lit : BitVec 32)
  /-- SAND_LIT (R211). -/
  | sandLit (d : BitVec 6) (a : BitVec 6) (h : BitVec 4) (lit : BitVec 32)
  /-- SOR_LIT (R211). -/
  | sorLit (d : BitVec 6) (a : BitVec 6) (h : BitVec 4) (lit : BitVec 32)
  /-- SXOR_LIT (R211). -/
  | sxorLit (d : BitVec 6) (a : BitVec 6) (h : BitVec 4) (lit : BitVec 32)
  /-- SSHL_LIT (R211). -/
  | sshlLit (d : BitVec 6) (a : BitVec 6) (h : BitVec 4) (lit : BitVec 32)
  /-- SSHR_LIT (R211). -/
  | sshrLit (d : BitVec 6) (a : BitVec 6) (h : BitVec 4) (lit : BitVec 32)
  /-- SCMP_LIT (R260). -/
  | scmpLit (x : BitVec 2) (d : BitVec 6) (y : BitVec 2) (a : BitVec 6) (h : BitVec 4) (lit : BitVec 32)
  /-- DEADLINE (R106). -/
  | deadline
  /-- AGING_BOOST (R105). -/
  | agingBoost (t : Nat)
  /-- ROLE_UNPARK (R102). -/
  | roleUnpark (shop : Nat)
  /-- YIELDC_RESUME (R270). -/
  | yieldcResume (t : Nat)
  /-- MONITOR_WAKE (R307). -/
  | monitorWake (t : Nat)
  /-- MONITOR_POLL (R307). -/
  | monitorPoll (t : Nat) (ans : Answer)
  /-- LOAD_DATA_RETURN (R279). -/
  | loadDataReturn (t : Nat)
  /-- STORE_ACK (R279). -/
  | storeAck (t : Nat)
  /-- MCAS_LOCK_GRANT (R301). -/
  | mcasLockGrant (t : Nat)
  /-- DEAD_COMPLETE (R151). -/
  | deadComplete (t : Nat)
  /-- QTAIL_WRITE (R176). -/
  | qtailWrite (fn q : Nat) (tail : BitVec 32)
  /-- LAUNCH_ACCEPT (R118). -/
  | launchAccept (fn q : Nat)
  /-- DISPATCH (R125). -/
  | dispatch (launch : Option Nat) (node core : Nat) (priv : List Nat)
  /-- PRESSING (R125). -/
  | pressing (launch : Option Nat) (node : Nat)
  /-- TEAM_START (R126). -/
  | teamStart (shop : Nat)
  /-- INSTANCE_COMPLETE (R127). -/
  | instanceComplete (shop : Nat)
  /-- STARVATION_PREEMPT (R114). -/
  | starvationPreempt (shop : Nat)
  /-- PREEMPT_SAVE (R131). -/
  | preemptSave (shop base : Nat)
  /-- DRAIN (R133). -/
  | drain (core : BitVec 16)
  /-- SHOP_MIGRATE (R133). -/
  | shopMigrate (shop core : Nat)
  /-- COPY_COMPLETE (R313). -/
  | copyComplete (id : Nat) (ans : List Answer)
  /-- COPY_ERROR (R313). -/
  | copyError (id : Nat) (code : BitVec 8) (done : Nat)
  /-- DISTRIBUTOR_DELIVERY (R339). -/
  | distributorDelivery (id : Nat)
  /-- MATRIX_PERFORM (R342). -/
  | matrixPerform (t : Nat)
  /-- MEPI_COMPLETE (R343). -/
  | mepiComplete (t : Nat) (ok : Bool)
  /-- LEHR_SWEEP (R76). -/
  | lehrSweep
  /-- LEHR_PASS_COMPLETE (R76). -/
  | lehrPassComplete
  /-- REMOTE_PASS_RECEIVE (R79). -/
  | remotePassReceive (owner : BitVec 14) (ranges : List (Nat × Nat))
  /-- REMOTE_PASS_ACK (R79). -/
  | remotePassAck (peer : BitVec 14)
  /-- LEHR_REMOTE_TIMEOUT (R80). -/
  | lehrRemoteTimeout (peer : BitVec 14)
  /-- FULL_CLEARANCE (R81). -/
  | fullClearance (owner : BitVec 14)
  /-- REJOIN_NOTICE (R81). -/
  | rejoinNotice (peer : BitVec 14)
  /-- INBOUND_REQUEST (R354). -/
  | inboundRequest (f : Flit)
  /-- RESPONSE (R355). -/
  | response (seq : Nat) (ans : Answer)
  /-- FABRIC_TIMEOUT (R356). -/
  | fabricTimeout (seq : Nat)
  /-- FLIT_REPLAY (R352). -/
  | flitReplay (r : Replay)
  /-- PORT_DOWN (R352). -/
  | portDown (port : Nat)
  /-- PORT_RETRAIN (R352). -/
  | portRetrain (port : Nat)
  /-- GROUP_SETUP_COMPLETE (R360). -/
  | groupSetupComplete (id : Nat) (gid : Option (BitVec 16))
  /-- MLRED_COMPLETE (R364). -/
  | mlredComplete (id : Nat) (ans : List (List Nat × Answer))
  /-- MSTM_COMPLETE (R365). -/
  | mstmComplete (id : Nat) (ans : List Answer)
  /-- GATEWAY_MESSAGE (R368). -/
  | gatewayMessage (m : GatewayMsg)
  /-- RESHARD_PLAN_START (R379). -/
  | reshardPlanStart (die : Nat) (ans : List Answer)
  /-- RESHARD_BLOCK_COMPLETE (R379). -/
  | reshardBlockComplete (die : Nat) (ans : List Answer) (err : Option Nat)
  /-- HOST_SNOOP_INVALIDATE (R155). -/
  | hostSnoopInvalidate (half : Nat)
  /-- HOST_SNOOP_SHARE (R155). -/
  | hostSnoopShare (half : Nat)
  /-- HOST_LINE_FILL (R155). -/
  | hostLineFill (half : Nat) (owned : Bool) (data : List (BitVec 8))
  /-- L2_EVICT (R155). -/
  | l2Evict (line : Nat)
  /-- HOST_BAR2_WRITE (R156). -/
  | hostBar2Write (fn : Nat) (off : BitVec 32) (data : List (BitVec 8))
  /-- HOST_BAR2_READ (R400). -/
  | hostBar2Read (fn : Nat) (off : BitVec 32) (n : Nat)
  /-- QCTL_ENABLE (R399). -/
  | qctlEnable (fn q : Nat)
  /-- QCTL_RESET (R399). -/
  | qctlReset (fn q : Nat)
  /-- INSTCMD_GO (R383). -/
  | instcmdGo (fn : Nat) (g : BitVec 13) (codeix : BitVec 8)
  /-- INSTCMD_CLEAR (R384). -/
  | instcmdClear (fn : Nat) (codeix : BitVec 8)
  /-- INSTALL_COMPLETE (R383). -/
  | installComplete (fn : Nat) (place : Option Nat)
  /-- DEVID (R402). -/
  | devid (id : BitVec 14)
  /-- FBAND (R397). -/
  | fband (fn : Nat) (band : BitVec 8)
  /-- EXPSET (R395). -/
  | expset (word : Nat) (clear : BitVec 64)
  /-- REGISTER_WRITE (R395). -/
  | registerWrite (r : RegAddr) (v : BitVec 64)
  /-- POWER_ON_RESET (R401). -/
  | powerOnReset
  /-- BOOT_VERIFY (R401). -/
  | bootVerify
  /-- CORRECTED_ERROR (R405). -/
  | correctedError
  /-- UNCORRECTABLE_ERROR (R405). -/
  | uncorrectableError (p : ErrPlace)
  /-- CHANNEL_RETIRE (R153). -/
  | channelRetire (stack channel : Nat)
  /-- CHANNEL_REBUILD_COMPLETE (R153). -/
  | channelRebuildComplete (stack group : Nat)
  /-- POWER_THROTTLE (R13). -/
  | powerThrottle (core : Nat)
  /-- GET_VERSION (R404). -/
  | getVersion (fn : Nat)
  /-- GET_CAPABILITIES (R404). -/
  | getCapabilities (fn : Nat)
  /-- NEGOTIATE_ALGORITHMS (R404). -/
  | negotiateAlgorithms (fn : Nat)
  /-- GET_DIGESTS (R404). -/
  | getDigests (fn : Nat)
  /-- GET_CERTIFICATE (R404). -/
  | getCertificate (fn : Nat)
  /-- CHALLENGE (R404). -/
  | challenge (fn : Nat) (nonce : BitVec 256)
  /-- GET_MEASUREMENTS (R404). -/
  | getMeasurements (fn : Nat) (index : Nat)
  /-- UNSPECIFIED_WAKE_UP (R307). -/
  | unspecifiedWakeUp (t : Nat)
deriving DecidableEq, Repr

end Sys2Proof
end

