-- ==== Sys2Proof/Decode.lean ====
section
/-!
DEFINITION. Decoding and encoding of instruction words (R196..R212), from the opcode map and the encoding tables. The
decoder is total on any bytes and refuses by name; the encoder follows it.
-/

namespace Sys2Proof

/-- Why a word is refused at decode (R204). -/
inductive DecodeError where
  /-- Reserved opcode: ILLEGAL_OPCODE. -/
  | opcode
  /-- Non-zero must-be-zero bit or reserved operand form: ILLEGAL_FIELD. -/
  | field
  /-- Fewer bytes than the instruction has (R197). -/
  | short
deriving DecidableEq, Repr

/-- Bits [lo+n-1..lo] of a number. -/
def bits (w lo n : Nat) : Nat := w / 2 ^ lo % 2 ^ n

/-- The field of `n` bits at bit `lo`. -/
def fld (w lo n : Nat) : BitVec n := BitVec.ofNat n (w / 2 ^ lo)

/-- The capability operand that an 8-bit field names (R202, R262). -/
def capRef (x : Nat) : Option CapRef :=
  if x < 32 then some (.c (BitVec.ofNat 5 x))
  else if 128 ≤ x ∧ x < 192 then some (.quad (BitVec.ofNat 6 x)) else none

/-- The 8-bit field of a capability operand. -/
def capBits : CapRef → Nat
  | .c n => n.toNat
  | .quad n => 128 + n.toNat

/-- The instruction of a first word `w` with literal word `lit` (read by the literal forms only): the opcode map of
R209, then every must-be-zero bit of the row (R203, R204). -/
def decodeWord (w : Nat) (lit : BitVec 32) : Except DecodeError Instr :=
  match w / 2 ^ 24 with
  | 0x00 => .ok (.ill (fld w 16 8) (fld w 8 8) (fld w 0 8))
  | 0x01 => if bits w 0 4 = 0 ∧ bits w 8 16 = 0 then .ok (.nop (fld w 4 4)) else .error .field
  | 0x02 => .ok (.bra (fld w 0 24))
  | 0x03 => if bits w 19 5 = 0 then .ok (.bany (fld w 16 3) (fld w 0 16)) else .error .field
  | 0x04 => if bits w 19 5 = 0 then .ok (.ball (fld w 16 3) (fld w 0 16)) else .error .field
  | 0x05 => if bits w 19 5 = 0 then .ok (.bnone (fld w 16 3) (fld w 0 16)) else .error .field
  | 0x06 => if bits w 22 1 = 0 then (if bits w 23 1 = 0 then .ok (.brs (fld w 16 6) (fld w 0 16)) else .ok (.brsZ (fld w 16 6) (fld w 0 16))) else .error .field
  | 0x07 => if bits w 0 4 = 0 ∧ bits w 14 10 = 0 then .ok (.jmp (fld w 8 6) (fld w 4 4)) else .error .field
  | 0x08 => if bits w 22 2 = 0 then .ok (.call (fld w 16 6) (fld w 0 16)) else .error .field
  | 0x09 => if bits w 0 4 = 0 ∧ bits w 14 10 = 0 then .ok (.ret (fld w 8 6) (fld w 4 4)) else .error .field
  | 0x0A => if bits w 14 10 = 0 then .ok (.rep (fld w 8 6) (fld w 0 8)) else .error .field
  | 0x0B => if bits w 11 13 = 0 then .ok (.loopb (fld w 8 3) (fld w 0 8)) else .error .field
  | 0x0C => if bits w 0 4 = 0 ∧ bits w 8 16 = 0 then .ok (.exit (fld w 4 4)) else .error .field
  | 0x0D => if bits w 0 4 = 0 ∧ bits w 8 16 = 0 then .ok (.endTeam (fld w 4 4)) else .error .field
  | 0x0E => if bits w 0 4 = 0 ∧ bits w 20 4 = 0 then .ok (.yield (fld w 8 12) (fld w 4 4)) else .error .field
  | 0x0F => if bits w 6 2 = 0 ∧ bits w 14 2 = 0 ∧ bits w 21 2 = 0 then .ok (.yieldc (fld w 23 1) (fld w 16 5) (fld w 8 6) (fld w 0 6)) else .error .field
  | 0x10 => if bits w 0 4 = 0 ∧ bits w 14 10 = 0 then .ok (.setm (fld w 8 6) (fld w 4 4)) else .error .field
  | 0x11 => if bits w 0 4 = 0 ∧ bits w 8 8 = 0 ∧ bits w 22 2 = 0 then .ok (.getm (fld w 16 6) (fld w 4 4)) else .error .field
  | 0x12 => if bits w 4 20 = 0 then .ok (.setpri (fld w 0 4)) else .error .field
  | 0x13 => if bits w 3 21 = 0 then .ok (.role (fld w 0 3)) else .error .field
  | 0x14 => if bits w 3 21 = 0 then .ok (.join (fld w 0 3)) else .error .field
  | 0x15 => if bits w 3 21 = 0 then .ok (.leave (fld w 0 3)) else .error .field
  | 0x16 => if bits w 16 8 = 0 then .ok (.trap (fld w 0 16)) else .error .field
  | 0x17 => if bits w 16 8 = 0 then .ok (.bkpt (fld w 0 16)) else .error .field
  | 0x18 => if bits w 0 4 = 0 ∧ bits w 8 16 = 0 then .ok (.eret (fld w 4 4)) else .error .field
  | 0x19 => if bits w 8 8 = 0 ∧ bits w 22 2 = 0 then .ok (.rdsr (fld w 16 6) (fld w 0 8)) else .error .field
  | 0x1A => if bits w 0 4 = 0 ∧ bits w 14 2 = 0 then .ok (.wrsr (fld w 16 8) (fld w 8 6) (fld w 4 4)) else .error .field
  | 0x1B => if bits w 0 4 = 0 ∧ bits w 16 8 = 0 then .ok (.seedr (fld w 8 8) (fld w 4 4)) else .error .field
  | 0x1C => .ok (.waitc (fld w 18 6) (fld w 12 6) (fld w 6 6) (fld w 0 6))
  | 0x1D => if bits w 6 2 = 0 ∧ bits w 13 11 = 0 then .ok (.monarm (fld w 8 5) (fld w 0 6)) else .error .field
  | 0x1E => if bits w 0 4 = 0 ∧ bits w 14 2 = 0 ∧ bits w 22 2 = 0 then .ok (.monwait (fld w 16 6) (fld w 8 6) (fld w 4 4)) else .error .field
  | 0x1F => if bits w 6 2 = 0 ∧ bits w 13 3 = 0 ∧ bits w 22 2 = 0 then .ok (.barw (fld w 16 6) (fld w 8 5) (fld w 0 6)) else .error .field
  | 0x20 => if bits w 6 2 = 0 ∧ bits w 13 3 = 0 ∧ bits w 22 2 = 0 then .ok (.bary (fld w 16 6) (fld w 8 5) (fld w 0 6)) else .error .field
  | 0x21 => if bits w 0 4 = 0 ∧ bits w 14 2 = 0 ∧ bits w 22 2 = 0 then .ok (.mwait (fld w 16 6) (fld w 8 6) (fld w 4 4)) else .error .field
  | 0x22 => if bits w 0 4 = 0 ∧ bits w 13 3 = 0 ∧ bits w 22 2 = 0 then .ok (.revoke (fld w 16 6) (fld w 8 5) (fld w 4 4)) else .error .field
  | 0x23 => if bits w 0 4 = 0 ∧ bits w 8 8 = 0 ∧ bits w 22 2 = 0 then .ok (.sweepq (fld w 16 6) (fld w 4 4)) else .error .field
  | 0x24 => if bits w 3 5 = 0 ∧ bits w 11 5 = 0 ∧ bits w 19 5 = 0 then .ok (.kand (fld w 16 3) (fld w 8 3) (fld w 0 3)) else .error .field
  | 0x25 => if bits w 3 5 = 0 ∧ bits w 11 5 = 0 ∧ bits w 19 5 = 0 then .ok (.kor (fld w 16 3) (fld w 8 3) (fld w 0 3)) else .error .field
  | 0x26 => if bits w 3 5 = 0 ∧ bits w 11 5 = 0 ∧ bits w 19 5 = 0 then .ok (.kxor (fld w 16 3) (fld w 8 3) (fld w 0 3)) else .error .field
  | 0x27 => if bits w 3 5 = 0 ∧ bits w 11 5 = 0 ∧ bits w 19 5 = 0 then .ok (.kandn (fld w 16 3) (fld w 8 3) (fld w 0 3)) else .error .field
  | 0x28 => if bits w 0 4 = 0 ∧ bits w 11 5 = 0 ∧ bits w 19 5 = 0 then .ok (.knot (fld w 16 3) (fld w 8 3) (fld w 4 4)) else .error .field
  | 0x29 => if bits w 0 4 = 0 ∧ bits w 11 5 = 0 ∧ bits w 19 5 = 0 then .ok (.kmov (fld w 16 3) (fld w 8 3) (fld w 4 4)) else .error .field
  | 0x2A => if bits w 0 4 = 0 ∧ bits w 11 5 = 0 ∧ bits w 22 2 = 0 then .ok (.kpop (fld w 16 6) (fld w 8 3) (fld w 4 4)) else .error .field
  | 0x2B => if bits w 0 4 = 0 ∧ bits w 11 5 = 0 ∧ bits w 22 2 = 0 then .ok (.kfst (fld w 16 6) (fld w 8 3) (fld w 4 4)) else .error .field
  | 0x2C => if bits w 6 2 = 0 ∧ bits w 11 5 = 0 ∧ bits w 19 5 = 0 then .ok (.ksplit (fld w 16 3) (fld w 8 3) (fld w 0 6)) else .error .field
  | 0x30 => .ok (.add (fld w 16 8) (fld w 8 8) (fld w 0 8))
  | 0x31 => if bits w 6 2 = 0 then .ok (.adds (fld w 16 8) (fld w 8 8) (fld w 0 6)) else .error .field
  | 0x32 => .ok (.sub (fld w 16 8) (fld w 8 8) (fld w 0 8))
  | 0x33 => .ok (.mul (fld w 16 8) (fld w 8 8) (fld w 0 8))
  | 0x34 => .ok (.mulh (fld w 16 8) (fld w 8 8) (fld w 0 8))
  | 0x35 => .ok (.mad (fld w 16 8) (fld w 8 8) (fld w 0 8))
  | 0x36 => .ok (.min (fld w 16 8) (fld w 8 8) (fld w 0 8))
  | 0x37 => .ok (.max (fld w 16 8) (fld w 8 8) (fld w 0 8))
  | 0x38 => if bits w 0 4 = 0 then .ok (.abs (fld w 16 8) (fld w 8 8) (fld w 4 4)) else .error .field
  | 0x39 => if bits w 0 4 = 0 then .ok (.neg (fld w 16 8) (fld w 8 8) (fld w 4 4)) else .error .field
  | 0x3A => .ok (.and (fld w 16 8) (fld w 8 8) (fld w 0 8))
  | 0x3B => .ok (.or (fld w 16 8) (fld w 8 8) (fld w 0 8))
  | 0x3C => .ok (.xor (fld w 16 8) (fld w 8 8) (fld w 0 8))
  | 0x3D => .ok (.andn (fld w 16 8) (fld w 8 8) (fld w 0 8))
  | 0x3E => if bits w 0 4 = 0 then .ok (.not (fld w 16 8) (fld w 8 8) (fld w 4 4)) else .error .field
  | 0x3F => .ok (.shl (fld w 16 8) (fld w 8 8) (fld w 0 8))
  | 0x40 => .ok (.shr (fld w 16 8) (fld w 8 8) (fld w 0 8))
  | 0x41 => .ok (.sha (fld w 16 8) (fld w 8 8) (fld w 0 8))
  | 0x42 => .ok (.rot (fld w 16 8) (fld w 8 8) (fld w 0 8))
  | 0x43 => if bits w 22 2 = 0 then .ok (.cmp (fld w 19 3) (fld w 16 3) (fld w 8 8) (fld w 0 8)) else .error .field
  | 0x44 => .ok (.sel (fld w 16 8) (fld w 8 8) (fld w 0 8))
  | 0x45 => if bits w 0 4 = 0 then .ok (.mov (fld w 16 8) (fld w 8 8) (fld w 4 4)) else .error .field
  | 0x46 => if bits w 0 4 = 0 then .ok (.popc (fld w 16 8) (fld w 8 8) (fld w 4 4)) else .error .field
  | 0x47 => if bits w 0 4 = 0 then .ok (.clz (fld w 16 8) (fld w 8 8) (fld w 4 4)) else .error .field
  | 0x48 => if bits w 0 4 = 0 then .ok (.ctz (fld w 16 8) (fld w 8 8) (fld w 4 4)) else .error .field
  | 0x49 => .ok (.fns (fld w 16 8) (fld w 8 8) (fld w 0 8))
  | 0x4A => if bits w 0 4 = 0 then .ok (.brev (fld w 16 8) (fld w 8 8) (fld w 4 4)) else .error .field
  | 0x4B => .ok (.bfx (fld w 16 8) (fld w 8 8) (fld w 0 8))
  | 0x4C => .ok (.bfi (fld w 16 8) (fld w 8 8) (fld w 0 8))
  | 0x4D => if bits w 5 3 = 0 then .ok (.cvt (fld w 16 8) (fld w 8 8) (fld w 0 5)) else .error .field
  | 0x4E => if bits w 6 2 = 0 then .ok (.cvtn (fld w 16 8) (fld w 8 8) (fld w 0 6)) else .error .field
  | 0x4F => if bits w 6 2 = 0 then .ok (.packn (fld w 16 8) (fld w 8 8) (fld w 0 6)) else .error .field
  | 0x50 => if bits w 6 2 = 0 then .ok (.unpkn (fld w 16 8) (fld w 8 8) (fld w 0 6)) else .error .field
  | 0x51 => .ok (.fadd (fld w 16 8) (fld w 8 8) (fld w 0 8))
  | 0x52 => .ok (.fsub (fld w 16 8) (fld w 8 8) (fld w 0 8))
  | 0x53 => .ok (.fmul (fld w 16 8) (fld w 8 8) (fld w 0 8))
  | 0x54 => .ok (.fma (fld w 16 8) (fld w 8 8) (fld w 0 8))
  | 0x55 => .ok (.fmal (fld w 16 8) (fld w 8 8) (fld w 0 8))
  | 0x56 => .ok (.fmin (fld w 16 8) (fld w 8 8) (fld w 0 8))
  | 0x57 => .ok (.fmax (fld w 16 8) (fld w 8 8) (fld w 0 8))
  | 0x58 => .ok (.fminn (fld w 16 8) (fld w 8 8) (fld w 0 8))
  | 0x59 => .ok (.fmaxn (fld w 16 8) (fld w 8 8) (fld w 0 8))
  | 0x5A => if bits w 0 4 = 0 then .ok (.fabs (fld w 16 8) (fld w 8 8) (fld w 4 4)) else .error .field
  | 0x5B => if bits w 0 4 = 0 then .ok (.fneg (fld w 16 8) (fld w 8 8) (fld w 4 4)) else .error .field
  | 0x5C => if bits w 22 2 = 0 then .ok (.fcmp (fld w 19 3) (fld w 16 3) (fld w 8 8) (fld w 0 8)) else .error .field
  | 0x5D => if bits w 0 4 = 0 then .ok (.fclass (fld w 16 8) (fld w 8 8) (fld w 4 4)) else .error .field
  | 0x5E => if bits w 0 4 = 0 then .ok (.frnd (fld w 16 8) (fld w 8 8) (fld w 4 4)) else .error .field
  | 0x5F => .ok (.fscale (fld w 16 8) (fld w 8 8) (fld w 0 8))
  | 0x60 => .ok (.fdivs (fld w 16 8) (fld w 8 8) (fld w 0 8))
  | 0x61 => if bits w 0 4 = 0 then .ok (.frcp (fld w 16 8) (fld w 8 8) (fld w 4 4)) else .error .field
  | 0x62 => if bits w 0 4 = 0 then .ok (.frsq (fld w 16 8) (fld w 8 8) (fld w 4 4)) else .error .field
  | 0x63 => if bits w 0 4 = 0 then .ok (.fsqrt (fld w 16 8) (fld w 8 8) (fld w 4 4)) else .error .field
  | 0x64 => if bits w 0 4 = 0 then .ok (.fexp2 (fld w 16 8) (fld w 8 8) (fld w 4 4)) else .error .field
  | 0x65 => if bits w 0 4 = 0 then .ok (.flog2 (fld w 16 8) (fld w 8 8) (fld w 4 4)) else .error .field
  | 0x66 => if bits w 0 4 = 0 then .ok (.fsin (fld w 16 8) (fld w 8 8) (fld w 4 4)) else .error .field
  | 0x67 => if bits w 0 4 = 0 then .ok (.fcos (fld w 16 8) (fld w 8 8) (fld w 4 4)) else .error .field
  | 0x68 => if bits w 0 4 = 0 then .ok (.ftanh (fld w 16 8) (fld w 8 8) (fld w 4 4)) else .error .field
  | 0x69 => if bits w 0 4 = 0 then .ok (.bsini (fld w 16 8) (fld w 8 8) (fld w 4 4)) else .error .field
  | 0x6A => .ok (.bsrd (fld w 16 8) (fld w 8 8) (fld w 0 8))
  | 0x6B => .ok (.bspk (fld w 16 8) (fld w 8 8) (fld w 0 8))
  | 0x6C => if bits w 0 4 = 0 then .ok (.bssk (fld w 16 8) (fld w 8 8) (fld w 4 4)) else .error .field
  | 0x6D => if bits w 0 4 = 0 ∧ bits w 13 3 = 0 then .ok (.bsld (fld w 16 8) (fld w 8 5) (fld w 4 4)) else .error .field
  | 0x6E => if bits w 0 4 = 0 then .ok (.bspos (fld w 16 8) (fld w 8 8) (fld w 4 4)) else .error .field
  | 0x70 => .ok (.shflIdx (fld w 16 8) (fld w 8 8) (fld w 0 8))
  | 0x71 => if bits w 6 2 = 0 then .ok (.shflUp (fld w 16 8) (fld w 8 8) (fld w 0 6)) else .error .field
  | 0x72 => if bits w 6 2 = 0 then .ok (.shflDn (fld w 16 8) (fld w 8 8) (fld w 0 6)) else .error .field
  | 0x73 => if bits w 6 2 = 0 then .ok (.shflXor (fld w 16 8) (fld w 8 8) (fld w 0 6)) else .error .field
  | 0x74 => if bits w 3 5 = 0 ∧ bits w 11 5 = 0 ∧ bits w 19 5 = 0 then .ok (.voteAny (fld w 16 3) (fld w 8 3) (fld w 0 3)) else .error .field
  | 0x75 => if bits w 3 5 = 0 ∧ bits w 11 5 = 0 ∧ bits w 19 5 = 0 then .ok (.voteAll (fld w 16 3) (fld w 8 3) (fld w 0 3)) else .error .field
  | 0x76 => if bits w 3 5 = 0 ∧ bits w 11 5 = 0 then .ok (.ballot (fld w 16 8) (fld w 8 3) (fld w 0 3)) else .error .field
  | 0x77 => if bits w 3 5 = 0 then .ok (.rsum (fld w 16 8) (fld w 8 8) (fld w 0 3)) else .error .field
  | 0x78 => if bits w 3 5 = 0 then .ok (.rmin (fld w 16 8) (fld w 8 8) (fld w 0 3)) else .error .field
  | 0x79 => if bits w 3 5 = 0 then .ok (.rmax (fld w 16 8) (fld w 8 8) (fld w 0 3)) else .error .field
  | 0x7A => if bits w 3 5 = 0 then .ok (.scanAdd (fld w 16 8) (fld w 8 8) (fld w 0 3)) else .error .field
  | 0x7B => if bits w 6 2 = 0 ∧ bits w 22 2 = 0 then .ok (.bcast (fld w 16 6) (fld w 8 8) (fld w 0 6)) else .error .field
  | 0x7C => if bits w 0 4 = 0 ∧ bits w 8 8 = 0 then .ok (.laneid (fld w 16 8) (fld w 4 4)) else .error .field
  | 0x7D => if bits w 0 4 = 0 ∧ bits w 14 2 = 0 then .ok (.movs (fld w 16 8) (fld w 8 6) (fld w 4 4)) else .error .field
  | 0x80 => if bits w 6 2 = 0 ∧ bits w 14 2 = 0 ∧ bits w 22 2 = 0 then .ok (.sadd (fld w 16 6) (fld w 8 6) (fld w 0 6)) else .error .field
  | 0x81 => if bits w 6 2 = 0 ∧ bits w 14 2 = 0 ∧ bits w 22 2 = 0 then .ok (.ssub (fld w 16 6) (fld w 8 6) (fld w 0 6)) else .error .field
  | 0x82 => if bits w 6 2 = 0 ∧ bits w 14 2 = 0 ∧ bits w 22 2 = 0 then .ok (.smul (fld w 16 6) (fld w 8 6) (fld w 0 6)) else .error .field
  | 0x83 => if bits w 6 2 = 0 ∧ bits w 14 2 = 0 ∧ bits w 22 2 = 0 then .ok (.sand (fld w 16 6) (fld w 8 6) (fld w 0 6)) else .error .field
  | 0x84 => if bits w 6 2 = 0 ∧ bits w 14 2 = 0 ∧ bits w 22 2 = 0 then .ok (.sor (fld w 16 6) (fld w 8 6) (fld w 0 6)) else .error .field
  | 0x85 => if bits w 6 2 = 0 ∧ bits w 14 2 = 0 ∧ bits w 22 2 = 0 then .ok (.sxor (fld w 16 6) (fld w 8 6) (fld w 0 6)) else .error .field
  | 0x86 => if bits w 6 2 = 0 ∧ bits w 14 2 = 0 ∧ bits w 22 2 = 0 then .ok (.sshl (fld w 16 6) (fld w 8 6) (fld w 0 6)) else .error .field
  | 0x87 => if bits w 6 2 = 0 ∧ bits w 14 2 = 0 ∧ bits w 22 2 = 0 then .ok (.sshr (fld w 16 6) (fld w 8 6) (fld w 0 6)) else .error .field
  | 0x88 => if bits w 6 2 = 0 then .ok (.scmp (fld w 22 2) (fld w 16 6) (fld w 14 2) (fld w 8 6) (fld w 0 6)) else .error .field
  | 0x89 => if bits w 6 2 = 0 ∧ bits w 14 2 = 0 ∧ bits w 22 2 = 0 then .ok (.ssel (fld w 16 6) (fld w 8 6) (fld w 0 6)) else .error .field
  | 0x8A => if bits w 0 4 = 0 ∧ bits w 14 2 = 0 ∧ bits w 22 2 = 0 then .ok (.smov (fld w 16 6) (fld w 8 6) (fld w 4 4)) else .error .field
  | 0x8B => if bits w 0 4 = 0 ∧ bits w 14 2 = 0 ∧ bits w 22 2 = 0 then .ok (.plen (fld w 16 6) (fld w 8 6) (fld w 4 4)) else .error .field
  | 0x90 => match capRef (bits w 8 8) with | some mx => .ok (.ld (fld w 16 8) mx (fld w 0 8)) | none => .error .field
  | 0x91 => if bits w 6 2 = 0 ∧ bits w 13 3 = 0 then .ok (.ldv (fld w 16 8) (fld w 8 5) (fld w 0 6)) else .error .field
  | 0x92 => if bits w 6 2 = 0 ∧ bits w 13 3 = 0 ∧ bits w 22 2 = 0 then .ok (.ldu (fld w 16 6) (fld w 8 5) (fld w 0 6)) else .error .field
  | 0x93 => match capRef (bits w 8 8) with | some mx => .ok (.ldw (fld w 16 8) mx (fld w 0 8)) | none => .error .field
  | 0x94 => match capRef (bits w 8 8) with | some mx => .ok (.st (fld w 16 8) mx (fld w 0 8)) | none => .error .field
  | 0x95 => if bits w 6 2 = 0 ∧ bits w 13 3 = 0 then .ok (.stv (fld w 16 8) (fld w 8 5) (fld w 0 6)) else .error .field
  | 0x96 => if bits w 6 2 = 0 ∧ bits w 13 3 = 0 ∧ bits w 22 2 = 0 then .ok (.stu (fld w 16 6) (fld w 8 5) (fld w 0 6)) else .error .field
  | 0x97 => match capRef (bits w 8 8) with | some mx => .ok (.stn (fld w 16 8) mx (fld w 0 8)) | none => .error .field
  | 0x98 => match capRef (bits w 16 8) with | some qx => (match capRef (bits w 8 8) with | some mx => .ok (.ldq qx mx (fld w 0 8)) | none => .error .field) | none => .error .field
  | 0x99 => match capRef (bits w 16 8) with | some qx => (match capRef (bits w 8 8) with | some mx => .ok (.stq qx mx (fld w 0 8)) | none => .error .field) | none => .error .field
  | 0x9A => match capRef (bits w 8 8) with | some mx => .ok (.ldAcq (fld w 16 8) mx (fld w 0 8)) | none => .error .field
  | 0x9B => match capRef (bits w 8 8) with | some mx => .ok (.stRel (fld w 16 8) mx (fld w 0 8)) | none => .error .field
  | 0x9C => if bits w 17 7 = 0 then match capRef (bits w 8 8) with | some mx => .ok (.prf (fld w 16 1) mx (fld w 0 8)) | none => .error .field else .error .field
  | 0x9D => if bits w 6 2 = 0 ∧ bits w 13 3 = 0 ∧ bits w 22 2 = 0 then .ok (.dead (fld w 16 6) (fld w 8 5) (fld w 0 6)) else .error .field
  | 0x9E => if bits w 15 1 = 0 then .ok (.atom (fld w 20 4) (fld w 16 4) (fld w 13 2) (fld w 8 5) (fld w 0 8)) else .error .field
  | 0x9F => if bits w 6 2 = 0 ∧ bits w 15 1 = 0 then .ok (.atomu (fld w 20 4) (fld w 16 4) (fld w 13 2) (fld w 8 5) (fld w 0 6)) else .error .field
  | 0xA0 => if bits w 13 1 = 0 ∧ bits w 15 1 = 0 then .ok (.red (fld w 20 4) (fld w 16 4) (fld w 14 1) (fld w 8 5) (fld w 0 8)) else .error .field
  | 0xA1 => if bits w 0 4 = 0 ∧ bits w 13 3 = 0 ∧ bits w 22 2 = 0 then .ok (.mcas (fld w 16 6) (fld w 8 5) (fld w 4 4)) else .error .field
  | 0xA2 => if bits w 7 17 = 0 then .ok (.fence (fld w 6 1) (fld w 0 6)) else .error .field
  | 0xA3 => if bits w 6 18 = 0 then .ok (.qfence (fld w 0 6)) else .error .field
  | 0xA4 => if bits w 6 2 = 0 ∧ bits w 13 3 = 0 ∧ bits w 21 3 = 0 then .ok (.pbound (fld w 16 5) (fld w 8 5) (fld w 0 6)) else .error .field
  | 0xA5 => if bits w 13 3 = 0 then .ok (.pboundv (fld w 16 8) (fld w 8 5) (fld w 0 8)) else .error .field
  | 0xA6 => if bits w 6 2 = 0 ∧ bits w 13 3 = 0 ∧ bits w 21 3 = 0 then .ok (.pperm (fld w 16 5) (fld w 8 5) (fld w 0 6)) else .error .field
  | 0xA7 => if bits w 6 2 = 0 ∧ bits w 13 3 = 0 ∧ bits w 21 3 = 0 then .ok (.pform (fld w 16 5) (fld w 8 5) (fld w 0 6)) else .error .field
  | 0xA8 => if bits w 6 2 = 0 ∧ bits w 13 3 = 0 ∧ bits w 21 3 = 0 then .ok (.plock (fld w 16 5) (fld w 8 5) (fld w 0 6)) else .error .field
  | 0xA9 => if bits w 0 4 = 0 ∧ bits w 13 3 = 0 ∧ bits w 21 3 = 0 then .ok (.punlock (fld w 16 5) (fld w 8 5) (fld w 4 4)) else .error .field
  | 0xAA => if bits w 4 4 = 0 ∧ bits w 13 3 = 0 ∧ bits w 22 2 = 0 then .ok (.pinfo (fld w 16 6) (fld w 8 5) (fld w 0 4)) else .error .field
  | 0xAB => if bits w 5 3 = 0 ∧ bits w 13 3 = 0 ∧ bits w 22 2 = 0 then .ok (.pwithin (fld w 16 6) (fld w 8 5) (fld w 0 5)) else .error .field
  | 0xAC => if bits w 5 3 = 0 ∧ bits w 13 3 = 0 ∧ bits w 22 2 = 0 then .ok (.psame (fld w 16 6) (fld w 8 5) (fld w 0 5)) else .error .field
  | 0xAD => if bits w 0 4 = 0 then match capRef (bits w 16 8) with | some dx => (match capRef (bits w 8 8) with | some ax => .ok (.pmov dx ax (fld w 4 4)) | none => .error .field) | none => .error .field else .error .field
  | 0xAE => if bits w 21 3 = 0 ∧ bits w 13 3 = 0 ∧ bits w 1 3 = 0 then (if bits w 0 1 = 0 then .ok (.cmdmk (fld w 16 5) (fld w 8 5) (fld w 4 4)) else .ok (.cmdmkL (fld w 16 5) (fld w 8 5) (fld w 4 4))) else .error .field
  | 0xAF => if bits w 6 2 = 0 ∧ bits w 13 3 = 0 ∧ bits w 21 3 = 0 then .ok (.deleg (fld w 16 5) (fld w 8 5) (fld w 0 6)) else .error .field
  | 0xB0 => if bits w 3 5 = 0 ∧ bits w 13 3 = 0 ∧ bits w 21 3 = 0 then .ok (.cpy (fld w 16 5) (fld w 8 5) (fld w 0 3)) else .error .field
  | 0xB1 => if bits w 3 5 = 0 ∧ bits w 13 3 = 0 ∧ bits w 21 3 = 0 then .ok (.cpyt (fld w 16 5) (fld w 8 5) (fld w 0 3)) else .error .field
  | 0xB2 => if bits w 3 5 = 0 ∧ bits w 13 3 = 0 ∧ bits w 21 3 = 0 then .ok (.cpyg (fld w 16 5) (fld w 8 5) (fld w 0 3)) else .error .field
  | 0xB3 => if bits w 3 5 = 0 ∧ bits w 13 3 = 0 ∧ bits w 21 3 = 0 then .ok (.cpys (fld w 16 5) (fld w 8 5) (fld w 0 3)) else .error .field
  | 0xB4 => if bits w 3 5 = 0 ∧ bits w 13 3 = 0 ∧ bits w 21 3 = 0 then .ok (.cpyb (fld w 16 5) (fld w 8 5) (fld w 0 3)) else .error .field
  | 0xB5 => if bits w 3 5 = 0 ∧ bits w 13 3 = 0 ∧ bits w 21 3 = 0 then .ok (.cpym (fld w 16 5) (fld w 8 5) (fld w 0 3)) else .error .field
  | 0xB6 => if bits w 3 5 = 0 ∧ bits w 13 11 = 0 then .ok (.go (fld w 8 5) (fld w 0 3)) else .error .field
  | 0xB7 => if bits w 6 2 = 0 ∧ bits w 13 11 = 0 then .ok (.bari (fld w 8 5) (fld w 0 6)) else .error .field
  | 0xB8 => if bits w 6 2 = 0 ∧ bits w 13 3 = 0 ∧ bits w 22 2 = 0 then .ok (.bara (fld w 16 6) (fld w 8 5) (fld w 0 6)) else .error .field
  | 0xB9 => if bits w 6 2 = 0 ∧ bits w 13 11 = 0 then .ok (.barx (fld w 8 5) (fld w 0 6)) else .error .field
  | 0xBA => if bits w 6 2 = 0 ∧ bits w 13 11 = 0 then .ok (.qdef (fld w 8 5) (fld w 0 6)) else .error .field
  | 0xBB => if bits w 6 2 = 0 ∧ bits w 13 3 = 0 ∧ bits w 22 2 = 0 then .ok (.qpush (fld w 16 6) (fld w 8 5) (fld w 0 6)) else .error .field
  | 0xBC => if bits w 6 2 = 0 ∧ bits w 13 3 = 0 ∧ bits w 22 2 = 0 then .ok (.qpop (fld w 16 6) (fld w 8 5) (fld w 0 6)) else .error .field
  | 0xBD => if bits w 6 2 = 0 ∧ bits w 13 3 = 0 ∧ bits w 22 2 = 0 then .ok (.qtry (fld w 16 6) (fld w 8 5) (fld w 0 6)) else .error .field
  | 0xBE => if bits w 6 2 = 0 ∧ bits w 13 3 = 0 ∧ bits w 21 3 = 0 then .ok (.qgrant (fld w 16 5) (fld w 8 5) (fld w 0 6)) else .error .field
  | 0xBF => if bits w 6 2 = 0 ∧ bits w 13 3 = 0 ∧ bits w 17 7 = 0 then .ok (.mloadb (fld w 16 1) (fld w 8 5) (fld w 0 6)) else .error .field
  | 0xC0 => if bits w 4 4 = 0 ∧ bits w 14 2 = 0 ∧ bits w 19 5 = 0 then .ok (.msub (fld w 16 3) (fld w 8 6) (fld w 0 4)) else .error .field
  | 0xC1 => if bits w 0 4 = 0 ∧ bits w 8 8 = 0 ∧ bits w 19 5 = 0 then .ok (.munsub (fld w 16 3) (fld w 4 4)) else .error .field
  | 0xC2 => if bits w 6 2 = 0 ∧ bits w 13 3 = 0 ∧ bits w 22 2 = 0 then .ok (.mpub (fld w 16 6) (fld w 8 5) (fld w 0 6)) else .error .field
  | 0xC3 => if bits w 6 2 = 0 ∧ bits w 13 3 = 0 ∧ bits w 21 3 = 0 then .ok (.mma (fld w 20 1) (fld w 16 4) (fld w 8 5) (fld w 0 6)) else .error .field
  | 0xC4 => if bits w 6 2 = 0 ∧ bits w 13 3 = 0 ∧ bits w 21 3 = 0 then .ok (.mmas (fld w 20 1) (fld w 16 4) (fld w 8 5) (fld w 0 6)) else .error .field
  | 0xC5 => if bits w 0 4 = 0 ∧ bits w 8 8 = 0 ∧ bits w 22 2 = 0 then .ok (.mfence (fld w 16 6) (fld w 4 4)) else .error .field
  | 0xC6 => if bits w 6 2 = 0 ∧ bits w 13 3 = 0 ∧ bits w 21 3 = 0 then .ok (.mepi (fld w 20 1) (fld w 16 4) (fld w 8 5) (fld w 0 6)) else .error .field
  | 0xC7 => if bits w 0 4 = 0 ∧ bits w 8 8 = 0 ∧ bits w 20 4 = 0 then .ok (.mclr (fld w 16 4) (fld w 4 4)) else .error .field
  | 0xC8 => if bits w 0 4 = 0 ∧ bits w 8 8 = 0 ∧ bits w 19 5 = 0 then .ok (.mrel (fld w 16 3) (fld w 4 4)) else .error .field
  | 0xC9 => if bits w 8 8 = 0 ∧ bits w 22 2 = 0 then .ok (.mstat (fld w 16 6) (fld w 0 8)) else .error .field
  | 0xCA => if bits w 5 3 = 0 ∧ bits w 13 3 = 0 ∧ bits w 21 3 = 0 then .ok (.nspawn (fld w 16 5) (fld w 8 5) (fld w 0 5)) else .error .field
  | 0xCB => if bits w 3 5 = 0 ∧ bits w 13 3 = 0 ∧ bits w 21 3 = 0 then .ok (.mlred (fld w 16 5) (fld w 8 5) (fld w 0 3)) else .error .field
  | 0xCC => if bits w 3 5 = 0 ∧ bits w 13 3 = 0 ∧ bits w 21 3 = 0 then .ok (.mstm (fld w 16 5) (fld w 8 5) (fld w 0 3)) else .error .field
  | 0xCD => if bits w 0 4 = 0 ∧ bits w 13 3 = 0 ∧ bits w 21 3 = 0 then .ok (.grpmk (fld w 16 5) (fld w 8 5) (fld w 4 4)) else .error .field
  | 0xCE => if bits w 13 3 = 0 ∧ bits w 22 2 = 0 then .ok (.grpq (fld w 16 6) (fld w 8 5) (fld w 0 8)) else .error .field
  | 0xCF => if bits w 6 2 = 0 ∧ bits w 13 3 = 0 ∧ bits w 22 2 = 0 then .ok (.rsq (fld w 16 6) (fld w 8 5) (fld w 0 6)) else .error .field
  | 0xD0 => if bits w 8 8 = 0 ∧ bits w 0 4 = 0 then .ok (.movl (fld w 16 8) (fld w 4 4) lit) else .error .field
  | 0xD1 => if bits w 22 2 = 0 ∧ bits w 8 8 = 0 ∧ bits w 0 4 = 0 then .ok (.smovl (fld w 16 6) (fld w 4 4) lit) else .error .field
  | 0xD2 => if bits w 8 16 = 0 ∧ bits w 0 4 = 0 then .ok (.setml (fld w 4 4) lit) else .error .field
  | 0xD3 => if bits w 0 4 = 0 then .ok (.addLit (fld w 16 8) (fld w 8 8) (fld w 4 4) lit) else .error .field
  | 0xD4 => if bits w 0 4 = 0 then .ok (.subLit (fld w 16 8) (fld w 8 8) (fld w 4 4) lit) else .error .field
  | 0xD5 => if bits w 0 4 = 0 then .ok (.mulLit (fld w 16 8) (fld w 8 8) (fld w 4 4) lit) else .error .field
  | 0xD6 => if bits w 0 4 = 0 then .ok (.andLit (fld w 16 8) (fld w 8 8) (fld w 4 4) lit) else .error .field
  | 0xD7 => if bits w 0 4 = 0 then .ok (.orLit (fld w 16 8) (fld w 8 8) (fld w 4 4) lit) else .error .field
  | 0xD8 => if bits w 0 4 = 0 then .ok (.xorLit (fld w 16 8) (fld w 8 8) (fld w 4 4) lit) else .error .field
  | 0xD9 => if bits w 0 4 = 0 then .ok (.shlLit (fld w 16 8) (fld w 8 8) (fld w 4 4) lit) else .error .field
  | 0xDA => if bits w 0 4 = 0 then .ok (.shrLit (fld w 16 8) (fld w 8 8) (fld w 4 4) lit) else .error .field
  | 0xDB => if bits w 0 4 = 0 then .ok (.shaLit (fld w 16 8) (fld w 8 8) (fld w 4 4) lit) else .error .field
  | 0xDC => if bits w 0 4 = 0 then .ok (.minLit (fld w 16 8) (fld w 8 8) (fld w 4 4) lit) else .error .field
  | 0xDD => if bits w 0 4 = 0 then .ok (.maxLit (fld w 16 8) (fld w 8 8) (fld w 4 4) lit) else .error .field
  | 0xDE => if bits w 22 2 = 0 ∧ bits w 0 4 = 0 then .ok (.cmpLit (fld w 19 3) (fld w 16 3) (fld w 8 8) (fld w 4 4) lit) else .error .field
  | 0xDF => if bits w 0 4 = 0 then .ok (.faddLit (fld w 16 8) (fld w 8 8) (fld w 4 4) lit) else .error .field
  | 0xE0 => if bits w 0 4 = 0 then .ok (.fmulLit (fld w 16 8) (fld w 8 8) (fld w 4 4) lit) else .error .field
  | 0xE1 => if bits w 0 4 = 0 then .ok (.fmaLit (fld w 16 8) (fld w 8 8) (fld w 4 4) lit) else .error .field
  | 0xE2 => if bits w 14 2 = 0 ∧ bits w 22 2 = 0 ∧ bits w 0 4 = 0 then .ok (.saddLit (fld w 16 6) (fld w 8 6) (fld w 4 4) lit) else .error .field
  | 0xE3 => if bits w 14 2 = 0 ∧ bits w 22 2 = 0 ∧ bits w 0 4 = 0 then .ok (.ssubLit (fld w 16 6) (fld w 8 6) (fld w 4 4) lit) else .error .field
  | 0xE4 => if bits w 14 2 = 0 ∧ bits w 22 2 = 0 ∧ bits w 0 4 = 0 then .ok (.smulLit (fld w 16 6) (fld w 8 6) (fld w 4 4) lit) else .error .field
  | 0xE5 => if bits w 14 2 = 0 ∧ bits w 22 2 = 0 ∧ bits w 0 4 = 0 then .ok (.sandLit (fld w 16 6) (fld w 8 6) (fld w 4 4) lit) else .error .field
  | 0xE6 => if bits w 14 2 = 0 ∧ bits w 22 2 = 0 ∧ bits w 0 4 = 0 then .ok (.sorLit (fld w 16 6) (fld w 8 6) (fld w 4 4) lit) else .error .field
  | 0xE7 => if bits w 14 2 = 0 ∧ bits w 22 2 = 0 ∧ bits w 0 4 = 0 then .ok (.sxorLit (fld w 16 6) (fld w 8 6) (fld w 4 4) lit) else .error .field
  | 0xE8 => if bits w 14 2 = 0 ∧ bits w 22 2 = 0 ∧ bits w 0 4 = 0 then .ok (.sshlLit (fld w 16 6) (fld w 8 6) (fld w 4 4) lit) else .error .field
  | 0xE9 => if bits w 14 2 = 0 ∧ bits w 22 2 = 0 ∧ bits w 0 4 = 0 then .ok (.sshrLit (fld w 16 6) (fld w 8 6) (fld w 4 4) lit) else .error .field
  | 0xEA => if bits w 0 4 = 0 then .ok (.scmpLit (fld w 22 2) (fld w 16 6) (fld w 14 2) (fld w 8 6) (fld w 4 4) lit) else .error .field
  | _ => .error .opcode

/-- A word with the field value `x` added at bit `lo`. -/
def put (lo x w : Nat) : Nat := x * 2 ^ lo + w

/-- The first word of an instruction, as a number, from the same encodings; a step without a word has none (0). -/
def encodeNat : Instr → Nat
  | .ill d a b => put 0 b.toNat (put 8 a.toNat (put 16 d.toNat 0x00000000))
  | .nop h => put 4 h.toNat 0x01000000
  | .bra i => put 0 i.toNat 0x02000000
  | .bany k i => put 0 i.toNat (put 16 k.toNat 0x03000000)
  | .ball k i => put 0 i.toNat (put 16 k.toNat 0x04000000)
  | .bnone k i => put 0 i.toNat (put 16 k.toNat 0x05000000)
  | .brs s i => put 0 i.toNat (put 16 s.toNat 0x06000000)
  | .brsZ s i => put 0 i.toNat (put 16 s.toNat (put 22 2 0x06000000))
  | .jmp s h => put 4 h.toNat (put 8 s.toNat 0x07000000)
  | .call d i => put 0 i.toNat (put 16 d.toNat 0x08000000)
  | .ret s h => put 4 h.toNat (put 8 s.toNat 0x09000000)
  | .rep s l => put 0 l.toNat (put 8 s.toNat 0x0A000000)
  | .loopb k l => put 0 l.toNat (put 8 k.toNat 0x0B000000)
  | .exit h => put 4 h.toNat 0x0C000000
  | .endTeam h => put 4 h.toNat 0x0D000000
  | .yield n h => put 4 h.toNat (put 8 n.toNat 0x0E000000)
  | .yieldc t c a b => put 0 b.toNat (put 8 a.toNat (put 16 c.toNat (put 23 t.toNat 0x0F000000)))
  | .setm s h => put 4 h.toNat (put 8 s.toNat 0x10000000)
  | .getm d h => put 4 h.toNat (put 16 d.toNat 0x11000000)
  | .setpri n => put 0 n.toNat 0x12000000
  | .role n => put 0 n.toNat 0x13000000
  | .join n => put 0 n.toNat 0x14000000
  | .leave n => put 0 n.toNat 0x15000000
  | .trap v => put 0 v.toNat 0x16000000
  | .bkpt v => put 0 v.toNat 0x17000000
  | .eret h => put 4 h.toNat 0x18000000
  | .rdsr d n => put 0 n.toNat (put 16 d.toNat 0x19000000)
  | .wrsr n s h => put 4 h.toNat (put 8 s.toNat (put 16 n.toNat 0x1A000000))
  | .seedr a h => put 4 h.toNat (put 8 a.toNat 0x1B000000)
  | .waitc l s c t => put 0 t.toNat (put 6 c.toNat (put 12 s.toNat (put 18 l.toNat 0x1C000000)))
  | .monarm c s => put 0 s.toNat (put 8 c.toNat 0x1D000000)
  | .monwait d a h => put 4 h.toNat (put 8 a.toNat (put 16 d.toNat 0x1E000000))
  | .barw d c b => put 0 b.toNat (put 8 c.toNat (put 16 d.toNat 0x1F000000))
  | .bary d c b => put 0 b.toNat (put 8 c.toNat (put 16 d.toNat 0x20000000))
  | .mwait d a h => put 4 h.toNat (put 8 a.toNat (put 16 d.toNat 0x21000000))
  | .revoke d c h => put 4 h.toNat (put 8 c.toNat (put 16 d.toNat 0x22000000))
  | .sweepq d h => put 4 h.toNat (put 16 d.toNat 0x23000000)
  | .kand d a b => put 0 b.toNat (put 8 a.toNat (put 16 d.toNat 0x24000000))
  | .kor d a b => put 0 b.toNat (put 8 a.toNat (put 16 d.toNat 0x25000000))
  | .kxor d a b => put 0 b.toNat (put 8 a.toNat (put 16 d.toNat 0x26000000))
  | .kandn d a b => put 0 b.toNat (put 8 a.toNat (put 16 d.toNat 0x27000000))
  | .knot d a h => put 4 h.toNat (put 8 a.toNat (put 16 d.toNat 0x28000000))
  | .kmov d a h => put 4 h.toNat (put 8 a.toNat (put 16 d.toNat 0x29000000))
  | .kpop d a h => put 4 h.toNat (put 8 a.toNat (put 16 d.toNat 0x2A000000))
  | .kfst d a h => put 4 h.toNat (put 8 a.toNat (put 16 d.toNat 0x2B000000))
  | .ksplit d a b => put 0 b.toNat (put 8 a.toNat (put 16 d.toNat 0x2C000000))
  | .add d a b => put 0 b.toNat (put 8 a.toNat (put 16 d.toNat 0x30000000))
  | .adds d a b => put 0 b.toNat (put 8 a.toNat (put 16 d.toNat 0x31000000))
  | .sub d a b => put 0 b.toNat (put 8 a.toNat (put 16 d.toNat 0x32000000))
  | .mul d a b => put 0 b.toNat (put 8 a.toNat (put 16 d.toNat 0x33000000))
  | .mulh d a b => put 0 b.toNat (put 8 a.toNat (put 16 d.toNat 0x34000000))
  | .mad d a b => put 0 b.toNat (put 8 a.toNat (put 16 d.toNat 0x35000000))
  | .min d a b => put 0 b.toNat (put 8 a.toNat (put 16 d.toNat 0x36000000))
  | .max d a b => put 0 b.toNat (put 8 a.toNat (put 16 d.toNat 0x37000000))
  | .abs d a h => put 4 h.toNat (put 8 a.toNat (put 16 d.toNat 0x38000000))
  | .neg d a h => put 4 h.toNat (put 8 a.toNat (put 16 d.toNat 0x39000000))
  | .and d a b => put 0 b.toNat (put 8 a.toNat (put 16 d.toNat 0x3A000000))
  | .or d a b => put 0 b.toNat (put 8 a.toNat (put 16 d.toNat 0x3B000000))
  | .xor d a b => put 0 b.toNat (put 8 a.toNat (put 16 d.toNat 0x3C000000))
  | .andn d a b => put 0 b.toNat (put 8 a.toNat (put 16 d.toNat 0x3D000000))
  | .not d a h => put 4 h.toNat (put 8 a.toNat (put 16 d.toNat 0x3E000000))
  | .shl d a b => put 0 b.toNat (put 8 a.toNat (put 16 d.toNat 0x3F000000))
  | .shr d a b => put 0 b.toNat (put 8 a.toNat (put 16 d.toNat 0x40000000))
  | .sha d a b => put 0 b.toNat (put 8 a.toNat (put 16 d.toNat 0x41000000))
  | .rot d a b => put 0 b.toNat (put 8 a.toNat (put 16 d.toNat 0x42000000))
  | .cmp c d a b => put 0 b.toNat (put 8 a.toNat (put 16 d.toNat (put 19 c.toNat 0x43000000)))
  | .sel d a b => put 0 b.toNat (put 8 a.toNat (put 16 d.toNat 0x44000000))
  | .mov d a h => put 4 h.toNat (put 8 a.toNat (put 16 d.toNat 0x45000000))
  | .popc d a h => put 4 h.toNat (put 8 a.toNat (put 16 d.toNat 0x46000000))
  | .clz d a h => put 4 h.toNat (put 8 a.toNat (put 16 d.toNat 0x47000000))
  | .ctz d a h => put 4 h.toNat (put 8 a.toNat (put 16 d.toNat 0x48000000))
  | .fns d a b => put 0 b.toNat (put 8 a.toNat (put 16 d.toNat 0x49000000))
  | .brev d a h => put 4 h.toNat (put 8 a.toNat (put 16 d.toNat 0x4A000000))
  | .bfx d a b => put 0 b.toNat (put 8 a.toNat (put 16 d.toNat 0x4B000000))
  | .bfi d a b => put 0 b.toNat (put 8 a.toNat (put 16 d.toNat 0x4C000000))
  | .cvt d a t => put 0 t.toNat (put 8 a.toNat (put 16 d.toNat 0x4D000000))
  | .cvtn d a f => put 0 f.toNat (put 8 a.toNat (put 16 d.toNat 0x4E000000))
  | .packn d a f => put 0 f.toNat (put 8 a.toNat (put 16 d.toNat 0x4F000000))
  | .unpkn d a f => put 0 f.toNat (put 8 a.toNat (put 16 d.toNat 0x50000000))
  | .fadd d a b => put 0 b.toNat (put 8 a.toNat (put 16 d.toNat 0x51000000))
  | .fsub d a b => put 0 b.toNat (put 8 a.toNat (put 16 d.toNat 0x52000000))
  | .fmul d a b => put 0 b.toNat (put 8 a.toNat (put 16 d.toNat 0x53000000))
  | .fma d a b => put 0 b.toNat (put 8 a.toNat (put 16 d.toNat 0x54000000))
  | .fmal d a b => put 0 b.toNat (put 8 a.toNat (put 16 d.toNat 0x55000000))
  | .fmin d a b => put 0 b.toNat (put 8 a.toNat (put 16 d.toNat 0x56000000))
  | .fmax d a b => put 0 b.toNat (put 8 a.toNat (put 16 d.toNat 0x57000000))
  | .fminn d a b => put 0 b.toNat (put 8 a.toNat (put 16 d.toNat 0x58000000))
  | .fmaxn d a b => put 0 b.toNat (put 8 a.toNat (put 16 d.toNat 0x59000000))
  | .fabs d a h => put 4 h.toNat (put 8 a.toNat (put 16 d.toNat 0x5A000000))
  | .fneg d a h => put 4 h.toNat (put 8 a.toNat (put 16 d.toNat 0x5B000000))
  | .fcmp c d a b => put 0 b.toNat (put 8 a.toNat (put 16 d.toNat (put 19 c.toNat 0x5C000000)))
  | .fclass d a h => put 4 h.toNat (put 8 a.toNat (put 16 d.toNat 0x5D000000))
  | .frnd d a h => put 4 h.toNat (put 8 a.toNat (put 16 d.toNat 0x5E000000))
  | .fscale d a b => put 0 b.toNat (put 8 a.toNat (put 16 d.toNat 0x5F000000))
  | .fdivs d a b => put 0 b.toNat (put 8 a.toNat (put 16 d.toNat 0x60000000))
  | .frcp d a h => put 4 h.toNat (put 8 a.toNat (put 16 d.toNat 0x61000000))
  | .frsq d a h => put 4 h.toNat (put 8 a.toNat (put 16 d.toNat 0x62000000))
  | .fsqrt d a h => put 4 h.toNat (put 8 a.toNat (put 16 d.toNat 0x63000000))
  | .fexp2 d a h => put 4 h.toNat (put 8 a.toNat (put 16 d.toNat 0x64000000))
  | .flog2 d a h => put 4 h.toNat (put 8 a.toNat (put 16 d.toNat 0x65000000))
  | .fsin d a h => put 4 h.toNat (put 8 a.toNat (put 16 d.toNat 0x66000000))
  | .fcos d a h => put 4 h.toNat (put 8 a.toNat (put 16 d.toNat 0x67000000))
  | .ftanh d a h => put 4 h.toNat (put 8 a.toNat (put 16 d.toNat 0x68000000))
  | .bsini q a h => put 4 h.toNat (put 8 a.toNat (put 16 q.toNat 0x69000000))
  | .bsrd d q b => put 0 b.toNat (put 8 q.toNat (put 16 d.toNat 0x6A000000))
  | .bspk d q b => put 0 b.toNat (put 8 q.toNat (put 16 d.toNat 0x6B000000))
  | .bssk q b h => put 4 h.toNat (put 8 b.toNat (put 16 q.toNat 0x6C000000))
  | .bsld q c h => put 4 h.toNat (put 8 c.toNat (put 16 q.toNat 0x6D000000))
  | .bspos d q h => put 4 h.toNat (put 8 q.toNat (put 16 d.toNat 0x6E000000))
  | .shflIdx d a b => put 0 b.toNat (put 8 a.toNat (put 16 d.toNat 0x70000000))
  | .shflUp d a i => put 0 i.toNat (put 8 a.toNat (put 16 d.toNat 0x71000000))
  | .shflDn d a i => put 0 i.toNat (put 8 a.toNat (put 16 d.toNat 0x72000000))
  | .shflXor d a i => put 0 i.toNat (put 8 a.toNat (put 16 d.toNat 0x73000000))
  | .voteAny d a b => put 0 b.toNat (put 8 a.toNat (put 16 d.toNat 0x74000000))
  | .voteAll d a b => put 0 b.toNat (put 8 a.toNat (put 16 d.toNat 0x75000000))
  | .ballot d a b => put 0 b.toNat (put 8 a.toNat (put 16 d.toNat 0x76000000))
  | .rsum d a b => put 0 b.toNat (put 8 a.toNat (put 16 d.toNat 0x77000000))
  | .rmin d a b => put 0 b.toNat (put 8 a.toNat (put 16 d.toNat 0x78000000))
  | .rmax d a b => put 0 b.toNat (put 8 a.toNat (put 16 d.toNat 0x79000000))
  | .scanAdd d a b => put 0 b.toNat (put 8 a.toNat (put 16 d.toNat 0x7A000000))
  | .bcast d a b => put 0 b.toNat (put 8 a.toNat (put 16 d.toNat 0x7B000000))
  | .laneid d h => put 4 h.toNat (put 16 d.toNat 0x7C000000)
  | .movs d a h => put 4 h.toNat (put 8 a.toNat (put 16 d.toNat 0x7D000000))
  | .sadd d a b => put 0 b.toNat (put 8 a.toNat (put 16 d.toNat 0x80000000))
  | .ssub d a b => put 0 b.toNat (put 8 a.toNat (put 16 d.toNat 0x81000000))
  | .smul d a b => put 0 b.toNat (put 8 a.toNat (put 16 d.toNat 0x82000000))
  | .sand d a b => put 0 b.toNat (put 8 a.toNat (put 16 d.toNat 0x83000000))
  | .sor d a b => put 0 b.toNat (put 8 a.toNat (put 16 d.toNat 0x84000000))
  | .sxor d a b => put 0 b.toNat (put 8 a.toNat (put 16 d.toNat 0x85000000))
  | .sshl d a b => put 0 b.toNat (put 8 a.toNat (put 16 d.toNat 0x86000000))
  | .sshr d a b => put 0 b.toNat (put 8 a.toNat (put 16 d.toNat 0x87000000))
  | .scmp x d y a b => put 0 b.toNat (put 8 a.toNat (put 14 y.toNat (put 16 d.toNat (put 22 x.toNat 0x88000000))))
  | .ssel d a b => put 0 b.toNat (put 8 a.toNat (put 16 d.toNat 0x89000000))
  | .smov d a h => put 4 h.toNat (put 8 a.toNat (put 16 d.toNat 0x8A000000))
  | .plen d a h => put 4 h.toNat (put 8 a.toNat (put 16 d.toNat 0x8B000000))
  | .ld d m o => put 0 o.toNat (put 8 (capBits m) (put 16 d.toNat 0x90000000))
  | .ldv d c o => put 0 o.toNat (put 8 c.toNat (put 16 d.toNat 0x91000000))
  | .ldu d c o => put 0 o.toNat (put 8 c.toNat (put 16 d.toNat 0x92000000))
  | .ldw d m o => put 0 o.toNat (put 8 (capBits m) (put 16 d.toNat 0x93000000))
  | .st d m o => put 0 o.toNat (put 8 (capBits m) (put 16 d.toNat 0x94000000))
  | .stv d c o => put 0 o.toNat (put 8 c.toNat (put 16 d.toNat 0x95000000))
  | .stu d c o => put 0 o.toNat (put 8 c.toNat (put 16 d.toNat 0x96000000))
  | .stn d m o => put 0 o.toNat (put 8 (capBits m) (put 16 d.toNat 0x97000000))
  | .ldq q m o => put 0 o.toNat (put 8 (capBits m) (put 16 (capBits q) 0x98000000))
  | .stq q m o => put 0 o.toNat (put 8 (capBits m) (put 16 (capBits q) 0x99000000))
  | .ldAcq d m o => put 0 o.toNat (put 8 (capBits m) (put 16 d.toNat 0x9A000000))
  | .stRel d m o => put 0 o.toNat (put 8 (capBits m) (put 16 d.toNat 0x9B000000))
  | .prf l m o => put 0 o.toNat (put 8 (capBits m) (put 16 l.toNat 0x9C000000))
  | .dead l c o => put 0 o.toNat (put 8 c.toNat (put 16 l.toNat 0x9D000000))
  | .atom p n r c o => put 0 o.toNat (put 8 c.toNat (put 13 r.toNat (put 16 n.toNat (put 20 p.toNat 0x9E000000))))
  | .atomu p m r c o => put 0 o.toNat (put 8 c.toNat (put 13 r.toNat (put 16 m.toNat (put 20 p.toNat 0x9F000000))))
  | .red p n r c o => put 0 o.toNat (put 8 c.toNat (put 14 r.toNat (put 16 n.toNat (put 20 p.toNat 0xA0000000))))
  | .mcas d c h => put 4 h.toNat (put 8 c.toNat (put 16 d.toNat 0xA1000000))
  | .fence m s => put 0 s.toNat (put 6 m.toNat 0xA2000000)
  | .qfence q => put 0 q.toNat 0xA3000000
  | .pbound d a b => put 0 b.toNat (put 8 a.toNat (put 16 d.toNat 0xA4000000))
  | .pboundv q a b => put 0 b.toNat (put 8 a.toNat (put 16 q.toNat 0xA5000000))
  | .pperm d a b => put 0 b.toNat (put 8 a.toNat (put 16 d.toNat 0xA6000000))
  | .pform d a b => put 0 b.toNat (put 8 a.toNat (put 16 d.toNat 0xA7000000))
  | .plock d a b => put 0 b.toNat (put 8 a.toNat (put 16 d.toNat 0xA8000000))
  | .punlock d a h => put 4 h.toNat (put 8 a.toNat (put 16 d.toNat 0xA9000000))
  | .pinfo d a f => put 0 f.toNat (put 8 a.toNat (put 16 d.toNat 0xAA000000))
  | .pwithin d a b => put 0 b.toNat (put 8 a.toNat (put 16 d.toNat 0xAB000000))
  | .psame d a b => put 0 b.toNat (put 8 a.toNat (put 16 d.toNat 0xAC000000))
  | .pmov d a h => put 4 h.toNat (put 8 (capBits a) (put 16 (capBits d) 0xAD000000))
  | .cmdmk d a h => put 4 h.toNat (put 8 a.toNat (put 16 d.toNat 0xAE000000))
  | .cmdmkL d a h => put 4 h.toNat (put 8 a.toNat (put 16 d.toNat (put 0 1 0xAE000000)))
  | .deleg d a b => put 0 b.toNat (put 8 a.toNat (put 16 d.toNat 0xAF000000))
  | .cpy d a g => put 0 g.toNat (put 8 a.toNat (put 16 d.toNat 0xB0000000))
  | .cpyt d a g => put 0 g.toNat (put 8 a.toNat (put 16 d.toNat 0xB1000000))
  | .cpyg d a g => put 0 g.toNat (put 8 a.toNat (put 16 d.toNat 0xB2000000))
  | .cpys d a g => put 0 g.toNat (put 8 a.toNat (put 16 d.toNat 0xB3000000))
  | .cpyb d a g => put 0 g.toNat (put 8 a.toNat (put 16 d.toNat 0xB4000000))
  | .cpym d a g => put 0 g.toNat (put 8 a.toNat (put 16 d.toNat 0xB5000000))
  | .go a g => put 0 g.toNat (put 8 a.toNat 0xB6000000)
  | .bari c b => put 0 b.toNat (put 8 c.toNat 0xB7000000)
  | .bara d c b => put 0 b.toNat (put 8 c.toNat (put 16 d.toNat 0xB8000000))
  | .barx c b => put 0 b.toNat (put 8 c.toNat 0xB9000000)
  | .qdef c b => put 0 b.toNat (put 8 c.toNat 0xBA000000)
  | .qpush d c b => put 0 b.toNat (put 8 c.toNat (put 16 d.toNat 0xBB000000))
  | .qpop d c b => put 0 b.toNat (put 8 c.toNat (put 16 d.toNat 0xBC000000))
  | .qtry d c b => put 0 b.toNat (put 8 c.toNat (put 16 d.toNat 0xBD000000))
  | .qgrant t c b => put 0 b.toNat (put 8 c.toNat (put 16 t.toNat 0xBE000000))
  | .mloadb l c b => put 0 b.toNat (put 8 c.toNat (put 16 l.toNat 0xBF000000))
  | .msub i n w => put 0 w.toNat (put 8 n.toNat (put 16 i.toNat 0xC0000000))
  | .munsub i h => put 4 h.toNat (put 16 i.toNat 0xC1000000)
  | .mpub n c b => put 0 b.toNat (put 8 c.toNat (put 16 n.toNat 0xC2000000))
  | .mma l t c b => put 0 b.toNat (put 8 c.toNat (put 16 t.toNat (put 20 l.toNat 0xC3000000)))
  | .mmas l t c b => put 0 b.toNat (put 8 c.toNat (put 16 t.toNat (put 20 l.toNat 0xC4000000)))
  | .mfence d h => put 4 h.toNat (put 16 d.toNat 0xC5000000)
  | .mepi k t c b => put 0 b.toNat (put 8 c.toNat (put 16 t.toNat (put 20 k.toNat 0xC6000000)))
  | .mclr t h => put 4 h.toNat (put 16 t.toNat 0xC7000000)
  | .mrel i h => put 4 h.toNat (put 16 i.toNat 0xC8000000)
  | .mstat d s => put 0 s.toNat (put 16 d.toNat 0xC9000000)
  | .nspawn g a s => put 0 s.toNat (put 8 a.toNat (put 16 g.toNat 0xCA000000))
  | .mlred d a g => put 0 g.toNat (put 8 a.toNat (put 16 d.toNat 0xCB000000))
  | .mstm d a g => put 0 g.toNat (put 8 a.toNat (put 16 d.toNat 0xCC000000))
  | .grpmk d a h => put 4 h.toNat (put 8 a.toNat (put 16 d.toNat 0xCD000000))
  | .grpq d a s => put 0 s.toNat (put 8 a.toNat (put 16 d.toNat 0xCE000000))
  | .rsq d a b => put 0 b.toNat (put 8 a.toNat (put 16 d.toNat 0xCF000000))
  | .movl d h _ => put 4 h.toNat (put 16 d.toNat 0xD0000000)
  | .smovl d h _ => put 4 h.toNat (put 16 d.toNat 0xD1000000)
  | .setml h _ => put 4 h.toNat 0xD2000000
  | .addLit d a h _ => put 4 h.toNat (put 8 a.toNat (put 16 d.toNat 0xD3000000))
  | .subLit d a h _ => put 4 h.toNat (put 8 a.toNat (put 16 d.toNat 0xD4000000))
  | .mulLit d a h _ => put 4 h.toNat (put 8 a.toNat (put 16 d.toNat 0xD5000000))
  | .andLit d a h _ => put 4 h.toNat (put 8 a.toNat (put 16 d.toNat 0xD6000000))
  | .orLit d a h _ => put 4 h.toNat (put 8 a.toNat (put 16 d.toNat 0xD7000000))
  | .xorLit d a h _ => put 4 h.toNat (put 8 a.toNat (put 16 d.toNat 0xD8000000))
  | .shlLit d a h _ => put 4 h.toNat (put 8 a.toNat (put 16 d.toNat 0xD9000000))
  | .shrLit d a h _ => put 4 h.toNat (put 8 a.toNat (put 16 d.toNat 0xDA000000))
  | .shaLit d a h _ => put 4 h.toNat (put 8 a.toNat (put 16 d.toNat 0xDB000000))
  | .minLit d a h _ => put 4 h.toNat (put 8 a.toNat (put 16 d.toNat 0xDC000000))
  | .maxLit d a h _ => put 4 h.toNat (put 8 a.toNat (put 16 d.toNat 0xDD000000))
  | .cmpLit c d a h _ => put 4 h.toNat (put 8 a.toNat (put 16 d.toNat (put 19 c.toNat 0xDE000000)))
  | .faddLit d a h _ => put 4 h.toNat (put 8 a.toNat (put 16 d.toNat 0xDF000000))
  | .fmulLit d a h _ => put 4 h.toNat (put 8 a.toNat (put 16 d.toNat 0xE0000000))
  | .fmaLit d a h _ => put 4 h.toNat (put 8 a.toNat (put 16 d.toNat 0xE1000000))
  | .saddLit d a h _ => put 4 h.toNat (put 8 a.toNat (put 16 d.toNat 0xE2000000))
  | .ssubLit d a h _ => put 4 h.toNat (put 8 a.toNat (put 16 d.toNat 0xE3000000))
  | .smulLit d a h _ => put 4 h.toNat (put 8 a.toNat (put 16 d.toNat 0xE4000000))
  | .sandLit d a h _ => put 4 h.toNat (put 8 a.toNat (put 16 d.toNat 0xE5000000))
  | .sorLit d a h _ => put 4 h.toNat (put 8 a.toNat (put 16 d.toNat 0xE6000000))
  | .sxorLit d a h _ => put 4 h.toNat (put 8 a.toNat (put 16 d.toNat 0xE7000000))
  | .sshlLit d a h _ => put 4 h.toNat (put 8 a.toNat (put 16 d.toNat 0xE8000000))
  | .sshrLit d a h _ => put 4 h.toNat (put 8 a.toNat (put 16 d.toNat 0xE9000000))
  | .scmpLit x d y a h _ => put 4 h.toNat (put 8 a.toNat (put 14 y.toNat (put 16 d.toNat (put 22 x.toNat 0xEA000000))))
  | .deadline => 0
  | .agingBoost _ => 0
  | .roleUnpark _ => 0
  | .yieldcResume _ => 0
  | .monitorWake _ => 0
  | .monitorPoll _ _ => 0
  | .loadDataReturn _ => 0
  | .storeAck _ => 0
  | .mcasLockGrant _ => 0
  | .deadComplete _ => 0
  | .qtailWrite _ _ _ => 0
  | .launchAccept _ _ => 0
  | .dispatch _ _ _ _ => 0
  | .pressing _ _ => 0
  | .teamStart _ => 0
  | .instanceComplete _ => 0
  | .starvationPreempt _ => 0
  | .preemptSave _ _ => 0
  | .drain _ => 0
  | .shopMigrate _ _ => 0
  | .copyComplete _ _ => 0
  | .copyError _ _ _ => 0
  | .distributorDelivery _ => 0
  | .matrixPerform _ => 0
  | .mepiComplete _ _ => 0
  | .lehrSweep => 0
  | .lehrPassComplete => 0
  | .remotePassReceive _ _ => 0
  | .remotePassAck _ => 0
  | .lehrRemoteTimeout _ => 0
  | .fullClearance _ => 0
  | .rejoinNotice _ => 0
  | .inboundRequest _ => 0
  | .response _ _ => 0
  | .fabricTimeout _ => 0
  | .flitReplay _ => 0
  | .portDown _ => 0
  | .portRetrain _ => 0
  | .groupSetupComplete _ _ => 0
  | .mlredComplete _ _ => 0
  | .mstmComplete _ _ => 0
  | .gatewayMessage _ => 0
  | .reshardPlanStart _ _ => 0
  | .reshardBlockComplete _ _ _ => 0
  | .hostSnoopInvalidate _ => 0
  | .hostSnoopShare _ => 0
  | .hostLineFill _ _ _ => 0
  | .l2Evict _ => 0
  | .hostBar2Write _ _ _ => 0
  | .hostBar2Read _ _ _ => 0
  | .qctlEnable _ _ => 0
  | .qctlReset _ _ => 0
  | .instcmdGo _ _ _ => 0
  | .instcmdClear _ _ => 0
  | .installComplete _ _ => 0
  | .devid _ => 0
  | .fband _ _ => 0
  | .expset _ _ => 0
  | .registerWrite _ _ => 0
  | .powerOnReset => 0
  | .bootVerify => 0
  | .correctedError => 0
  | .uncorrectableError _ => 0
  | .channelRetire _ _ => 0
  | .channelRebuildComplete _ _ => 0
  | .powerThrottle _ => 0
  | .getVersion _ => 0
  | .getCapabilities _ => 0
  | .negotiateAlgorithms _ => 0
  | .getDigests _ => 0
  | .getCertificate _ => 0
  | .challenge _ _ => 0
  | .getMeasurements _ _ => 0
  | .unspecifiedWakeUp _ => 0

/-- The literal word of a literal form (R198). -/
def literalOf : Instr → Option (BitVec 32)
  | .movl _ _ l => some l
  | .smovl _ _ l => some l
  | .setml _ l => some l
  | .addLit _ _ _ l => some l
  | .subLit _ _ _ l => some l
  | .mulLit _ _ _ l => some l
  | .andLit _ _ _ l => some l
  | .orLit _ _ _ l => some l
  | .xorLit _ _ _ l => some l
  | .shlLit _ _ _ l => some l
  | .shrLit _ _ _ l => some l
  | .shaLit _ _ _ l => some l
  | .minLit _ _ _ l => some l
  | .maxLit _ _ _ l => some l
  | .cmpLit _ _ _ _ l => some l
  | .faddLit _ _ _ l => some l
  | .fmulLit _ _ _ l => some l
  | .fmaLit _ _ _ l => some l
  | .saddLit _ _ _ l => some l
  | .ssubLit _ _ _ l => some l
  | .smulLit _ _ _ l => some l
  | .sandLit _ _ _ l => some l
  | .sorLit _ _ _ l => some l
  | .sxorLit _ _ _ l => some l
  | .sshlLit _ _ _ l => some l
  | .sshrLit _ _ _ l => some l
  | .scmpLit _ _ _ _ _ l => some l
  | _ => none

/-- Whether the constructor is a row with an instruction word (R209); the others are steps of engines and host. -/
def hasWord : Instr → Bool
  | .deadline => false
  | .agingBoost _ => false
  | .roleUnpark _ => false
  | .yieldcResume _ => false
  | .monitorWake _ => false
  | .monitorPoll _ _ => false
  | .loadDataReturn _ => false
  | .storeAck _ => false
  | .mcasLockGrant _ => false
  | .deadComplete _ => false
  | .qtailWrite _ _ _ => false
  | .launchAccept _ _ => false
  | .dispatch _ _ _ _ => false
  | .pressing _ _ => false
  | .teamStart _ => false
  | .instanceComplete _ => false
  | .starvationPreempt _ => false
  | .preemptSave _ _ => false
  | .drain _ => false
  | .shopMigrate _ _ => false
  | .copyComplete _ _ => false
  | .copyError _ _ _ => false
  | .distributorDelivery _ => false
  | .matrixPerform _ => false
  | .mepiComplete _ _ => false
  | .lehrSweep => false
  | .lehrPassComplete => false
  | .remotePassReceive _ _ => false
  | .remotePassAck _ => false
  | .lehrRemoteTimeout _ => false
  | .fullClearance _ => false
  | .rejoinNotice _ => false
  | .inboundRequest _ => false
  | .response _ _ => false
  | .fabricTimeout _ => false
  | .flitReplay _ => false
  | .portDown _ => false
  | .portRetrain _ => false
  | .groupSetupComplete _ _ => false
  | .mlredComplete _ _ => false
  | .mstmComplete _ _ => false
  | .gatewayMessage _ => false
  | .reshardPlanStart _ _ => false
  | .reshardBlockComplete _ _ _ => false
  | .hostSnoopInvalidate _ => false
  | .hostSnoopShare _ => false
  | .hostLineFill _ _ _ => false
  | .l2Evict _ => false
  | .hostBar2Write _ _ _ => false
  | .hostBar2Read _ _ _ => false
  | .qctlEnable _ _ => false
  | .qctlReset _ _ => false
  | .instcmdGo _ _ _ => false
  | .instcmdClear _ _ => false
  | .installComplete _ _ => false
  | .devid _ => false
  | .fband _ _ => false
  | .expset _ _ => false
  | .registerWrite _ _ => false
  | .powerOnReset => false
  | .bootVerify => false
  | .correctedError => false
  | .uncorrectableError _ => false
  | .channelRetire _ _ => false
  | .channelRebuildComplete _ _ => false
  | .powerThrottle _ => false
  | .getVersion _ => false
  | .getCapabilities _ => false
  | .negotiateAlgorithms _ => false
  | .getDigests _ => false
  | .getCertificate _ => false
  | .challenge _ _ => false
  | .getMeasurements _ _ => false
  | .unspecifiedWakeUp _ => false
  | _ => true

/-- The 32-bit words of an instruction, in address order. -/
def encode (i : Instr) : List (BitVec 32) :=
  BitVec.ofNat 32 (encodeNat i) :: (literalOf i).toList

/-- The length of an instruction in bytes (R197). -/
def Instr.size (i : Instr) : Nat := if (literalOf i).isSome then 8 else 4

/-- Whether an opcode is followed by a literal word (R198). -/
def isLiteralOp (op : Nat) : Bool := 0xD0 ≤ op && op ≤ 0xEA

/-- The four bytes of a word, lowest address first (R3). -/
def wordBytes (w : BitVec 32) : List (BitVec 8) :=
  [BitVec.ofNat 8 w.toNat, BitVec.ofNat 8 (w.toNat / 2 ^ 8), BitVec.ofNat 8 (w.toNat / 2 ^ 16), BitVec.ofNat 8 (w.toNat / 2 ^ 24)]

/-- The number that bytes hold, the first at the low end (R3). -/
def bytesNat : List (BitVec 8) → Nat
  | [] => 0
  | b :: bs => b.toNat + 2 ^ 8 * bytesNat bs

/-- The bytes of an instruction as they stand in the code image. -/
def encodeBytes (i : Instr) : List (BitVec 8) := (encode i).flatMap wordBytes

/-- Decode the first instruction of a list of bytes, with the bytes after it. -/
def decodeBytes (bs : List (BitVec 8)) : Except DecodeError (Instr × List (BitVec 8)) :=
  if bs.length < 4 then .error .short
  else
    let w := bytesNat (bs.take 4)
    if isLiteralOp (w / 2 ^ 24) then
      if bs.length < 8 then .error .short
      else (decodeWord w (BitVec.ofNat 32 (bytesNat ((bs.drop 4).take 4)))).map fun i => (i, bs.drop 8)
    else (decodeWord w 0).map fun i => (i, bs.drop 4)

/-- `n` bytes of a number, the low end first (R3). -/
def natBytes : Nat → Nat → List (BitVec 8)
  | 0, _ => []
  | n + 1, w => BitVec.ofNat 8 w :: natBytes n (w / 2 ^ 8)

/-- The instruction this decoder reads from an instruction whose bits are `w`, numbered as the opcode table numbers them:
the first word in the low 32 bits and the literal word above it. Bits above `nbits` are zero. -/
def decodeTableWord (nbits w : Nat) : Option Instr :=
  match decodeBytes (natBytes 8 (w % 2 ^ nbits)) with
  | .ok (i, _) => some i
  | .error _ => none

/-- Whether the opcode is one of the matrix group (R10). -/
def isMatrixOp (op : Nat) : Bool := op = 0x21 || (0xBF ≤ op && op ≤ 0xC9)

end Sys2Proof
end

