-- ==== Sys2Proof/Machine/Sparse.lean ====
section
/-!
DEFINITION. Storage by number: a list of (key, value) pairs with keys strictly rising and no entry equal to the value
that an unlisted key reads as. Equal contents are equal lists.
-/

namespace Sys2Proof.Machine

/-- Storage with keys rising, listing only values other than the default. -/
abbrev Sparse (α : Type) := List (Nat × α)

/-- The value at a key; `d` is what an unlisted key reads as. -/
def Sparse.get {α : Type} (d : α) : Sparse α → Nat → α
  | [], _ => d
  | (i, x) :: m, k => if k = i then x else Sparse.get d m k

/-- Put a record at a number. -/
def Sparse.insert {α : Type} : Sparse α → Nat → α → Sparse α
  | [], k, y => [(k, y)]
  | (i, x) :: m, k, y =>
    if k < i then (k, y) :: (i, x) :: m
    else if k = i then (k, y) :: m
    else (i, x) :: Sparse.insert m k y

/-- Remove the record at a number. -/
def Sparse.erase {α : Type} (m : Sparse α) (k : Nat) : Sparse α := m.filter fun e => e.1 ≠ k

/-- The storage with the value at one key replaced. -/
def Sparse.set {α : Type} [DecidableEq α] (d : α) (m : Sparse α) (k : Nat) (y : α) : Sparse α :=
  if y = d then m.erase k else m.insert k y

/-- Every key is above `b`, the keys rise strictly, and no value is the default. -/
def Sparse.above {α : Type} [DecidableEq α] (d : α) : Nat → Sparse α → Bool
  | _, [] => true
  | b, (i, x) :: m => decide (b ≤ i) && decide (x ≠ d) && Sparse.above d (i + 1) m

/-- The canonical form. -/
def Sparse.wf {α : Type} [DecidableEq α] (d : α) (m : Sparse α) : Bool := Sparse.above d 0 m

/-- Every key below `n` or at least `n + len` keeps its value; the others read as the default. -/
def Sparse.clear {α : Type} (m : Sparse α) (n len : Nat) : Sparse α :=
  m.filter fun e => decide (e.1 < n) || decide (n + len ≤ e.1)

/-- Replace values at consecutive keys. -/
def Sparse.setList {α : Type} [DecidableEq α] (d : α) : Sparse α → Nat → List α → Sparse α
  | m, _, [] => m
  | m, k, y :: ys => Sparse.setList d (Sparse.set d m k y) (k + 1) ys

/-- The values at `n` consecutive keys. -/
def Sparse.getList {α : Type} (d : α) (m : Sparse α) (k n : Nat) : List α :=
  (List.range n).map fun j => Sparse.get d m (k + j)

/-- The entry of a finite table of records, if listed (records by number: shops, teams, launches). -/
def Sparse.look {α : Type} : Sparse α → Nat → Option α
  | [], _ => none
  | (i, x) :: m, k => if k = i then some x else Sparse.look m k

end Sys2Proof.Machine
end

