-- ==== Sys2Proof/Machine/Cap.lean ====
section
/-!
DEFINITION. Capabilities: layout (R51 to R53), length and representability (R57, R58), regions and revocation ranges
(R74).
-/

namespace Sys2Proof.Machine

/-- A capability register or granule: the fields of R51, which together are its 128 bits, and its tag. -/
structure Cap where
  /-- [127..124] -/
  kind : BitVec 4
  /-- [123..116] -/
  band : BitVec 8
  /-- [115..104] -/
  perm : BitVec 12
  /-- [103..98] -/
  fmt : BitVec 6
  /-- [97..96] -/
  geo : BitVec 2
  /-- [95..94] -/
  ord : BitVec 2
  /-- [93..88] -/
  lexp : BitVec 6
  /-- [87..78] -/
  lman : BitVec 10
  /-- [77..25], address[56..4] -/
  base : BitVec 53
  /-- [24..0] -/
  aux : BitVec 25
  /-- The tag, outside the 128 bits. -/
  tag : Bool
deriving DecidableEq, Repr

/-- The null capability (R51). -/
def Cap.null : Cap := ⟨0, 0, 0, 0, 0, 0, 0, 0, 0, 0, false⟩

/-- The 128 bits as a number. -/
def Cap.toNat (c : Cap) : Nat :=
  c.aux.toNat + 2 ^ 25 * (c.base.toNat + 2 ^ 53 * (c.lman.toNat + 2 ^ 10 * (c.lexp.toNat + 2 ^ 6 * (c.ord.toNat + 2 ^ 2 *
    (c.geo.toNat + 2 ^ 2 * (c.fmt.toNat + 2 ^ 6 * (c.perm.toNat + 2 ^ 12 * (c.band.toNat + 2 ^ 8 * c.kind.toNat))))))))

/-- The capability that 128 bits and a tag are. -/
def Cap.ofNat (x : Nat) (tag : Bool) : Cap :=
  { aux := BitVec.ofNat 25 x
    base := BitVec.ofNat 53 (x / 2 ^ 25)
    lman := BitVec.ofNat 10 (x / 2 ^ 78)
    lexp := BitVec.ofNat 6 (x / 2 ^ 88)
    ord := BitVec.ofNat 2 (x / 2 ^ 94)
    geo := BitVec.ofNat 2 (x / 2 ^ 96)
    fmt := BitVec.ofNat 6 (x / 2 ^ 98)
    perm := BitVec.ofNat 12 (x / 2 ^ 104)
    band := BitVec.ofNat 8 (x / 2 ^ 116)
    kind := BitVec.ofNat 4 (x / 2 ^ 124)
    tag := tag }

/-- KIND codes (R52). -/
def kData : BitVec 4 := 1
/-- Instructions. -/
def kCode : BitVec 4 := 2
/-- A command block. -/
def kCommand : BitVec 4 := 3
/-- A tensor layout record. -/
def kLayout : BitVec 4 := 4
/-- A fabric group record. -/
def kGroup : BitVec 4 := 5
/-- The shop's scratchpad. -/
def kLocal : BitVec 4 := 6
/-- The team's private memory. -/
def kPrivate : BitVec 4 := 7
/-- Sealed for a device. -/
def kSealed : BitVec 4 := 8

/-- Permission masks in PERM (R53). -/
def pLD : BitVec 12 := 0x800
/-- Store. -/
def pST : BitVec 12 := 0x400
/-- Loaded granules keep tags. -/
def pLDC : BitVec 12 := 0x200
/-- Store tagged. -/
def pSTC : BitVec 12 := 0x100
/-- Atomics and MCAS. -/
def pAT : BitVec 12 := 0x080
/-- Execute. -/
def pEX : BitVec 12 := 0x040
/-- Execute the command. -/
def pGO : BitVec 12 := 0x020
/-- Be sealed. -/
def pSEAL : BitVec 12 := 0x010
/-- Be unsealed. -/
def pUNSEAL : BitVec 12 := 0x008
/-- Be sealed for another device. -/
def pEXPORT : BitVec 12 := 0x004
/-- Source of a derivation. -/
def pDERIVE : BitVec 12 := 0x002
/-- Copy-on-write. -/
def pCW : BitVec 12 := 0x001

/-- Whether all permissions of a mask are held. -/
def Cap.has (c : Cap) (p : BitVec 12) : Bool := c.perm &&& p = p

/-- Length in bytes (R57). -/
def Cap.len (c : Cap) : Nat := c.lman.toNat * 16 * 2 ^ c.lexp.toNat

/-- Device address of the first byte. -/
def Cap.addr (c : Cap) : Nat := c.base.toNat * 16

/-- Device id of an address (R134). -/
def devOf (a : Nat) : Nat := a / 2 ^ 43 % 2 ^ 14

/-- Local part of an address (R134). -/
def localOf (a : Nat) : Nat := a % 2 ^ 43

/-- Device of the first byte. -/
def Cap.dev (c : Cap) : Nat := devOf c.addr

/-- Inner KIND of a sealed capability, the KIND itself otherwise. -/
def Cap.inner (c : Cap) : BitVec 4 := if c.kind = kSealed then BitVec.ofNat 4 (c.aux.toNat / 2 ^ 21) else c.kind

/-- Target device of a sealed capability. -/
def Cap.target (c : Cap) : Nat := c.aux.toNat / 2 ^ 7 % 2 ^ 14

/-- The canonical encoding (LEXP, LMAN) of a length, when it is representable (R57). -/
def lenFields (n : Nat) : Option (BitVec 6 × BitVec 10) :=
  let u := n / 16
  let e := Nat.log2 u + 1 - 10
  if n % 16 = 0 ∧ u % 2 ^ e = 0 ∧ e ≤ 63 then some (BitVec.ofNat 6 e, BitVec.ofNat 10 (u / 2 ^ e)) else none

/-- Largest representable length not above x (R58). -/
def plen (x : Nat) : Nat :=
  let u := x / 16
  let e := Nat.log2 u + 1 - 10
  u / 2 ^ e * 16 * 2 ^ e

/-- Whether a half-open range meets another: they have a common address. -/
def rangesMeet (a n b t : Nat) : Bool := decide (max a b < min (a + n) t)

/-- Whether a capability is affected by the range [b, t) (R74). -/
def Cap.affected (c : Cap) (b t : Nat) : Bool :=
  c.tag && (c.kind = kData || c.kind = kCode || c.kind = kCommand || c.kind = kLayout || c.kind = kGroup || c.kind = kPrivate ||
    c.kind = kSealed) && rangesMeet c.addr c.len b t &&
    !(decide (c.addr ≤ b) && decide (t ≤ c.addr + c.len) && decide (t - b < c.len))

/-- Whether two regions lie within one another: [a, a+n) inside [b, b+m). -/
def regionWithin (a n b m : Nat) : Bool := decide (b ≤ a) && decide (a + n ≤ b + m)

/-- A capability with a new length, when representable. -/
def Cap.withLen (c : Cap) (n : Nat) : Option Cap := (lenFields n).map fun f => { c with lexp := f.1, lman := f.2 }

/-- Seal for a device (R68): KIND 0x8, the inner KIND and the target in AUX. -/
def Cap.seal (c : Cap) (target : Nat) : Cap :=
  { c with kind := kSealed, aux := BitVec.ofNat 25 (c.kind.toNat * 2 ^ 21 + target % 2 ^ 14 * 2 ^ 7) }

/-- Restore the inner KIND (R69). -/
def Cap.unseal (c : Cap) : Cap := { c with kind := c.inner, aux := 0 }

end Sys2Proof.Machine
end

