-- ==== Sys2Proof/Machine/State.lean ====
section
/-!
DEFINITION. The state of one Naros N3 (R7 to R19): teams, shops, memory, the gaffer, engines, fabric, host registers. Plain
data. State.reset is the device after steps 1 to 3 of R401.
-/

namespace Sys2Proof.Machine

/-- Faults of the spec (R180). -/
inductive FaultCode where
  /-- 0x01 -/
  | bounds
  /-- 0x02 -/
  | perm
  /-- 0x03 -/
  | tag
  /-- 0x04 -/
  | band
  /-- 0x05 -/
  | sealed
  /-- 0x06 -/
  | kind
  /-- 0x07 -/
  | quarantine
  /-- 0x08 -/
  | represent
  /-- 0x09 -/
  | scope
  /-- 0x0A -/
  | cow
  /-- 0x0B -/
  | mcasRemote
  /-- 0x10 -/
  | format
  /-- 0x11 -/
  | align
  /-- 0x12 -/
  | stackLimit
  /-- 0x13 -/
  | poison
  /-- 0x14 -/
  | remoteAbsent
  /-- 0x15 -/
  | engine
  /-- 0x20 -/
  | illegalOpcode
  /-- 0x21 -/
  | illegalField
  /-- 0x22 -/
  | role
  /-- 0x30 -/
  | deadline
  /-- 0x31 -/
  | brk
deriving DecidableEq, Repr

/-- The 8-bit code (R180). -/
def FaultCode.code : FaultCode → BitVec 8
  | .bounds => 0x01
  | .perm => 0x02
  | .tag => 0x03
  | .band => 0x04
  | .sealed => 0x05
  | .kind => 0x06
  | .quarantine => 0x07
  | .represent => 0x08
  | .scope => 0x09
  | .cow => 0x0A
  | .mcasRemote => 0x0B
  | .format => 0x10
  | .align => 0x11
  | .stackLimit => 0x12
  | .poison => 0x13
  | .remoteAbsent => 0x14
  | .engine => 0x15
  | .illegalOpcode => 0x20
  | .illegalField => 0x21
  | .role => 0x22
  | .deadline => 0x30
  | .brk => 0x31

/-- The fault of a code byte of R180, as a port reports it (R355). -/
def FaultCode.ofCode (b : BitVec 8) : FaultCode :=
  match b.toNat with
  | 0x01 => .bounds
  | 0x02 => .perm
  | 0x03 => .tag
  | 0x04 => .band
  | 0x05 => .sealed
  | 0x06 => .kind
  | 0x07 => .quarantine
  | 0x0A => .cow
  | 0x11 => .align
  | 0x13 => .poison
  | _ => .remoteAbsent

/-- A fault that the spec raises at a word, with what the fault record says of it (R181). -/
structure Trap where
  /-- CODE. -/
  code : FaultCode
  /-- LANE. -/
  lane : Nat
  /-- STEP: number of the failed check, or 0. -/
  step : Nat
  /-- SRC: 0 none, 1 uniform capability, 2 per-lane quad, 3 engine command. -/
  src : Nat
  /-- CREG: register or quad number. -/
  creg : Nat
  /-- PORT: the owner's port rejected the request. -/
  port : Bool
  /-- FOFF. -/
  off : Nat
  /-- FADDR. -/
  addr : Nat
  /-- FAUX. -/
  aux : Nat
deriving DecidableEq, Repr

/-- A fault with nothing but its code. -/
def Trap.plain (c : FaultCode) : Trap := ⟨c, 0, 0, 0, 0, false, 0, 0, 0⟩

/-- Bytes with a tag and a poison bit per granule (R61, R186); an unlisted byte is zero, an unlisted granule untagged
and clean. -/
structure Mem where
  /-- Bytes by address. -/
  bytes : List Host.Cell
  /-- Tag by granule number. -/
  tags : Sparse Bool
  /-- Poison by granule number. -/
  poison : Sparse Bool
deriving DecidableEq, Repr

/-- Memory of zeros, untagged, unpoisoned. -/
def Mem.empty : Mem := ⟨[], [], []⟩

/-- An active REP (R266). -/
structure RepState where
  /-- First word of the body. -/
  start : W64
  /-- Offset after the body. -/
  stop : W64
  /-- Repetitions left. -/
  left : W64
  /-- DONE. -/
  done : W64
deriving DecidableEq, Repr

/-- An active LOOPB (R266). -/
structure LbState where
  /-- First word of the body. -/
  start : W64
  /-- Offset after the body. -/
  stop : W64
  /-- The k register of its condition. -/
  k : BitVec 3
  /-- DONE. -/
  done : W64
deriving DecidableEq, Repr

/-- The loop state (R191). -/
structure LoopState where
  /-- The active REP. -/
  rep : Option RepState
  /-- The active LOOPB. -/
  lb : Option LbState
deriving DecidableEq, Repr

/-- No loop active. -/
def LoopState.none : LoopState := ⟨.none, .none⟩

/-- Where one access of a word is performed (R278). -/
inductive Place where
  /-- Local address of this device: HBM, MMIO, host window or reserved (R135). -/
  | home (a : Nat)
  /-- Two words of a private word view: 4 bytes at each local address (R144). -/
  | split (a b : Nat)
  /-- Scratchpad offset of a shop. -/
  | spad (shop off : Nat)
  /-- Nothing is accessed: a prefetch, a lane without an access. -/
  | nowhere
  /-- A peer, by the number of the request flit. -/
  | remote (seq : Nat)
deriving DecidableEq, Repr

/-- What one access does. -/
inductive AccOp where
  /-- Read the bytes. -/
  | read
  /-- Write these bytes; the granules become untagged. -/
  | write (bytes : List Byte)
  /-- Read 16 bytes with the tag. -/
  | readCap
  /-- Write a capability with its tag. -/
  | writeCap (c : Cap)
  /-- The same from a poisoned register quad: the granule becomes poisoned (R186, R405). -/
  | writePoison (c : Cap)
  /-- Read-modify-write: the operation of R297, the TYPE code, x and y. -/
  | atomic (op ty x y : Nat)
deriving DecidableEq, Repr

/-- One access of a lane, checked and not yet performed. -/
structure Access where
  /-- Lane (0 for a uniform word). -/
  lane : Nat
  /-- Where. -/
  place : Place
  /-- Bytes. -/
  size : Nat
  /-- What. -/
  op : AccOp
  /-- The capability used. -/
  cap : Cap
  /-- SRC of the fault record. -/
  src : Nat
  /-- CREG of the fault record. -/
  creg : Nat
  /-- Offset in the capability. -/
  off : Nat
  /-- Device address. -/
  addr : Nat
deriving DecidableEq, Repr

/-- One entry of an MCAS after its checks (R299, R300). -/
structure McasEntry where
  /-- Local address of the target. -/
  addr : Nat
  /-- WIDTH. -/
  width : Nat
  /-- EXP, the low WIDTH bytes as a number, and its tag. -/
  exp : Nat
  /-- Tag of EXP. -/
  expTag : Bool
  /-- DES, likewise. -/
  des : Nat
  /-- Tag of DES. -/
  desTag : Bool
  /-- The target capability's class is SY (R149). -/
  sy : Bool
deriving DecidableEq, Repr

/-- A tensor layout record (R370). -/
structure Tlr where
  /-- RANK. -/
  rank : Nat
  /-- MRANK. -/
  mrank : Nat
  /-- ESIZE. -/
  esize : Nat
  /-- REPL. -/
  repl : Nat
  /-- DEVN. -/
  devn : Nat
  /-- EXT, six. -/
  ext : List Nat
  /-- MDIM, six. -/
  mdim : List Nat
  /-- BLK, six. -/
  blk : List Nat
  /-- MEXT, four. -/
  mext : List Nat
  /-- DEVTAB. -/
  devtab : Cap
deriving DecidableEq, Repr

/-- A re-shard command that has passed its checks (R374, R375). -/
structure PlanCmd where
  /-- Source TLR. -/
  src : Tlr
  /-- Destination TLR. -/
  dst : Tlr
  /-- BUF of the destination entry. -/
  buf : Cap
  /-- MYCOORD. -/
  coord : List Nat
  /-- PROG. -/
  prog : Cap
  /-- PROGOFF. -/
  progOff : Nat
  /-- STAMP. -/
  stamp : Cap
  /-- STOFF. -/
  stOff : Nat
  /-- SEQ. -/
  seq : Nat
  /-- Die of the core that issued it, whose RSE performs it (R369). -/
  die : Nat
deriving DecidableEq, Repr

/-- Why a team does not issue: a blocking wait or a word whose accesses are outstanding (R109, R195, R279, R355). The
opcode of the blocking word is at PC. -/
inductive Wait where
  /-- Not waiting. -/
  | none
  /-- The YIELDC `i` on a barrier (16 bytes at `off` of the scratchpad) or a stamp, with the continuation (R270). -/
  | yieldc (i : Instr) (stamp : Bool) (cap : Cap) (off : W64) (val : W64) (phase : Bool) (cont : W64)
  /-- Parked under ROLE for table entry `n` (R102). -/
  | role (n : BitVec 3)
  /-- Any other blocking word (BARW, BARY, QPUSH, QPOP, MONWAIT, MWAIT, MSTAT of a tile, WAITC, REVOKE, a GRPQ release):
  the word, and for BARW and BARY the phase awaited (R329). It is issued again when its wait can end. -/
  | blocked (i : Instr) (phase : Bool)
  /-- Accesses of the word `i` outstanding: at peers, in the host window, or loads whose data return later. -/
  | access (i : Instr) (accs : List Access)
  /-- A re-shard GO that waits for its progress record: the word, the reads, the command (R375). -/
  | planRead (i : Instr) (accs : List Access) (plan : PlanCmd)
  /-- An MCAS whose locks are requested: the status register, the block's address and its capability's STC, the entries
  (R301). -/
  | mcas (d : BitVec 6) (block : Nat) (stc : Bool) (entries : List McasEntry)
deriving DecidableEq, Repr

/-- A store not yet acknowledged (R279, R306). -/
inductive OutStore where
  /-- The stores of a word: whether one is at a peer, whether one is in the host window, and whether one is of class SO or
  SY. -/
  | store (peer host so : Bool)
  /-- A DEAD range not yet completed (R284): address, length, and whether its capability's class is SO or SY (R151). -/
  | dead (a n : Nat) (so : Bool)
deriving DecidableEq, Repr

/-- A role table entry (R122). -/
structure RoleEntry where
  /-- Allotment A. -/
  allot : Nat
  /-- Initial PRI. -/
  pri : BitVec 4
  /-- Priority ceiling. -/
  ceil : BitVec 4
  /-- Entry PC. -/
  entry : BitVec 32
deriving DecidableEq, Repr

/-- A team (R93). Keys: lane × 256 + register for v and lane × 64 + quad for its tags. -/
structure Team where
  /-- v registers of each lane. -/
  v : Sparse W32
  /-- Tags of vector quads of each lane. -/
  vtag : Sparse Bool
  /-- Poison of vector quads of each lane: granules of the pool's register section (R405). -/
  vpoison : Sparse Bool
  /-- s0..s63. -/
  sreg : Sparse W64
  /-- c0..c31. -/
  creg : Sparse Cap
  /-- Poison of c0..c31, each of which is one granule (R61, R405). -/
  cpoison : BitVec 32
  /-- Lane bits of k0..k7. -/
  kreg : Sparse Mask
  /-- MODE. -/
  mode : W32
  /-- PC. -/
  pc : W64
  /-- DLLEFT. -/
  dlleft : BitVec 16
  /-- PRI. -/
  pri : BitVec 4
  /-- PRICAP. -/
  pricap : BitVec 4
  /-- ROLEIX. -/
  roleix : BitVec 3
  /-- Allotment A (REGS). -/
  allot : Nat
  /-- CREWS. -/
  crews : BitVec 8
  /-- In its handler. -/
  inHandler : Bool
  /-- Loop state. -/
  loop : LoopState
  /-- Its shadow. -/
  shadow : LoopState
  /-- BKPC0..BKPC3. -/
  bkpc : Sparse W64
  /-- BKCTL. -/
  bkctl : BitVec 5
  /-- Breakpoints and single-step suppressed for the next word (R183). -/
  noBreak : Bool
  /-- The last executed word was a YIELD, or a ROLE that switched: a pre-emption point (R102, R109). -/
  yielded : Bool
  /-- Generator state of each lane. -/
  gen : Sparse W32
  /-- The armed monitor. -/
  monitor : Option (Cap × W64)
  /-- The wait it is in. -/
  wait : Wait
  /-- Stores not yet acknowledged. -/
  outStores : List OutStore
  /-- Last closed batch of the matrix queue (R348). -/
  mclosed : BitVec 32
  /-- Last completed batch as a restore left it (R193): batches up to it count as completed. -/
  mdone : BitVec 32
  /-- Lowest batch that reported an error, or 0. -/
  merr : BitVec 32
  /-- The next MWAIT reports status 1 (R338). -/
  mbad : Bool
  /-- Aging count (R105). -/
  aging : Nat
  /-- The one issue at PRI 15 that aging gives. -/
  aged : Bool
  /-- Base of its private region, local. -/
  privBase : Nat
  /-- Length of its private region. -/
  privLen : Nat
  /-- It has ended (R111). -/
  ended : Bool
deriving DecidableEq, Repr

/-- What a shop is doing (R126 to R133). -/
inductive Phase where
  /-- Input entries in progress. -/
  | staging
  /-- Teams run. -/
  | running
  /-- All teams ended; result entries in progress. -/
  | results
  /-- Its node failed; outstanding operations drain. -/
  | failed
  /-- Being pre-empted. -/
  | preempting
  /-- In a context area. -/
  | saved
  /-- Saved when its node failed: its context is discarded, its outstanding operations drain (R132). -/
  | discarded
deriving DecidableEq, Repr

/-- One element of an accumulator tile (R46). -/
structure AccElem where
  /-- V, a 96-bit two's-complement integer. -/
  v : Int
  /-- Sticky bit. -/
  sticky : Bool
  /-- NaN bit. -/
  nan : Bool
deriving DecidableEq, Repr

/-- The element after MCLR. -/
def AccElem.zero : AccElem := ⟨0, false, false⟩

/-- Tile states (R341). -/
inductive TileState where
  /-- Cleared. -/
  | clear
  /-- OPEN. -/
  | opened
  /-- An epilogue is storing. -/
  | drain
  /-- In error. -/
  | error
deriving DecidableEq, Repr

/-- An accumulator tile (R46, R341). Element key: row × 256 + column. -/
structure Tile where
  /-- STATE. -/
  state : TileState
  /-- The empty flag. -/
  empty : Bool
  /-- Common exponent. -/
  lam : Int
  /-- ACC_WINDOW. -/
  window : Bool
  /-- Elements other than zero. -/
  elems : Sparse AccElem
  /-- Poisoned elements: each is a granule of the pool's accumulator section (R405). -/
  poison : Sparse Bool
deriving DecidableEq, Repr

/-- The tile after MCLR. -/
def Tile.cleared : Tile := ⟨.clear, true, 0, false, [], []⟩

/-- A pre-aligned element of a B slot: sign and magnitude (R43). -/
structure SlotElem where
  /-- Sign. -/
  neg : Bool
  /-- Magnitude m. -/
  m : Nat
deriving DecidableEq, Repr

/-- A B slot (R43, R193, R337). -/
structure Slot where
  /-- Format. -/
  fmt : BitVec 6
  /-- Geometry. -/
  geo : BitVec 2
  /-- K, rows held; 0 for an empty slot. -/
  k : Nat
  /-- N, columns held. -/
  n : Nat
  /-- B_ALIGN_LOSS. -/
  loss : Bool
  /-- A poisoned operand was loaded. -/
  poisoned : Bool
  /-- Element by 512 × column + row. -/
  elems : Sparse SlotElem
  /-- Block exponent σ_B + q_B by block number. -/
  exps : Sparse Int
  /-- NaN blocks by block number. -/
  nans : Sparse Bool
deriving DecidableEq, Repr

/-- An empty slot. -/
def Slot.empty : Slot := ⟨0, 0, 0, 0, false, false, [], [], []⟩

/-- A tile delivered to a subscription: the publication's operand descriptor with OFF 0, and the bytes (R193, R339). -/
structure Delivered where
  /-- Descriptor, as a 128-bit number. -/
  desc : Nat
  /-- FMT and GEO of the published capability. -/
  fmt : BitVec 6
  /-- GEO. -/
  geo : BitVec 2
  /-- Bytes as the distributor read them. -/
  data : List Byte
  /-- A granule was poisoned. -/
  poison : Bool
deriving DecidableEq, Repr

/-- A subscription of a shop (R338). -/
structure Sub where
  /-- Registered. -/
  on : Bool
  /-- Stream n. -/
  stream : BitVec 6
  /-- Window w. -/
  window : Nat
  /-- Delivered tiles not yet released, oldest first. -/
  tiles : List Delivered
  /-- MUNSUB has been performed: it ends when its last tile is released. -/
  ending : Bool
deriving DecidableEq, Repr

/-- Not registered. -/
def Sub.off : Sub := ⟨false, 0, 0, [], false⟩

/-- A team waiting at a barrier (R329): a phase that completes, or ERR, ends its wait for good. -/
structure BarWait where
  /-- Team number. -/
  team : Nat
  /-- Scratchpad offset of the barrier. -/
  off : Nat
  /-- The phase awaited. -/
  phase : Bool
  /-- How the wait has ended: ERR or not. -/
  ended : Option Bool
deriving DecidableEq, Repr

/-- One row that a copy moves: source offset, destination offset, bytes (R315). -/
structure Move where
  /-- Offset in the source capability. -/
  src : Nat
  /-- Offset in the destination capability. -/
  dst : Nat
  /-- Bytes. -/
  len : Nat
deriving DecidableEq, Repr

/-- A shop: the teams of one instance (R97). -/
structure Shop where
  /-- Launch number; none for the boot team's shop (R401). -/
  launch : Option Nat
  /-- Node index in its graph. -/
  node : Nat
  /-- Instance number. -/
  inst : Nat
  /-- Core it is on (R8). -/
  core : Nat
  /-- Issuing band (R54). -/
  band : BitVec 8
  /-- Function of the launch. -/
  fn : Nat
  /-- Lanes L. -/
  lanes : Nat
  /-- Span S. -/
  span : Nat
  /-- Number of teams. -/
  nteams : Nat
  /-- PPW. -/
  ppw : W32
  /-- NKIND. -/
  nkind : BitVec 2
  /-- Role table. -/
  roles : List RoleEntry
  /-- HEN and HANDLER. -/
  handler : Option (BitVec 32)
  /-- Default deadline, in words. -/
  deadline : BitVec 16
  /-- DLSCALE. -/
  dlscale : BitVec 8
  /-- PCLASS. -/
  pclass : Nat
  /-- Code capability. -/
  code : Cap
  /-- The bytes of its code image as they stood when a shop of its node became resident (R199). -/
  image : List Host.Cell
  /-- Argument capability. -/
  arg : Cap
  /-- Memory-model revision 2 (R177). -/
  rev2 : Bool
  /-- What it is doing. -/
  phase : Phase
  /-- Scratchpad. -/
  spad : Mem
  /-- Offsets of CREWMODE barriers with an open phase (R99, R328). -/
  crewBars : List Nat
  /-- Teams waiting at barriers. -/
  barWait : List BarWait
  /-- Teams parked under ROLE, oldest first (R102). -/
  parked : List Nat
  /-- Accumulator tiles by number. -/
  tiles : Sparse Tile
  /-- B slots. -/
  slots : Sparse Slot
  /-- Subscriptions. -/
  subs : Sparse Sub
  /-- Teams blocked on queue descriptors in scratchpad: (offset, push, team), oldest first (R332). -/
  qwait : List (Nat × Bool × Nat)
  /-- Base of its context area: kept free for it since its dispatch, written when it is saved (R192, R397). -/
  ctx : Nat
  /-- Result entries: memory capability, moves, stamp offset (R123, R127). -/
  results : List (Cap × List Move × Option Nat)
deriving DecidableEq, Repr

/-- How a command reports its end (R310, R311). -/
inductive Completion where
  /-- COMPK 00. -/
  | none
  /-- COMPK 01: the barrier at an offset of a shop's scratchpad. -/
  | barrier (shop off : Nat)
  /-- COMPK 10: the value at an offset of a capability. -/
  | stamp (cap : Cap) (off seq : Nat)
deriving DecidableEq, Repr

/-- A matrix operand descriptor (R333). -/
structure Desc where
  /-- PAT. -/
  pat : Bool
  /-- SEED. -/
  seed : Nat
  /-- EXT. -/
  ext : Nat
  /-- STREAM. -/
  stream : Nat
  /-- SRCS. -/
  srcs : Bool
  /-- MARGIN. -/
  margin : Nat
  /-- KFAST. -/
  kfast : Bool
  /-- GEO. -/
  geo : BitVec 2
  /-- FMT. -/
  fmt : BitVec 6
  /-- K. -/
  k : Nat
  /-- PITCH. -/
  pitch : Nat
  /-- OFF. -/
  off : Nat
deriving DecidableEq, Repr

/-- A command in a queue of a team, or of the gaffer for a shop's operand entries (R168, R309). -/
inductive CmdBody where
  /-- Raw rows (CPY, CPYT, CPYG, CPYS, CPYB append, operand entries); `tags`: tags may be kept (R315). -/
  | copy (src dst : Cap) (moves : List Move) (tags : Bool)
  /-- CPYB gather: the blocks, first element, elements per row, destination, its offset and row stride, the rounding read
  at issue (R318). -/
  | gather (blocks : List Cap) (first len : Nat) (dst : Cap) (doff drs : Nat) (out16 : Bool) (rnd : Nat) (sat : Bool)
  /-- CPYB gather to a stream (R319). -/
  | publishRows (blocks : List Cap) (first len : Nat) (stream : Nat) (out16 : Bool) (rnd : Nat) (sat : Bool)
  /-- CPYM: source, offsets, bytes, target cores (R321). -/
  | multi (src : Cap) (soff doff len coff : Nat) (cores : List Nat)
  /-- Remote GO of a copy block (R325): its capability, and whether its turn has come and it has been sent to the owner (R168). -/
  | remoteGo (cap : Cap) (sent : Bool)
  /-- A copy run for a peer's GO: the response goes back with this number (R325). -/
  | ownerGo (src dst : Cap) (moves : List Move) (tags : Bool) (dstDev seq : Nat)
  /-- GRPMK's set-up of the group record (R360). -/
  | groupSetup (cap : Cap)
  /-- MLRED: group, destination, offsets, bytes, bfloat16 output with rounding and saturation (R362 to R364). -/
  | mlred (grp dst : Cap) (soff doff len : Nat) (bf16 : Bool) (rnd : Nat) (sat : Bool)
  /-- MSTM (R365). -/
  | mstm (grp src : Cap) (soff doff len : Nat)
  /-- Gateway message (R368). -/
  | gateway (src : Cap) (soff len domain device ring : Nat)
  /-- Re-shard command (R369). -/
  | reshard (p : PlanCmd)
  /-- MLOADB (R337). -/
  | mloadb (slot : Nat) (cap : Cap) (d : Desc)
  /-- MSUB (R338). -/
  | msub (i stream w : Nat)
  /-- MUNSUB. -/
  | munsub (i : Nat)
  /-- MPUB. -/
  | mpub (stream : Nat) (cap : Cap) (d : Desc) (count stride : Nat)
  /-- MMA, or MMAS when `sparse` (R342). -/
  | mma (tile slot : Nat) (cap : Cap) (d : Desc) (sparse : Bool)
  /-- MEPI: tile, KEEP, destination, OFF, PITCH, ROWS, COLS, rounding, saturation, the words drawn at issue by element
  key (R343). -/
  | mepi (tile : Nat) (keep : Bool) (dst : Cap) (off pitch rows cols : Nat) (rnd : Nat) (sat : Bool) (words : Sparse Nat)
  /-- MCLR (R344). -/
  | mclr (tile : Nat)
  /-- MREL (R339). -/
  | mrel (i : Nat)
  /-- QFENCE over a set of queues (R168, R305). -/
  | fence (queues : BitVec 6)
deriving DecidableEq, Repr

/-- A command that has been issued and has not completed. -/
structure Cmd where
  /-- Its number. -/
  id : Nat
  /-- The issuing team; none for the gaffer's operand entries and for a peer's GO. -/
  team : Option Nat
  /-- The shop it belongs to. -/
  shop : Nat
  /-- Queue: copy 0..3, matrix 4, fabric 5 (R305). -/
  queue : Nat
  /-- Issuing band. -/
  band : BitVec 8
  /-- What it does. -/
  body : CmdBody
  /-- How it reports. -/
  done : Completion
  /-- Batch of a matrix command (R348). -/
  batch : Nat
  /-- A command that has been performed and whose stores or deliveries are outstanding: MEPI in DRAIN, MPUB at the
  distributor (R341, R339). -/
  performed : Bool
  /-- Number of the lehr pass that had been posted last when it was issued: a pass with a higher number waits for it
  (R76). -/
  before : Nat
  /-- Destination granules of its payload that have been written before its completion (R170, R172): for each its target's place
  and its number there. -/
  wrote : List (Nat × Nat)
deriving DecidableEq, Repr

/-- An entry of a source device table, as the RSE has read it (R372, R377). -/
structure SrcEntry where
  /-- BUF. -/
  buf : Cap
  /-- DEVICE. -/
  dev : Nat
  /-- SKIP. -/
  skip : Bool
  /-- The entry was poisoned. -/
  poison : Bool
  /-- A lehr pass has cleared BUF's tag since it was read (R76, R377). -/
  revoked : Bool
deriving DecidableEq, Repr

/-- The plan that an RSE performs (R376 to R379). -/
structure RsePlan where
  /-- Number of its command. -/
  cmd : Nat
  /-- Source table. -/
  entries : List SrcEntry
  /-- NEXT. -/
  next : Nat
  /-- BYTES. -/
  bytes : Nat
  /-- RUNS. -/
  runs : Nat
  /-- The piece of block NEXT in progress. -/
  piece : Nat
  /-- Its candidate in use, among those that are not SKIP. -/
  cand : Nat
  /-- Rows of the piece written from that candidate. -/
  row : Nat
  /-- Rows of the piece counted in BYTES. -/
  counted : Nat
  /-- Bytes written in block NEXT. -/
  written : Nat
  /-- CODE of the last candidate's failure. -/
  code : Nat
deriving DecidableEq, Repr

/-- A publication at the distributor (R338, R339). -/
structure Pub where
  /-- Number of its command. -/
  cmd : Nat
  /-- Publishing shop. -/
  shop : Nat
  /-- Die of the distributor. -/
  die : Nat
  /-- Band. -/
  band : BitVec 8
  /-- Stream. -/
  stream : Nat
  /-- Capability of the tiles (MPUB). -/
  cap : Cap
  /-- Descriptors of the tiles of `formed`, for MPUB. -/
  descs : List Desc
  /-- The tiles still to be delivered, as they were formed (CPYB) or stood in memory at the MPUB; the first of them is under
  delivery when `owed` lists subscribers. -/
  formed : List Delivered
  /-- The subscriber set, fixed when it starts: shop × 8 + subscription. -/
  subs : Option (List Nat)
  /-- Subscribers that the tile under delivery has not reached yet. -/
  owed : List Nat
deriving DecidableEq, Repr

/-- A node of an accepted launch (R121). -/
structure Node where
  /-- Successor node indices. -/
  succ : List Nat
  /-- Predecessors not yet completed. -/
  preds : Nat
  /-- Instances; 1 for a join. -/
  inst : Nat
  /-- Offset of its first operand entry from the graph header, and their count. -/
  opOff : Nat
  /-- Operand entries. -/
  opn : Nat
  /-- PPW. -/
  ppw : W32
  /-- Role table. -/
  roles : List RoleEntry
  /-- Handler. -/
  handler : Option (BitVec 32)
  /-- PCLASS. -/
  pclass : Nat
  /-- NKIND. -/
  nkind : BitVec 2
  /-- Span S. -/
  span : Nat
  /-- Lanes L. -/
  lanes : Nat
  /-- Teams per shop. -/
  teams : Nat
  /-- Default deadline in words. -/
  deadline : BitVec 16
  /-- DLSCALE. -/
  dlscale : BitVec 8
  /-- Instances dispatched. -/
  dispatched : Nat
  /-- Instances completed. -/
  finished : Nat
  /-- It has failed (R128). -/
  failed : Bool
deriving DecidableEq, Repr

/-- An accepted launch (R118, R129). -/
structure Launch where
  /-- Function. -/
  fn : Nat
  /-- Its queue; none for NSPAWN. -/
  queue : Option Nat
  /-- Issuing band. -/
  band : BitVec 8
  /-- SEQ or SSEQ. -/
  seq : Nat
  /-- Completion stamp capability. -/
  stamp : Cap
  /-- Its offset. -/
  stampOff : Nat
  /-- Vector raised at completion. -/
  vector : Option Nat
  /-- Capability given in c3. -/
  arg : Cap
  /-- Capability of the graph. -/
  graph : Cap
  /-- Offset of the graph header in it. -/
  graphOff : Nat
  /-- Code capability. -/
  code : Cap
  /-- Memory-model revision 2. -/
  rev2 : Bool
  /-- Resident-shop limit, as accepted (R397). -/
  shopLimit : Nat
  /-- Quarantine entries that its band may hold, as accepted (R75, R397). -/
  quar : Nat
  /-- DELEGMAP, as accepted (R71, R397). -/
  deleg : BitVec 256
  /-- Private window and its length, as accepted (R143, R397). -/
  privWin : W64
  /-- PRIVLEN. -/
  privLen : W64
  /-- Context window and its length (R192). -/
  ctxWin : W64
  /-- CTXLEN. -/
  ctxLen : W64
  /-- Nodes by index. -/
  nodes : List Node
  /-- A node has failed. -/
  failed : Bool
  /-- The completion stamp has been written. -/
  done : Bool
deriving DecidableEq, Repr

/-- An NSPAWN that the gaffer has not yet accepted (R129, R349). -/
structure Spawn where
  /-- Function of the spawning launch. -/
  fn : Nat
  /-- Issuing band. -/
  band : BitVec 8
  /-- Graph capability. -/
  graph : Cap
  /-- Argument capability. -/
  arg : Cap
  /-- Completion stamp capability. -/
  stamp : Cap
deriving DecidableEq, Repr

/-- An entry of the ready pool (R124, R131). -/
structure Ready where
  /-- Launch; none for the boot team's shop (R401). -/
  launch : Option Nat
  /-- Node. -/
  node : Nat
  /-- PCLASS. -/
  pclass : Nat
  /-- A saved shop to be restored, instead of instances still to be dispatched (R131). -/
  shop : Option Nat
  /-- Passed over for longer than the starvation limit (R125). -/
  pressing : Bool
  /-- A saved shop whose core was ordered to drain while it was being pre-empted: it goes to another core (R133). -/
  away : Bool
deriving DecidableEq, Repr

/-- A forwarding entry (R133). -/
structure Forward where
  /-- Die that holds it. -/
  die : Nat
  /-- The old core. -/
  core : Nat
  /-- The shop. -/
  shop : Nat
  /-- Operations still aimed at the old pool: their command numbers. -/
  ops : List Nat
deriving DecidableEq, Repr

/-- An entry of a band's code table (R383, R384). -/
structure CodeEntry where
  /-- Code capability. -/
  cap : Cap
  /-- The image's native note (R219). -/
  note : List Byte
  /-- Number of its image in `images`. -/
  image : Nat
deriving DecidableEq, Repr

/-- A code image held by the loader (R385). -/
structure Image where
  /-- The digest of its object (R385). -/
  key : List Byte
  /-- G. -/
  g : Nat
  /-- Local address. -/
  base : Nat
  /-- Bytes. -/
  len : Nat
  /-- Its native note. -/
  note : List Byte
  /-- Visibility bit of each function. -/
  vis : BitVec 64
deriving DecidableEq, Repr

/-- A group installed in the switches: owner record address and id (R360). -/
structure Group where
  /-- Local address of the record. -/
  record : Nat
  /-- GID. -/
  gid : BitVec 16
deriving DecidableEq, Repr

/-- A request at a peer (R353 to R356). -/
structure Request where
  /-- Team number, or none for an engine. -/
  team : Option Nat
  /-- The flit. -/
  flit : Flit
  /-- Destination device. -/
  dst : Nat
  /-- The verdict, when it has come. -/
  answer : Option Answer
deriving DecidableEq, Repr

/-- An entry of the quarantine filter (R73 to R75). -/
structure QuarEntry where
  /-- First byte, a device address. -/
  base : Nat
  /-- After the last byte. -/
  top : Nat
  /-- Band that posted it. -/
  band : BitVec 8
  /-- Its pass number. -/
  pass : Nat
deriving DecidableEq, Repr

/-- Where the lehr stands in its pass (R76). -/
inductive LehrStep where
  /-- No pass runs. -/
  | idle
  /-- Step 1: waiting for engine operations issued before. -/
  | waiting
  /-- Step 3: the peers still to acknowledge. -/
  | remote (peers : List Nat)
deriving DecidableEq, Repr

/-- An entry of the remote-range table (R79). -/
structure RemoteRange where
  /-- Owner device. -/
  owner : Nat
  /-- First byte. -/
  base : Nat
  /-- After the last. -/
  top : Nat
deriving DecidableEq, Repr

/-- CXL.cache state of a half (R155). -/
inductive HalfState where
  /-- Shared and clean. -/
  | shared
  /-- Owned. -/
  | owned
deriving DecidableEq, Repr

/-- A held half of a host-window line; an unlisted half is in I (R155). -/
structure Half where
  /-- S or M. -/
  state : HalfState
  /-- 64 bytes. -/
  data : List Byte
  /-- Written since it was obtained. -/
  dirty : Bool
  /-- Poison of its four granules (R405). -/
  poison : BitVec 4
deriving DecidableEq, Repr

/-- What leaves the device towards the host and the fabric, in order. -/
inductive Output where
  /-- MSI-X vector of a function, with the four words of its table entry (R118, R128, R394, R405). -/
  | msix (fn vec : Nat) (entry : List W32)
  /-- Bytes answered to a BAR2 read (R400). -/
  | bar2 (fn off : Nat) (data : List Byte)
  /-- A dirty half written back to the host: its number in the window, its address in host memory, its bytes and the poison of its
  granules (R154, R155, R186). -/
  | writeback (half host : Nat) (data : List Byte) (poison : BitVec 4)
  /-- Response to a peer's request (R354). -/
  | response (dst : Nat) (seq : Nat) (ans : Answer)
  /-- Bytes that an engine writes at a peer through a sealed capability under an issuing band (R158), with the tag and poison of each
  granule (R186, R315, R343). -/
  | peerWrite (cap : Cap) (band : BitVec 8) (off : Nat) (data : List Byte) (tags poison : List Bool)
  /-- A remote GO: command number, capability, band, whether it completes at a barrier (R325). -/
  | peerGo (id : Nat) (cap : Cap) (band : BitVec 8) (barrier : Bool)
  /-- A gateway message to a domain and device: band, ring, payload, and the poison of each byte's granule (R186, R368). -/
  | gateway (id domain device : Nat) (band : BitVec 8) (ring : Nat) (payload : List Byte) (poison : List Bool)
  /-- The answer to a gateway message: 0, or the code of its refusal (R368). -/
  | gatewayAck (domain device : Nat) (code : BitVec 8)
  /-- A lehr request or acknowledgement to a peer (R79). -/
  | lehr (dst : Nat) (pass : Nat) (ranges : List (Nat × Nat))
  /-- A remote pass acknowledged (R79). -/
  | lehrAck (dst : Nat)
  /-- Rejoin notice sent after a full clearance (R81). -/
  | rejoin (dst : Nat)
  /-- An SPDM answer (R404): the request's place in the list of R404, and the digests, certificates and signatures that the
  answer carries. The layout of the message is DSP0274's. -/
  | spdm (fn request : Nat) (parts : List (List Byte))
  /-- A flit replayed on a port (R352). -/
  | replay (port : Nat)
deriving DecidableEq, Repr

/-- One launch queue of a function (R116, R399). -/
structure LQueue where
  /-- QRING. -/
  ring : W64
  /-- QSIZE. -/
  size : BitVec 16
  /-- QTAIL. -/
  tail : W32
  /-- QHEAD. -/
  head : W32
  /-- QERR. -/
  err : W64
  /-- QCTL.ENABLE. -/
  enable : Bool
  /-- QCTL.STOPPED. -/
  stopped : Bool
  /-- The records from QHEAD on as they stood when the tail passed them, as 512-bit numbers (R116). -/
  posted : List Nat
deriving DecidableEq, Repr

/-- A queue at reset. -/
def LQueue.zero : LQueue := ⟨0, 0, 0, 0, 0, false, false, []⟩

/-- A function: its limit block (R396) and its BAR0 (R399). -/
structure Func where
  /-- FBAND. -/
  band : BitVec 8
  /-- FPART. -/
  part : W64
  /-- FLIMIT. -/
  limit : BitVec 32
  /-- POLICY. -/
  policy : BitVec 2
  /-- PRIVWIN. -/
  privWin : W64
  /-- PRIVLEN. -/
  privLen : W64
  /-- CTXWIN. -/
  ctxWin : W64
  /-- CTXLEN. -/
  ctxLen : W64
  /-- DELEGMAP. -/
  deleg : BitVec 256
  /-- ROOTTAB. -/
  rootTab : W64
  /-- Launch queues. -/
  queues : Sparse LQueue
  /-- INSTOFF. -/
  instOff : W64
  /-- INSTLEN. -/
  instLen : W32
  /-- INSTCMD as last written with GO or CLEAR. -/
  instCmd : W64
  /-- INSTST status. -/
  instStatus : BitVec 8
  /-- INSTST.BUSY. -/
  instBusy : Bool
  /-- APER. -/
  aper : BitVec 36
  /-- FSTAT. -/
  fstat : BitVec 2
  /-- BAR4: the MSI-X table, 4 × vector + word (R394). -/
  msix : Sparse W32
deriving DecidableEq, Repr

/-- A function at reset. -/
def Func.zero : Func := ⟨0, 0, 0, 0, 0, 0, 0, 0, 0, 0, [], 0, 0, 0, 0, false, 0, 0, []⟩

/-- Where bring-up stands (R401). -/
inductive Boot where
  /-- Steps 1 to 3 are done; the boot ROM runs next. -/
  | loading
  /-- The boot team has started. -/
  | started
  /-- Bring-up failed with this INSTST code. -/
  | failed (code : BitVec 8)
deriving DecidableEq, Repr

/-- What the next steps do before the machine's own order applies (log entry 2). -/
inductive Todo where
  /-- An event: a row of the opcode table without a word. -/
  | event (i : Instr)
  /-- The next word of a team; `late`: its loads return by LOAD_DATA_RETURN. -/
  | issue (team : Nat) (late : Bool)
  /-- A command writes the granules of its payload that `bits` names, before it completes; `i` is the completion, with what peers
  answer, whose payload they are (R172). -/
  | progress (i : Instr) (bits : Nat)
  /-- The rest of a host write to BAR2: function, offset in BAR2, bytes (R156). -/
  | hostRest (fn : Nat) (off : BitVec 32) (data : List Byte)
deriving DecidableEq, Repr

/-- Why a step of the model stops without a next state. None of these is a fault of the spec. -/
inductive Fault where
  /-- Raised by every meaning of a word when no team is issuing (`cur` empty or naming no team): the word has no
  issuer, so nothing is said. Safe. -/
  | noTeam
  /-- Raised by a meaning of a word when its team is in another word's wait or has ended: the device issues no word
  then. Safe. -/
  | notReady
  /-- Raised by a meaning of an engine, fabric or host step in a state in which the spec's conditions for it do not
  hold: the device takes no such step there. Safe. -/
  | notEnabled
deriving DecidableEq, Repr

/-- Why the model gives an instruction no meaning. -/
inductive Refusal where
  /-- Raised by Dispatch only, for an instruction not modelled yet. Safe. -/
  | notModelled (mnemonic : String)
deriving DecidableEq, Repr

/-- The device. -/
structure State where
  /-- HBM by local address (R135). -/
  mem : Mem
  /-- Live 4 KiB blocks; an unlisted block is dead (R151). -/
  live : Sparse Bool
  /-- Lines in update mode (R149). -/
  updMode : Sparse Bool
  /-- Teams by shop × 32 + index. -/
  teams : Sparse Team
  /-- Shops by number. -/
  shops : Sparse Shop
  /-- Number of the next shop. -/
  nextShop : Nat
  /-- Commands issued and not completed, oldest first (R168, R309). -/
  cmds : List Cmd
  /-- Publications at the distributors, in the order in which they reached them (R339). -/
  pubs : List Pub
  /-- Accepted launches by number. -/
  launches : Sparse Launch
  /-- Number of the next launch. -/
  nextLaunch : Nat
  /-- NSPAWNs to accept, oldest first. -/
  spawns : List Spawn
  /-- Ready pool, oldest first (R124). -/
  ready : List Ready
  /-- Forwarding entries (R133). -/
  forwards : List Forward
  /-- Code tables: band × 256 + CODEIX. -/
  codes : Sparse CodeEntry
  /-- Image cache. -/
  images : Sparse Image
  /-- Groups in the switches. -/
  groups : List Group
  /-- The plan of each die's RSE (R369). -/
  rse : Sparse RsePlan
  /-- Re-shard commands whose turn in their fabric queue has come, in the order in which they reached their RSE (R369). -/
  rseQueue : List Nat
  /-- Requests at peers by number. -/
  reqs : Sparse Request
  /-- Number of the last request or command. -/
  nextId : Nat
  /-- Host-window halves held, by half number. -/
  halves : Sparse Half
  /-- DEVID. -/
  devId : BitVec 14
  /-- DEVID has been written; the Brim ports are open (R402). -/
  devSet : Bool
  /-- GPOOL.STARVE. -/
  starve : BitVec 16
  /-- FABTO. -/
  fabto : BitVec 16
  /-- LEHRTO. -/
  lehrto : BitVec 16
  /-- DISTEN. -/
  disten : BitVec 2
  /-- PORTDN. -/
  portdn : BitVec 18
  /-- Consecutive replays of each port's link (R352). -/
  replays : Sparse Nat
  /-- The least program-order number that the next SO or SY request performed here for a lane of a peer may have: device × 2^24 + lane
  (R173). -/
  portSeen : Sparse Nat
  /-- HBMUNP. -/
  hbmunp : BitVec 16
  /-- DRAIN. -/
  drain : BitVec 16
  /-- Cores with a drain order outstanding. -/
  draining : List Nat
  /-- ERRLOG. -/
  errlog : W64
  /-- CECNT. -/
  cecnt : W32
  /-- PWRLIM. -/
  pwrlim : BitVec 12
  /-- Export set by device id. -/
  expset : Sparse Bool
  /-- HWIN entries. -/
  hwin : Sparse W64
  /-- RINGCTL and RINGBASE of gateway rings: register 2n and 2n + 1. -/
  rings : Sparse W64
  /-- Functions by number. -/
  funcs : Sparse Func
  /-- A function has been enabled since reset (R395, R401, R402). -/
  everEnabled : Bool
  /-- Queue served last, 16 × function + queue; none before the first (R116). -/
  lastQueue : Option Nat
  /-- Quarantine filter. -/
  quar : List QuarEntry
  /-- Number of the last completed lehr pass. -/
  lehrDone : Nat
  /-- The running pass. -/
  lehr : LehrStep
  /-- Error records that wait for the host-window half of their place (R155, R188): function, queue, the record as a number. -/
  records : List (Nat × Nat × Nat)
  /-- Remote-range table. -/
  remoteRanges : List RemoteRange
  /-- Excluded set. -/
  excluded : List Nat
  /-- Channels retired: stack × 32 + channel. -/
  retired : List Nat
  /-- Groups being rebuilt: stack × 2 + group. -/
  rebuilding : List Nat
  /-- Clk of each core as last read (R96). -/
  cyc : Sparse W64
  /-- Bring-up. -/
  boot : Boot
  /-- Firmware image in module flash, with its signature. -/
  flash : List Byte
  /-- Its ML-DSA-65 signature. -/
  flashSig : List Byte
  /-- Length of the image that the boot ROM loaded. -/
  imageLen : Nat
  /-- What has left the device, newest first. -/
  out : List Output
  /-- The issuing team (log entry 2). -/
  cur : Option Nat
  /-- The issuing word's local loads return by LOAD_DATA_RETURN (log entry 6). -/
  late : Bool
  /-- Steps still to come (log entry 2). -/
  agenda : List Todo
  /-- Team that issued last from each issue slot, 8 × core + pipe, for the round-robin of R103. -/
  rr : Sparse Nat
  /-- The slot from which a team issued last. -/
  lastSlot : Nat
  /-- Counter at which free values are taken (log entry 1). -/
  fresh : Nat
deriving DecidableEq, Repr

/-- The device after steps 1 to 3 of R401: every block dead, everything zero and untagged, no team; the boot ROM's copy
and verification (BOOT_VERIFY) come next. -/
def State.reset : State where
  mem := .empty
  live := []
  updMode := []
  teams := []
  shops := []
  nextShop := 0
  cmds := []
  pubs := []
  launches := []
  nextLaunch := 0
  spawns := []
  ready := []
  forwards := []
  codes := []
  images := []
  groups := []
  rse := []
  rseQueue := []
  reqs := []
  nextId := 0
  halves := []
  devId := 0
  devSet := false
  starve := 0x0200
  fabto := 50
  lehrto := 1000
  disten := 0b11
  portdn := 0
  replays := []
  portSeen := []
  hbmunp := 0
  drain := 0
  draining := []
  errlog := 0
  cecnt := 0
  pwrlim := 2600
  expset := []
  hwin := []
  rings := []
  funcs := []
  everEnabled := false
  lastQueue := none
  quar := []
  lehrDone := 0
  lehr := .idle
  records := []
  remoteRanges := []
  excluded := []
  retired := []
  rebuilding := []
  cyc := []
  boot := .loading
  flash := []
  flashSig := []
  imageLen := 0
  out := []
  cur := none
  late := false
  agenda := []
  rr := []
  lastSlot := 0
  fresh := 0

end Sys2Proof.Machine
end

