-- ==== Sys2Proof/Machine/Operands.lean ====
section
/-!
DEFINITION. Registers and operand forms: reading and writing v, s, c and k registers (R61, R83, R93, R200, R201), MODE
fields (R205, R208), the execution mask (R85), literal operands (R211) and the register checks made at decode (R204).
-/

namespace Sys2Proof.Machine

/-- The issuing team of a word: its number, the team, its shop's number and the shop. -/
structure Ctx where
  /-- Team number, shop × 32 + index. -/
  n : Nat
  /-- The team as it stood before the word. -/
  t : Team
  /-- The shop. -/
  sh : Shop
deriving DecidableEq, Repr

/-- Shop number of a team number. -/
def shopOf (n : Nat) : Nat := n / 32

/-- Team index in the shop (TEAMIX). -/
def teamIx (n : Nat) : Nat := n % 32

/-! ### Registers -/

/-- Register v`r` of a lane. -/
def Team.rdV (t : Team) (lane r : Nat) : W32 := Sparse.get 0 t.v (lane * 256 + r)

/-- Write register v`r` of a lane; the lane's tag of its quad clears (R62). -/
def Team.wrV (t : Team) (lane r : Nat) (x : W32) : Team :=
  { t with v := Sparse.set 0 t.v (lane * 256 + r) x
           vtag := Sparse.set false t.vtag (lane * 64 + r / 4) false }

/-- Register s`r`. -/
def Team.rdS (t : Team) (r : Nat) : W64 := Sparse.get 0 t.sreg r

/-- Write register s`r`. -/
def Team.wrS (t : Team) (r : Nat) (x : W64) : Team := { t with sreg := Sparse.set 0 t.sreg r x }

/-- Register c`r`; c0 is null (R61). -/
def Team.rdC (t : Team) (r : Nat) : Cap := if r = 0 then Cap.null else Sparse.get Cap.null t.creg r

/-- Write register c`r`, which loses its poison (R186); a write to c0 is discarded (R61). -/
def Team.wrC (t : Team) (r : Nat) (c : Cap) : Team :=
  if r = 0 then t else { t with creg := Sparse.set Cap.null t.creg r c, cpoison := t.cpoison &&& ~~~(1#32 <<< r) }

/-- Whether c`r` is poisoned (R61, R405). -/
def Team.capPoison (t : Team) (r : Nat) : Bool := t.cpoison.getLsbD r

/-- Poison c`r`, when `b`. -/
def Team.soilCap (t : Team) (r : Nat) (b : Bool) : Team := if b && r ≠ 0 then { t with cpoison := t.cpoison ||| 1#32 <<< r } else t

/-- Lanes 0..L-1. -/
def laneMask (lanes : Nat) : Mask := BitVec.ofNat 1024 (2 ^ lanes - 1)

/-- Lane bits of k`r`. -/
def Team.rdK (t : Team) (r : Nat) : Mask := Sparse.get 0 t.kreg r

/-- Write lane bits of k`r`; bits at or above L are discarded (R83). -/
def Team.wrK (t : Team) (lanes r : Nat) (m : Mask) : Team :=
  { t with kreg := Sparse.set 0 t.kreg r (m &&& laneMask lanes) }

/-- The summary word of a mask (R83). -/
def summary (m : Mask) : W32 :=
  BitVec.ofNat 32 (joinElems 1 (fun w => if m.extractLsb' (32 * w) 32 = 0 then 0 else 1) 32)

/-- The lanes of a mask, ascending. -/
def lanesOf (m : Mask) (lanes : Nat) : List Nat := (List.range lanes).filter fun l => m.getLsbD l

/-- Number of set lanes. -/
def maskCount (m : Mask) (lanes : Nat) : Nat := (lanesOf m lanes).length

/-- The mask of a predicate on lanes. -/
def maskOf (f : Nat → Bool) : Nat → Mask
  | 0 => 0
  | n + 1 => maskOf f n ||| (if f n then 1#1024 <<< n else 0)

/-- The vector quad `q` of a lane as a capability (R61): register 4q holds bits [31..0]. -/
def Team.rdQuad (t : Team) (lane q : Nat) : Cap :=
  Cap.ofNat ((t.rdV lane (4 * q)).toNat + 2 ^ 32 * ((t.rdV lane (4 * q + 1)).toNat + 2 ^ 32 *
    ((t.rdV lane (4 * q + 2)).toNat + 2 ^ 32 * (t.rdV lane (4 * q + 3)).toNat)))
    (Sparse.get false t.vtag (lane * 64 + q))

/-- Write a capability into a vector quad of a lane, with its tag; a granule written whole loses its poison (R186). -/
def Team.wrQuad (t : Team) (lane q : Nat) (c : Cap) : Team :=
  let t1 := (((t.wrV lane (4 * q) (BitVec.ofNat 32 c.toNat)).wrV lane (4 * q + 1) (BitVec.ofNat 32 (c.toNat / 2 ^ 32))).wrV lane
    (4 * q + 2) (BitVec.ofNat 32 (c.toNat / 2 ^ 64))).wrV lane (4 * q + 3) (BitVec.ofNat 32 (c.toNat / 2 ^ 96))
  { t1 with vtag := Sparse.set false t1.vtag (lane * 64 + q) c.tag, vpoison := Sparse.set false t1.vpoison (lane * 64 + q) false }

/-- Whether the vector quad `q` of a lane is poisoned. -/
def Team.quadPoison (t : Team) (lane q : Nat) : Bool := Sparse.get false t.vpoison (lane * 64 + q)

/-- Set or clear the poison of a vector quad. -/
def Team.setQuadPoison (t : Team) (lane q : Nat) (b : Bool) : Team := { t with vpoison := Sparse.set false t.vpoison (lane * 64 + q) b }

/-- A v operand of a lane: one register, or the pair, low half first (R201). -/
def Team.rdW (t : Team) (wide : Bool) (lane r : Nat) : Nat :=
  (t.rdV lane r).toNat + if wide then 2 ^ 32 * (t.rdV lane (r + 1)).toNat else 0

/-- Write a v operand of a lane, one register or the pair. -/
def Team.wrW (t : Team) (wide : Bool) (lane r x : Nat) : Team :=
  let t1 := t.wrV lane r (BitVec.ofNat 32 x)
  if wide then t1.wrV lane (r + 1) (BitVec.ofNat 32 (x / 2 ^ 32)) else t1

/-- Generator state of a lane (R38). -/
def Team.rdGen (t : Team) (lane : Nat) : W32 := Sparse.get 0 t.gen lane

/-- Set the generator state of a lane. -/
def Team.wrGen (t : Team) (lane : Nat) (x : W32) : Team := { t with gen := Sparse.set 0 t.gen lane x }

/-! ### MODE (R205) -/

/-- A field of MODE. -/
def Team.modeBits (t : Team) (lo n : Nat) : Nat := t.mode.toNat / 2 ^ lo % 2 ^ n

/-- MODE.TYPE, when assigned. -/
def Team.ty? (t : Team) : Option Ty := Ty.ofCode (t.modeBits 10 5)

/-- MODE.RND. -/
def Team.rnd (t : Team) : Rnd := Rnd.ofCode (t.modeBits 15 3)

/-- MODE.FTZ. -/
def Team.ftz (t : Team) : Bool := t.modeBits 18 1 = 1

/-- MODE.SAT. -/
def Team.sat (t : Team) : Bool := t.modeBits 19 1 = 1

/-- The effective scope of an instruction that takes it from MODE (R164). -/
def Team.scope (t : Team) : BitVec 6 := if t.modeBits 23 6 = 0 then 0b011100 else BitVec.ofNat 6 (t.modeBits 23 6)

/-- Whether a MODE value is valid (R206). -/
def modeValid (m : W32) : Bool :=
  let n := m.toNat
  n / 2 ^ 29 = 0 && n / 2 ^ 20 % 8 = 0 && n / 2 ^ 5 % 32 = 0 && n / 2 ^ 3 % 2 = 0 && n / 2 ^ 15 % 8 ≤ 5 && n / 2 ^ 10 % 32 ≤ 13

/-- The guard G over lanes 0..L-1 (R85). -/
def Team.guard (t : Team) (lanes : Nat) : Mask :=
  let g := t.rdK (t.modeBits 0 3)
  if t.modeBits 4 1 = 1 then ~~~g &&& laneMask lanes else g

/-- The execution mask G AND k0 (R85). -/
def Team.exec (t : Team) (lanes : Nat) : Mask := t.guard lanes &&& t.rdK 0

/-- The execution mask of the issuing team. -/
def Ctx.exec (x : Ctx) : Mask := x.t.exec x.sh.lanes

/-- The lanes of the execution mask, ascending. -/
def Ctx.lanes (x : Ctx) : List Nat := lanesOf x.exec x.sh.lanes

/-! ### Checks at decode that need the team (R201, R204) -/

/-- A condition whose failure is ILLEGAL_FIELD. -/
def need (b : Bool) : Except Trap Unit := if b then .ok () else .error (.plain .illegalField)

/-- A v operand exists: below the allotment, and an even pair under a 64-bit TYPE (R94, R201). -/
def needV (x : Ctx) (wide : Bool) (r : Nat) : Except Trap Unit :=
  need (if wide then r % 2 = 0 && r + 1 < x.t.allot else r < x.t.allot)

/-- A vector quad exists (R94). -/
def needQuad (x : Ctx) (q : Nat) : Except Trap Unit := need (4 * q + 3 < x.t.allot)

/-- A register range exists. -/
def needRange (x : Ctx) (r n : Nat) : Except Trap Unit := need (r + n ≤ x.t.allot)

/-- The effective TYPE, when it is in the accepted set (R207). -/
def needTy (x : Ctx) (p : Ty → Bool) : Except Trap Ty :=
  match x.t.ty? with
  | some ty => if p ty then .ok ty else .error (.plain .illegalField)
  | none => .error (.plain .illegalField)

/-- The capability operand exists (R202). -/
def needCap (x : Ctx) : CapRef → Except Trap Unit
  | .c _ => .ok ()
  | .quad q => needQuad x q.toNat

/-! ### Operand values -/

/-- A vector source: a register, a uniform register or a literal (R211, R227). -/
inductive VSrc where
  /-- v register. -/
  | v (r : BitVec 8)
  /-- s register. -/
  | s (r : BitVec 6)
  /-- Literal word. -/
  | lit (x : W32)
deriving DecidableEq, Repr

/-- The operand value that a literal stands for under a TYPE (R211). -/
def litValue (ty : Ty) (x : W32) : Nat :=
  match ty with
  | .i64 => (x.signExtend 64).toNat
  | .f64 => FloatFmt.b64.encode .rne 0 false (FloatFmt.b32.decode x.toNat)
  | _ => x.toNat

/-- The value of a vector source in a lane. -/
def Team.src (t : Team) (ty : Ty) (lane : Nat) : VSrc → Nat
  | .v r => t.rdW ty.wide lane r.toNat
  | .s r => if ty.wide then (t.rdS r.toNat).toNat else (t.rdS r.toNat).toNat % 2 ^ 32
  | .lit x => litValue ty x

/-- The check that a vector source exists. -/
def needSrc (x : Ctx) (wide : Bool) : VSrc → Except Trap Unit
  | .v r => needV x wide r.toNat
  | _ => .ok ()

/-- A uniform source: a register or a literal, sign-extended (R211). -/
inductive SSrc where
  /-- s register. -/
  | s (r : BitVec 6)
  /-- Literal word. -/
  | lit (x : W32)
deriving DecidableEq, Repr

/-- The value of a uniform source. -/
def Team.ssrc (t : Team) : SSrc → W64
  | .s r => t.rdS r.toNat
  | .lit x => x.signExtend 64

/-! ### Writing lanes -/

/-- Apply an update for each lane of a list. -/
def forLanes (f : Nat → Team → Team) : List Nat → Team → Team
  | [], t => t
  | l :: ls, t => forLanes f ls (f l t)

/-- The first lane of a list whose check fails, or nothing (R65). -/
def checkLanes (f : Nat → Except Trap Unit) : List Nat → Except Trap Unit
  | [] => .ok ()
  | l :: ls => match f l with
    | .ok () => checkLanes f ls
    | .error e => .error e

/-- Draw `n` generator words in a lane when rounding is stochastic; the words and the next state (R38). -/
def draws : Nat → W32 → List Nat × W32
  | 0, g => ([], g)
  | n + 1, g =>
    let d := genDraw g
    let r := draws n d.1
    (d.2 :: r.1, r.2)

end Sys2Proof.Machine
end

