-- ==== Sys2Proof/Machine/Flags.lean ====
section
/-!
DEFINITION. Every comparison that an instruction turns into a mask bit or a 0/1 value: the conditions of CMP (R230), FCMP
(R238) and SCMP (R260), and the class masks of FCLASS (R239). The machine has no flags register.
-/

namespace Sys2Proof.Machine

/-- The condition of CMP, codes 0 to 5 (R230); 6 and 7 are refused at decode. -/
def cmpCond (c : BitVec 3) (a b : Int) : Bool :=
  match c.toNat with
  | 0 => decide (a = b)
  | 1 => decide (a ≠ b)
  | 2 => decide (a < b)
  | 3 => decide (a ≤ b)
  | 4 => decide (b < a)
  | _ => decide (b ≤ a)

/-- The condition of FCMP (R238) on two elements of a format. -/
def fcmpCond (c : BitVec 3) (F : FloatFmt) (a b : Nat) : Bool :=
  let un := F.isNan a || F.isNan b
  match c.toNat with
  | 0 => !un && decide (F.key a = F.key b)
  | 1 => un || decide (F.key a ≠ F.key b)
  | 2 => !un && decide (F.key a < F.key b)
  | 3 => !un && decide (F.key a ≤ F.key b)
  | 4 => !un && decide (F.key b < F.key a)
  | 5 => !un && decide (F.key b ≤ F.key a)
  | 6 => un
  | _ => !un

/-- The condition of SCMP, codes 0 to 9 (R260). -/
def scmpCond (c : Nat) (a b : W64) : Bool :=
  match c with
  | 0 => decide (a = b)
  | 1 => decide (a ≠ b)
  | 2 => decide (a.toInt < b.toInt)
  | 3 => decide (a.toInt ≤ b.toInt)
  | 4 => decide (b.toInt < a.toInt)
  | 5 => decide (b.toInt ≤ a.toInt)
  | 6 => decide (a.toNat < b.toNat)
  | 7 => decide (a.toNat ≤ b.toNat)
  | 8 => decide (b.toNat < a.toNat)
  | _ => decide (b.toNat ≤ a.toNat)

/-- The class masks of an element group (R239). -/
def classMask (ty : Ty) (x : Nat) : Nat :=
  joinElems (if ty.count = 2 then 16 else 64) (fun j => 2 ^ ty.flt.classBit (elemOf ty.width x j)) ty.count

end Sys2Proof.Machine
end

