-- ==== Sys2Proof/Machine/MemOps.lean ====
section
/-!
DEFINITION. The named operations on memory: bytes, tags and poison (R61, R62, R186), the local address map (R135),
dead blocks (R151, R152), the halves of host-window lines (R155), and the update of every capability on the device
(R76, R402).
-/

namespace Sys2Proof.Machine

/-! ### Bytes with tags and poison -/

/-- One byte. -/
def Mem.byte (m : Mem) (a : Nat) : Byte := Sparse.get 0 m.bytes a

/-- `n` bytes from an address. -/
def Mem.read (m : Mem) (a n : Nat) : List Byte := Sparse.getList 0 m.bytes a n

/-- The tag of the granule of an address. -/
def Mem.tagAt (m : Mem) (a : Nat) : Bool := Sparse.get false m.tags (a / 16)

/-- The granule numbers that [a, a + n) touches. -/
def granules (a n : Nat) : List Nat := if n = 0 then [] else (List.range ((a + n - 1) / 16 - a / 16 + 1)).map fun j => a / 16 + j

/-- Whether some granule of [a, a + n) is poisoned. -/
def Mem.poisoned (m : Mem) (a n : Nat) : Bool := (granules a n).any fun g => Sparse.get false m.poison g

/-- Set one bit for a list of granules. -/
def setGranules (b : Bool) : List Nat → Sparse Bool → Sparse Bool
  | [], m => m
  | g :: gs, m => setGranules b gs (Sparse.set false m g b)

/-- A write that is no capability write: the tags of the granules touched clear (R62), and a granule written whole loses
its poison (R186). -/
def Mem.write (m : Mem) (a : Nat) (bs : List Byte) : Mem :=
  let n := bs.length
  { bytes := Sparse.setList 0 m.bytes a bs
    tags := setGranules false (granules a n) m.tags
    poison := setGranules false ((granules a n).filter fun g => decide (a ≤ 16 * g) && decide (16 * g + 16 ≤ a + n)) m.poison }

/-- Read a granule as a capability with its tag. -/
def Mem.readCap (m : Mem) (a : Nat) : Cap := Cap.ofNat (bytesNat (m.read a 16)) (m.tagAt a)

/-- Write a capability into a granule with its tag. -/
def Mem.writeCap (m : Mem) (a : Nat) (c : Cap) : Mem :=
  let m1 := m.write a (natBytes 16 c.toNat)
  { m1 with tags := Sparse.set false m1.tags (a / 16) c.tag }

/-- Poison the granules of [a, a + n). -/
def Mem.poisonRange (m : Mem) (a n : Nat) : Mem := { m with poison := setGranules true (granules a n) m.poison }

/-- Zero, untagged and unpoisoned over [a, a + n), whole granules. -/
def Mem.zero (m : Mem) (a n : Nat) : Mem :=
  { bytes := Sparse.clear m.bytes a n
    tags := Sparse.clear m.tags (a / 16) (n / 16)
    poison := Sparse.clear m.poison (a / 16) (n / 16) }

/-- Every tagged granule's capability replaced by `f` of it. -/
def Mem.mapCaps (f : Cap → Cap) (m : Mem) : Mem :=
  m.tags.foldl (fun (acc : Mem) e =>
    let c := acc.readCap (16 * e.1)
    if f c = c then acc
    else
      { acc with bytes := Sparse.setList 0 acc.bytes (16 * e.1) (natBytes 16 (f c).toNat)
                 tags := Sparse.set false acc.tags e.1 (f c).tag }) m

/-- The canonical form of memory: addresses rising, no entry equal to what an unlisted one reads as. -/
def Mem.wf (m : Mem) : Bool := Sparse.wf 0 m.bytes && Sparse.wf false m.tags && Sparse.wf false m.poison

/-! ### The local address map -/

/-- HBMTOP (R135). -/
def hbmTop : Nat := 0x68C6171400

/-- First address of the MMIO window. -/
def mmioBase : Nat := 0x40000000000

/-- First address of the host window. -/
def hostBase : Nat := 0x50000000000

/-- What lies at a local address (R135, R395). -/
inductive Region where
  /-- HBM. -/
  | hbm
  /-- MMIO window, at an offset. -/
  | mmio (off : Nat)
  /-- Host window, at an offset, with a valid table entry. -/
  | host (off : Nat)
  /-- Reserved. -/
  | reserved
deriving DecidableEq, Repr

/-- The region of a local address. -/
def State.region (s : State) (a : Nat) : Region :=
  if a < hbmTop then .hbm
  else if mmioBase ≤ a ∧ a < mmioBase + 0x10000000 then .mmio (a - mmioBase)
  else if hostBase ≤ a ∧ a < hostBase + 0x1000000000 then
    (if (Sparse.get (0 : W64) s.hwin ((a - hostBase) / 2 ^ 30)).getLsbD 0 then .host (a - hostBase) else .reserved)
  else .reserved

/-- Addresses at which a reserved range can begin. -/
def reservedStarts : List Nat :=
  [hbmTop, mmioBase + 0x10000000, hostBase + 0x1000000000] ++ (List.range 64).map fun j => hostBase + 2 ^ 30 * j

/-- Whether [a, a + n) touches a reserved range (R136). -/
def State.touchesReserved (s : State) (a n : Nat) : Bool :=
  (a :: reservedStarts).any fun p => decide (a ≤ p) && decide (p < a + n) && decide (s.region p = .reserved)

/-- Mark the 4 KiB blocks of [a, a + n) live (R152). -/
def markLive (a n : Nat) (live : Sparse Bool) : Sparse Bool :=
  if n = 0 then live
  else ((List.range ((a + n - 1) / 4096 - a / 4096 + 1)).map fun j => a / 4096 + j).foldl (fun l b => Sparse.set false l b true) live

/-- A write to HBM: a dead block becomes live (R152). -/
def State.writeHbm (s : State) (a : Nat) (bs : List Byte) : State :=
  { s with mem := s.mem.write a bs, live := markLive a bs.length s.live }

/-- A capability write to HBM. -/
def State.writeHbmCap (s : State) (a : Nat) (c : Cap) : State :=
  { s with mem := s.mem.writeCap a c, live := markLive a 16 s.live }

/-- DEAD over [a, a + n): bytes read zero, untagged and unpoisoned; whole aligned 4 KiB blocks become dead, and the write of
zero makes the partly covered ones live (R151, R152). -/
def State.declareDead (s : State) (a n : Nat) : State :=
  let first := (a + 4095) / 4096
  { s with mem := s.mem.zero a n
           live := Sparse.clear (markLive a n s.live) first ((a + n) / 4096 - first) }

/-! ### Shops and teams -/

/-- A shop, if it exists. -/
def State.shop? (s : State) (n : Nat) : Option Shop := Sparse.look s.shops n

/-- A team, if it exists. -/
def State.team? (s : State) (n : Nat) : Option Team := Sparse.look s.teams n

/-- Replace a team. -/
def State.setTeam (s : State) (n : Nat) (t : Team) : State := { s with teams := Sparse.insert s.teams n t }

/-- Replace a shop. -/
def State.setShop (s : State) (n : Nat) (x : Shop) : State := { s with shops := Sparse.insert s.shops n x }

/-- Change a shop, if it exists. -/
def State.updShop (s : State) (n : Nat) (f : Shop → Shop) : State :=
  match s.shop? n with
  | some x => s.setShop n (f x)
  | none => s

/-- Change a team, if it exists. -/
def State.updTeam (s : State) (n : Nat) (f : Team → Team) : State :=
  match s.team? n with
  | some t => s.setTeam n (f t)
  | none => s

/-- Scratchpad of a shop. -/
def State.spad (s : State) (shop : Nat) : Mem :=
  match s.shop? shop with
  | some x => x.spad
  | none => .empty

/-- Whether a shop holds places and pool units of its core. -/
def Shop.resident (x : Shop) : Bool := x.phase ≠ .saved && x.phase ≠ .discarded

/-- The team numbers of a shop, in order. -/
def State.teamsOf (s : State) (shop : Nat) : List Nat := (s.teams.map Prod.fst).filter fun n => shopOf n = shop

/-- A number and a tag, updated as the capability that they are. -/
def mapCapNat (f : Cap → Cap) (n : Nat) (tag : Bool) : Nat × Bool :=
  if tag then ((f (Cap.ofNat n true)).toNat, (f (Cap.ofNat n true)).tag) else (n, false)

/-- Update the tagged EXP and DES of an MCAS that waits for its locks: the lines that it has asked for and its own copies of
their granules are swept alike (R77). -/
def McasEntry.mapCaps (f : Cap → Cap) (e : McasEntry) : McasEntry :=
  { e with exp := (mapCapNat f e.exp e.expTag).1, expTag := (mapCapNat f e.exp e.expTag).2
           des := (mapCapNat f e.des e.desTag).1, desTag := (mapCapNat f e.des e.desTag).2 }

/-- Update the capability that a waiting access stores. -/
def Access.mapCaps (f : Cap → Cap) (a : Access) : Access :=
  match a.op with
  | .writeCap c => if c.tag then { a with op := .writeCap (f c) } else a
  | .writePoison c => if c.tag then { a with op := .writePoison (f c) } else a
  | _ => a

/-- A capability after an update of the tagged ones. -/
def Cap.swept (f : Cap → Cap) (c : Cap) : Cap := if c.tag then f c else c

/-- Update the capabilities that a re-shard command holds. -/
def PlanCmd.mapCaps (f : Cap → Cap) (p : PlanCmd) : PlanCmd :=
  { p with src := { p.src with devtab := p.src.devtab.swept f }, dst := { p.dst with devtab := p.dst.devtab.swept f }
           buf := p.buf.swept f, prog := p.prog.swept f, stamp := p.stamp.swept f }

/-- Update the capabilities that a command holds. -/
def CmdBody.mapCaps (f : Cap → Cap) : CmdBody → CmdBody
  | .copy src dst ms tags => .copy (src.swept f) (dst.swept f) ms tags
  | .gather bs first len dst doff drs out16 rnd sat => .gather (bs.map (Cap.swept f)) first len (dst.swept f) doff drs out16 rnd sat
  | .publishRows bs first len stream out16 rnd sat => .publishRows (bs.map (Cap.swept f)) first len stream out16 rnd sat
  | .multi src soff doff len coff cores => .multi (src.swept f) soff doff len coff cores
  | .remoteGo cap sent => .remoteGo (cap.swept f) sent
  | .ownerGo src dst ms tags dev seq => .ownerGo (src.swept f) (dst.swept f) ms tags dev seq
  | .groupSetup cap => .groupSetup (cap.swept f)
  | .mlred grp dst soff doff len bf16 rnd sat => .mlred (grp.swept f) (dst.swept f) soff doff len bf16 rnd sat
  | .mstm grp src soff doff len => .mstm (grp.swept f) (src.swept f) soff doff len
  | .gateway src soff len domain device ring => .gateway (src.swept f) soff len domain device ring
  | .reshard p => .reshard (p.mapCaps f)
  | .mloadb slot cap d => .mloadb slot (cap.swept f) d
  | .mpub stream cap d count stride => .mpub stream (cap.swept f) d count stride
  | .mma tile slot cap d sparse => .mma tile slot (cap.swept f) d sparse
  | .mepi tile keep dst off pitch rows cols rnd sat words => .mepi tile keep (dst.swept f) off pitch rows cols rnd sat words
  | b => b

/-- Update the capability of a completion stamp. -/
def Completion.mapCaps (f : Cap → Cap) : Completion → Completion
  | .stamp cap off seq => .stamp (cap.swept f) off seq
  | d => d

/-- Update the source table of a plan: an entry whose tag clears is marked (R377). -/
def RsePlan.mapCaps (f : Cap → Cap) (r : RsePlan) : RsePlan :=
  { r with entries := r.entries.map fun e => { e with buf := e.buf.swept f, revoked := e.revoked || (e.buf.tag && !(f e.buf).tag) } }

/-- Update the capabilities in what a peer has answered to a capability load: it lies at the port until its word ends (R63, R77, R79). -/
def Answer.mapCaps (f : Cap → Cap) (a : Answer) : Answer :=
  (List.range 8).foldl (fun (b : Answer) g =>
    if b.tags.getD g false then
      let c := Cap.ofNat (bytesNat ((b.data.drop (16 * g)).take 16)) true
      { b with data := b.data.take (16 * g) ++ natBytes 16 (f c).toNat ++ b.data.drop (16 * g + 16), tags := b.tags.set g (f c).tag }
    else b) a

/-- Update the capabilities that a request carries: none leaves its device unsent, so only what has been answered counts. -/
def Request.mapCaps (f : Cap → Cap) (r : Request) : Request := { r with answer := r.answer.map (Answer.mapCaps f) }

/-- Update the capabilities that a shop holds. -/
def Shop.mapCaps (f : Cap → Cap) (x : Shop) : Shop :=
  { x with spad := x.spad.mapCaps f, code := x.code.swept f, arg := x.arg.swept f, results := x.results.map fun r => (r.1.swept f, r.2) }

/-- Update the capabilities that a launch holds. -/
def Launch.mapCaps (f : Cap → Cap) (l : Launch) : Launch :=
  { l with code := l.code.swept f, arg := l.arg.swept f, graph := l.graph.swept f, stamp := l.stamp.swept f }

/-- Update the capabilities that an NSPAWN holds. -/
def Spawn.mapCaps (f : Cap → Cap) (p : Spawn) : Spawn :=
  { p with graph := p.graph.swept f, arg := p.arg.swept f, stamp := p.stamp.swept f }

/-- Update every capability in a team's registers, monitor, and in the word that it waits in. -/
def Team.mapCaps (f : Cap → Cap) (t : Team) : Team :=
  let t1 := t.creg.foldl (fun (acc : Team) e => if (acc.rdC e.1).tag then acc.wrC e.1 (f (acc.rdC e.1)) else acc) t
  let t2 := t.vtag.foldl (fun (acc : Team) e =>
    let c := acc.rdQuad (e.1 / 64) (e.1 % 64)
    if f c = c then acc else acc.wrQuad (e.1 / 64) (e.1 % 64) (f c)) t1
  { t2 with vpoison := t.vpoison, cpoison := t.cpoison
            monitor := t2.monitor.map fun p => (if p.1.tag then f p.1 else p.1, p.2)
            wait := match t2.wait with
              | .yieldc i st c off v ph k => .yieldc i st (if c.tag then f c else c) off v ph k
              | .mcas d b stc es => .mcas d b stc (es.map (McasEntry.mapCaps f))
              | .access i accs => .access i (accs.map (Access.mapCaps f))
              | .planRead i accs p => .planRead i (accs.map (Access.mapCaps f)) (p.mapCaps f)
              | w => w }

/-- Update every tagged capability on the device (R76, R384, R402): in HBM, where context areas lie, registers and scratchpads, and in what
the gaffer, the loader, the engines and the ports hold. -/
def State.mapCaps (f : Cap → Cap) (s : State) : State :=
  { s with mem := s.mem.mapCaps f
           teams := s.teams.map fun e => (e.1, Team.mapCaps f e.2)
           shops := s.shops.map fun e => (e.1, Shop.mapCaps f e.2)
           launches := s.launches.map fun e => (e.1, Launch.mapCaps f e.2)
           spawns := s.spawns.map (Spawn.mapCaps f)
           codes := s.codes.map fun e => (e.1, { e.2 with cap := e.2.cap.swept f })
           cmds := s.cmds.map fun c => { c with body := c.body.mapCaps f, done := c.done.mapCaps f }
           pubs := s.pubs.map fun p => { p with cap := p.cap.swept f }
           rse := s.rse.map fun e => (e.1, RsePlan.mapCaps f e.2)
           reqs := s.reqs.map fun e => (e.1, Request.mapCaps f e.2) }

/-! ### The host window -/

/-- Read bytes of one half that is held. -/
def Half.read (h : Half) (o n : Nat) : List Byte := (h.data.drop o).take n

/-- Replace bytes of a list. -/
def splice (l : List Byte) (o : Nat) (bs : List Byte) : List Byte := l.take o ++ bs ++ l.drop (o + bs.length)

/-- The halves that [off, off + n) touches. -/
def halvesOf (off n : Nat) : List Nat := if n = 0 then [] else (List.range ((off + n - 1) / 64 - off / 64 + 1)).map fun j => off / 64 + j

/-- Whether a window access can be performed: every half touched is held, and owned for a write (R155). -/
def State.halvesReady (s : State) (off n : Nat) (write : Bool) : Bool :=
  (halvesOf off n).all fun h => match Sparse.look s.halves h with
    | some x => !write || x.state = .owned
    | none => false

/-- One byte of the window, from its held half. -/
def State.hostByte (s : State) (off : Nat) : Byte :=
  match Sparse.look s.halves (off / 64) with
  | some h => h.data.getD (off % 64) 0
  | none => 0

/-- Set or clear the poison of a granule of a held half; `g` is its number in the window. -/
def setHostPoison (b : Bool) (hs : Sparse Half) (g : Nat) : Sparse Half :=
  match Sparse.look hs (g / 4) with
  | some h => Sparse.insert hs (g / 4) { h with poison := if b then h.poison ||| 1#4 <<< (g % 4) else h.poison &&& ~~~(1#4 <<< (g % 4)) }
  | none => hs

/-- Whether a granule of the window is poisoned in its held half (R405). -/
def State.hostSoiled (s : State) (g : Nat) : Bool := ((Sparse.look s.halves (g / 4)).map fun h => h.poison.getLsbD (g % 4)).getD false

/-- The address of the first poisoned granule of the window in [off, off + n). -/
def State.hostPoison (s : State) (off n : Nat) : Option Nat := ((granules off n).find? s.hostSoiled).map fun g => 16 * g

/-- Write bytes into held, owned halves; a granule written whole loses its poison (R186). -/
def State.hostWrite (s : State) (off : Nat) (bs : List Byte) : State :=
  let hs := (bs.zipIdx).foldl (fun hs (p : Byte × Nat) =>
      let a := off + p.2
      match Sparse.look hs (a / 64) with
      | some h => Sparse.insert hs (a / 64) { h with data := splice h.data (a % 64) [p.1], dirty := true }
      | none => hs) s.halves
  let whole := (granules off bs.length).filter fun g => decide (off ≤ 16 * g) && decide (16 * g + 16 ≤ off + bs.length)
  { s with halves := whole.foldl (setHostPoison false) hs }

/-- Poison granules of held halves. -/
def State.soilHost (s : State) (gs : List Nat) : State := { s with halves := gs.foldl (setHostPoison true) s.halves }

/-! ### Bytes at a local address -/

/-- Read bytes of HBM or of held halves of the host window; zeros elsewhere. -/
def State.readAt (s : State) (a n : Nat) : List Byte :=
  match s.region a with
  | .hbm => s.mem.read a n
  | .host o => (List.range n).map fun j => s.hostByte (o + j)
  | _ => List.replicate n 0

/-- Write bytes to HBM or to held halves of the host window; nothing elsewhere. -/
def State.writeAt (s : State) (a : Nat) (bs : List Byte) : State :=
  match s.region a with
  | .hbm => s.writeHbm a bs
  | .host o => s.hostWrite o bs
  | _ => s

end Sys2Proof.Machine
end

