-- ==== Sys2Proof/Machine/Barrier.lean ====
section
/-!
DEFINITION. Barriers in scratchpad (R326, R328): the 16 bytes as a record, each update of R328, and the changes of crew
membership (R99).
-/

namespace Sys2Proof.Machine

/-- The fields of a barrier (R326). -/
structure Bar where
  /-- ERR. -/
  err : Bool
  /-- PHASE. -/
  phase : Bool
  /-- CREWMODE. -/
  crewmode : Bool
  /-- CREW. -/
  crew : Nat
  /-- PENDING. -/
  pending : Int
  /-- EXPECT. -/
  expect : Nat
  /-- ARRSET, bit i for team i. -/
  arrset : BitVec 32
  /-- OPEN. -/
  opened : Bool
  /-- ARRIVED. -/
  arrived : Nat
deriving DecidableEq, Repr

/-- The zero fields of the layout that CREWMODE selects are zero (R326). -/
def barClean (x : Nat) : Bool :=
  x / 2 ^ 92 % 2 ^ 30 = 0 && x / 2 ^ 17 % 2 ^ 7 = 0 &&
    (x / 2 ^ 125 % 2 = 1 || (x / 2 ^ 48 % 2 ^ 16 = 0 && x / 2 ^ 24 % 2 ^ 8 = 0))

/-- Read the fields from the 128 bits. -/
def Bar.ofNat (x : Nat) : Bar :=
  let crewmode : Bool := x / 2 ^ 125 % 2 = 1
  { err := x / 2 ^ 127 % 2 = 1
    phase := x / 2 ^ 126 % 2 = 1
    crewmode := crewmode
    crew := x / 2 ^ 122 % 8
    pending := toSigned 28 (x / 2 ^ 64)
    expect := if crewmode then x / 2 ^ 24 % 2 ^ 8 else x / 2 ^ 32 % 2 ^ 16
    arrset := if crewmode then BitVec.ofNat 32 (x / 2 ^ 32) else 0
    opened := x / 2 ^ 16 % 2 = 1
    arrived := x % 2 ^ 16 }

/-- The 128 bits of the fields. -/
def Bar.toNat (b : Bar) : Nat :=
  b.err.toNat * 2 ^ 127 + b.phase.toNat * 2 ^ 126 + b.crewmode.toNat * 2 ^ 125 + b.crew % 8 * 2 ^ 122 +
    wrapInt 28 b.pending * 2 ^ 64 +
    (if b.crewmode then b.arrset.toNat * 2 ^ 32 + b.expect % 2 ^ 8 * 2 ^ 24 else b.expect % 2 ^ 16 * 2 ^ 32) +
    b.opened.toNat * 2 ^ 16 + b.arrived % 2 ^ 16

/-- BARI (R328). -/
def Bar.init (expect crew : Nat) (crewmode : Bool) : Bar :=
  ⟨false, false, crewmode, crew, 0, if crewmode then 0 else expect, 0, false, 0⟩

/-- check (R328): the phase completes when everyone has arrived and no byte is pending. -/
def Bar.check (b : Bar) : Bar :=
  if b.expect ≤ b.arrived ∧ b.pending = 0 ∧ (b.opened ∨ b.expect = 0) then
    { b with phase := !b.phase, arrived := 0, opened := false, arrset := 0 }
  else b

/-- adjust (R328). -/
def Bar.adjust (b : Bar) (x : Int) : Bar :=
  if b.err then b
  else if b.pending + x < -(2 ^ 27) ∨ 2 ^ 27 - 1 < b.pending + x then { b with err := true }
  else ({ b with pending := b.pending + x } : Bar).check

/-- arrive, as R328's pseudocode has it; `members` is the size of crew CREW now, `ix` the team's index. A team that joined the crew during the
open phase is not in EXPECT; its arrival in that phase counts by the pseudocode (R99, log entry 184). -/
def Bar.arrive (b : Bar) (members ix : Nat) : Bar :=
  if b.err then b
  else
    let b1 := if b.opened then b
      else { b with opened := true, expect := if b.crewmode then members else b.expect, arrset := 0 }
    let b2 := if b1.crewmode then { b1 with arrset := b1.arrset ||| 1#32 <<< ix } else b1
    ({ b2 with arrived := b2.arrived + 1 } : Bar).check

/-- A member of CREW leaves or ends (R328). Where late joiners that leave have brought EXPECT to 0 already, it stays 0 (log entry 184). -/
def Bar.leave (b : Bar) (ix : Nat) : Bar :=
  if b.crewmode ∧ b.opened ∧ !b.arrset.getLsbD ix ∧ !b.err then ({ b with expect := b.expect - 1 } : Bar).check else b

/-- The barrier at a scratchpad offset. -/
def Shop.bar (x : Shop) (off : Nat) : Bar := Bar.ofNat (bytesNat (x.spad.read off 16))

/-- What a barrier's new value does to a wait on it (R329): sd is 0 for a completed phase and 1 for ERR. -/
def BarWait.see (w : BarWait) (off : Nat) (b : Bar) : BarWait :=
  if w.off = off ∧ w.ended = none then
    (if b.phase ≠ w.phase then { w with ended := some false } else if b.err then { w with ended := some true } else w)
  else w

/-- Write a barrier; the shop keeps the offsets of CREWMODE barriers with an open phase, and waits on it see the change. -/
def Shop.setBar (x : Shop) (off : Nat) (b : Bar) : Shop :=
  { x with spad := x.spad.write off (natBytes 16 b.toNat)
           crewBars := (x.crewBars.filter fun o => o ≠ off) ++ (if b.crewmode && b.opened then [off] else [])
           barWait := x.barWait.map fun w => w.see off b }

/-- Bits of a barrier that belong to no field: what software has left in the zero fields (R326). -/
def Bar.extra (x : Nat) : Nat := x - (Bar.ofNat x).toNat

/-- Write a barrier's fields and leave the rest of its 16 bytes as they are (R313). -/
def Shop.keepBar (x : Shop) (off : Nat) (b : Bar) : Shop :=
  let extra := Bar.extra (bytesNat (x.spad.read off 16))
  let y := x.setBar off b
  if extra = 0 then y else { y with spad := y.spad.write off (natBytes 16 (b.toNat + extra)) }

/-- How a team's wait at a barrier has ended, by what it has seen or by the barrier as it stands. -/
def Shop.barEnded (x : Shop) (team : Nat) : Option Bool :=
  match x.barWait.find? fun w => w.team = team with
  | none => none
  | some w => (w.see w.off (x.bar w.off)).ended

/-- A team's wait at a barrier begins. -/
def Shop.barBegin (x : Shop) (team off : Nat) (phase : Bool) : Shop :=
  { x with barWait := x.barWait ++ [⟨team, off, phase, none⟩] }

/-- A team's wait at a barrier is over. -/
def Shop.barDone (x : Shop) (team : Nat) : Shop := { x with barWait := x.barWait.filter fun w => w.team ≠ team }

/-- Members of a crew: teams of the shop that have not ended and have its bit (R98). -/
def State.crewSize (s : State) (shop crew : Nat) : Nat :=
  ((s.teamsOf shop).filter fun n => match s.team? n with
    | some t => !t.ended && t.crews.getLsbD crew
    | none => false).length

/-- Every open CREWMODE barrier of a crew sees a member leave (R99, R328); as with a completion, the zero fields play no part. -/
def Shop.crewLeave (x : Shop) (crew ix : Nat) : Shop :=
  x.crewBars.foldl (fun (y : Shop) off =>
    let b := y.bar off
    if b.crewmode ∧ b.crew = crew then y.keepBar off (b.leave ix) else y) x

/-- A copy completion of `n` bytes at a barrier, or its failure when `n` is none (R313, R328). -/
def Shop.complete (x : Shop) (off : Nat) (n : Option Nat) : Shop :=
  match n with
  | some k => x.keepBar off ((x.bar off).adjust (-(k : Int)))
  | none => x.keepBar off { x.bar off with err := true }

end Sys2Proof.Machine
end

