-- ==== Sys2Proof/Machine/Mmio.lean ====
section
/-!
DEFINITION. The MMIO window (R395, R396, R403, R130): reads and writes of its registers, with the effects of DEVID (R402),
FBAND (R397), EXPSET and DRAIN (R133).
-/

namespace Sys2Proof.Machine

/-- A function's registers. -/
def State.func (s : State) (f : Nat) : Func := (Sparse.look s.funcs f).getD Func.zero

/-- Change a function's registers. -/
def State.updFunc (s : State) (f : Nat) (g : Func → Func) : State :=
  { s with funcs := Sparse.insert s.funcs f (g (s.func f)) }

/-- The four words of a vector's entry in a function's MSI-X table (R394). -/
def Func.msixEntry (f : Func) (vec : Nat) : List W32 := (List.range 4).map fun k => Sparse.get 0 f.msix (4 * vec + k)

/-- A function raises an MSI-X vector: the message carries the entry that its table holds. -/
def State.interrupt (s : State) (fn vec : Nat) : State := { s with out := .msix fn vec ((s.func fn).msixEntry vec) :: s.out }

/-- Some Brim port can carry a packet: DEVID is written, and a port is up (R352, R402). -/
def State.portsOpen (s : State) : Bool := s.devSet && decide (s.portdn ≠ BitVec.ofNat 18 (2 ^ 18 - 1))

/-- Instances in the ready pool (R130). -/
def State.readyN (s : State) : Nat :=
  (s.ready.map fun r => match r.shop with
    | some _ => 1
    | none => match r.launch.bind (Sparse.look s.launches) with
      | some l => match l.nodes[r.node]? with
        | some nd => nd.inst - nd.dispatched
        | none => 0
      | none => 0).sum

/-- Node-table entries that live launches of a function hold; of every function when `f` is none (R118, R130). -/
def State.nodesUsed (s : State) (f : Option Nat) : Nat :=
  (s.launches.map fun e => if e.2.done || (f.isSome && f ≠ some e.2.fn) then 0 else e.2.nodes.length).sum

/-- GPOOL (R130). -/
def State.gpool (s : State) : W64 :=
  BitVec.ofNat 64 (min 0xFFFF s.readyN * 2 ^ 48 + (65535 - s.nodesUsed none) % 2 ^ 16 * 2 ^ 32 + s.starve.toNat)

/-- Word `i` of a wide register kept as one number. -/
def wideWord (x i : Nat) : W64 := BitVec.ofNat 64 (x / 2 ^ (64 * i))

/-- 64 bits of a bit set by number. -/
def bitsAt (m : Sparse Bool) (k : Nat) : W64 :=
  BitVec.ofNat 64 (joinElems 1 (fun j => if Sparse.get false m (64 * k + j) then 1 else 0) 64)

/-- A register of a limit block (R396). -/
def Func.limitReg (f : Func) (o : Nat) : Option W64 :=
  match o with
  | 0x00 => some (f.band.setWidth 64)
  | 0x08 => some f.part
  | 0x10 => some (f.limit.setWidth 64)
  | 0x18 => some (f.policy.setWidth 64)
  | 0x20 => some f.privWin
  | 0x28 => some f.privLen
  | 0x30 => some f.ctxWin
  | 0x38 => some f.ctxLen
  | 0x40 => some (wideWord f.deleg.toNat 0)
  | 0x48 => some (wideWord f.deleg.toNat 1)
  | 0x50 => some (wideWord f.deleg.toNat 2)
  | 0x58 => some (wideWord f.deleg.toNat 3)
  | 0x60 => some f.rootTab
  | _ => none

/-- Word `i` of a 256-bit register replaced. -/
def setWide (x : BitVec 256) (i : Nat) (v : W64) : BitVec 256 :=
  BitVec.ofNat 256 (x.toNat - x.toNat / 2 ^ (64 * i) % 2 ^ 64 * 2 ^ (64 * i) + v.toNat * 2 ^ (64 * i))

/-- Bits [hi..lo] of a word, the others zero. -/
def keepBits (v : W64) (hi lo : Nat) : W64 := BitVec.ofNat 64 (v.toNat / 2 ^ lo * 2 ^ lo % 2 ^ (hi + 1))

/-- A register of a limit block written, FBAND excepted (R396). FPART [19..0] are MBZ and keep what is written (log entry 190). -/
def Func.setLimitReg (f : Func) (o : Nat) (v : W64) : Func :=
  match o with
  | 0x08 => { f with part := v }
  | 0x10 => { f with limit := v.setWidth 32 }
  | 0x18 => { f with policy := v.setWidth 2 }
  | 0x20 => { f with privWin := keepBits v 56 12 }
  | 0x28 => { f with privLen := v }
  | 0x30 => { f with ctxWin := keepBits v 56 12 }
  | 0x38 => { f with ctxLen := v }
  | 0x40 => { f with deleg := setWide f.deleg 0 v }
  | 0x48 => { f with deleg := setWide f.deleg 1 v }
  | 0x50 => { f with deleg := setWide f.deleg 2 v }
  | 0x58 => { f with deleg := setWide f.deleg 3 v }
  | 0x60 => { f with rootTab := keepBits v 56 8 }
  | _ => f

/-- The 64-bit register at an MMIO offset that is a multiple of 8; none where the map names no register. -/
def State.mmioGet (s : State) (o : Nat) : Option W64 :=
  if 0x1000 ≤ o ∧ o < 0x1800 then some (bitsAt s.expset ((o - 0x1000) / 8))
  else if 0x2000 ≤ o ∧ o < 0x2200 then some (Sparse.get 0 s.hwin ((o - 0x2000) / 8))
  else if 0x10000 ≤ o ∧ o < 0x50000 then (s.func ((o - 0x10000) / 0x1000)).limitReg ((o - 0x10000) % 0x1000)
  else if 0x100000 ≤ o ∧ o < 0x102000 then
    (if o % 32 < 16 then some (Sparse.get 0 s.rings ((o - 0x100000) / 32 * 2 + o % 32 / 8)) else none)
  else match o with
    | 0x00 => some (s.devId.setWidth 64)
    | 0x08 => some (BitVec.ofNat 64 hbmTop)
    | 0x10 => some s.gpool
    | 0x18 => some (s.fabto.setWidth 64)
    | 0x20 => some (s.lehrto.setWidth 64)
    | 0x28 => some (s.disten.setWidth 64)
    | 0x30 => some (s.portdn.setWidth 64)
    | 0x38 => some (s.hbmunp.setWidth 64)
    | 0x40 => some (s.drain.setWidth 64)
    | 0x48 => some s.errlog
    | 0x50 => some (s.cecnt.setWidth 64)
    | 0x58 => some (s.pwrlim.setWidth 64)
    | _ => none

/-- A capability whose device fields move from 0 to a new id: the address, and the target of a sealed one (R402). -/
def Cap.rewriteDev (id : BitVec 14) (c : Cap) : Cap :=
  if c.tag then
    { c with base := if c.dev = 0 then BitVec.ofNat 53 (c.base.toNat % 2 ^ 39 + id.toNat * 2 ^ 39) else c.base
             aux := if c.kind = kSealed ∧ c.target = 0 then BitVec.ofNat 25 (c.aux.toNat + id.toNat * 2 ^ 7) else c.aux }
  else c

/-- A write of DEVID (R395, R402): once, and not after a function has been enabled. -/
def State.writeDevId (s : State) (id : BitVec 14) : State :=
  if s.devSet || s.everEnabled then s
  else { s.mapCaps (Cap.rewriteDev id) with devId := id, devSet := true }

/-- Whether a launch of a function is live. -/
def State.launchLive (s : State) (f : Nat) : Bool := s.launches.any fun e => e.2.fn = f && !e.2.done

/-- Whether bring-up has failed. -/
def Boot.isFailed : Boot → Bool
  | .failed _ => true
  | _ => false

/-- A write of FBAND, ignored while another enabled function holds the band or a launch of the function is live (R397); 255 is no band
of a function (R396), and after a failed bring-up the device enables none (R401). -/
def State.writeFband (s : State) (f : Nat) (b : BitVec 8) : State :=
  if b = 255 || s.launchLive f || (b ≠ 0 && s.funcs.any fun e => e.1 ≠ f && e.2.band = b) || (b ≠ 0 && s.boot.isFailed) then s
  else { (s.updFunc f fun x => { x with band := b }) with everEnabled := s.everEnabled || b ≠ 0 }

/-- A write to 64 bits of EXPSET: each 1 clears its bit (R395). -/
def State.clearExports (s : State) (k : Nat) (v : W64) : State :=
  { s with expset := s.expset.filter fun e => !(decide (e.1 / 64 = k) && v.getLsbD (e.1 % 64)) }

/-- Whether a shop resides on a core. -/
def State.occupied (s : State) (core : Nat) : Bool := s.shops.any fun e => e.2.core = core && e.2.resident

/-- A write of DRAIN orders the drain of a core (R133); a core without a resident shop has nothing to move. -/
def State.orderDrain (s : State) (core : BitVec 16) : State :=
  { s with drain := core
           draining := if s.draining.contains core.toNat || !s.occupied core.toNat then s.draining else s.draining ++ [core.toNat] }

/-- The register at an MMIO offset written with 64 bits; `part` tells which bytes the access wrote, for registers that act
on a write. Read-only fields ignore writes. -/
def State.mmioSet (s : State) (o : Nat) (v : W64) (low : Bool) : State :=
  if 0x2000 ≤ o ∧ o < 0x2200 then
    { s with hwin := Sparse.set 0 s.hwin ((o - 0x2000) / 8) (keepBits v 63 30 ||| keepBits v 0 0) }
  else if 0x10000 ≤ o ∧ o < 0x50000 then
    (if (o - 0x10000) % 0x1000 = 0 then (if low then s.writeFband ((o - 0x10000) / 0x1000) (v.setWidth 8) else s)
     else s.updFunc ((o - 0x10000) / 0x1000) fun x => x.setLimitReg ((o - 0x10000) % 0x1000) v)
  else if 0x100000 ≤ o ∧ o < 0x102000 then
    (if o % 32 = 0 then
       { s with rings := Sparse.set 0 s.rings ((o - 0x100000) / 32 * 2) (keepBits v 63 63 ||| keepBits v 31 16 ||| keepBits v 7 0) }
     else if o % 32 = 8 then { s with rings := Sparse.set 0 s.rings ((o - 0x100000) / 32 * 2 + 1) (keepBits v 56 7) }
     else s)
  else match o with
    | 0x00 => if low then s.writeDevId (v.setWidth 14) else s
    | 0x10 => { s with starve := v.setWidth 16 }
    | 0x18 => { s with fabto := v.setWidth 16 }
    | 0x20 => { s with lehrto := v.setWidth 16 }
    | 0x28 => { s with disten := v.setWidth 2 }
    | 0x40 => if low then s.orderDrain (v.setWidth 16) else s
    | 0x48 => if v = 0 then { s with errlog := 0 } else s
    | 0x50 => if v.setWidth 32 = 0#32 then { s with cecnt := 0 } else s
    | 0x58 => if 1200 ≤ (v.setWidth 12).toNat ∧ (v.setWidth 12).toNat ≤ 2600 ∧ low then { s with pwrlim := v.setWidth 12 } else s
    | _ => s

/-- A read of 4 or 8 aligned bytes of the MMIO window; none where no register lies (R136). -/
def State.mmioRead (s : State) (off n : Nat) : Option Nat :=
  (s.mmioGet (off / 8 * 8)).map fun v => v.toNat / 2 ^ (8 * (off % 8)) % 2 ^ (8 * n)

/-- A write of 4 or 8 aligned bytes of the MMIO window: four bytes replace their half of the register, and clear only
their half of EXPSET. -/
def State.mmioWrite (s : State) (off n x : Nat) : State :=
  let o := off / 8 * 8
  let lo := 8 * (off % 8)
  if 0x1000 ≤ o ∧ o < 0x1800 then s.clearExports ((o - 0x1000) / 8) (BitVec.ofNat 64 (x % 2 ^ (8 * n) * 2 ^ lo))
  else
    let old := ((s.mmioGet o).getD 0).toNat
    let new := old - old / 2 ^ lo % 2 ^ (8 * n) * 2 ^ lo + x % 2 ^ (8 * n) * 2 ^ lo
    s.mmioSet o (BitVec.ofNat 64 new) (off % 8 = 0)

end Sys2Proof.Machine
end

