-- ==== Sys2Proof/Machine/Check.lean ====
section
/-!
DEFINITION. The checks of a capability use: R65 for load-store units, with R144 for private capabilities, R136 for the MMIO
window and R70 for sealed ones; R165 for scopes; R56 and R64 for the tag of a stored capability.
-/

namespace Sys2Proof.Machine

/-- What an operation asks of its capability. -/
structure Use where
  /-- The KINDs that accept it (R52); for a sealed capability with a remote address, its inner KIND. -/
  kinds : List (BitVec 4)
  /-- It accepts sealed capabilities (R70). -/
  sealedOk : Bool
  /-- The permissions it needs (R53). -/
  perm : BitVec 12
  /-- It is a load, capability load, fetch or derivation, which passes BAND 255 (R55). -/
  reads : Bool
  /-- It writes, so CW refuses it (R72). -/
  writes : Bool
deriving DecidableEq, Repr

/-- A load by these KINDs. -/
def Use.load (kinds : List (BitVec 4)) : Use := ⟨kinds, true, pLD, true, false⟩

/-- A store. -/
def Use.store (kinds : List (BitVec 4)) : Use := ⟨kinds, true, pST, false, true⟩

/-- An atomic (R298). -/
def Use.atomic (kinds : List (BitVec 4)) : Use := ⟨kinds, true, pLD ||| pST ||| pAT, false, true⟩

/-- A derivation, of every KIND but null and sealed (R286). -/
def Use.derive : Use := ⟨[kData, kCode, kCommand, kLayout, kGroup, kLocal, kPrivate], false, pDERIVE, true, false⟩

/-- Whether the KIND designates memory by a device address (R74). -/
def isGlobal (k : BitVec 4) : Bool := k = kData || k = kCode || k = kCommand || k = kLayout || k = kGroup

/-- The class SY of a capability's ORD. -/
def Cap.isSy (c : Cap) : Bool := c.ord = 3

/-- The classes SO and SY, which R161 orders. -/
def Cap.isSo (c : Cap) : Bool := c.ord = 2 || c.ord = 3

/-- The pass number of the first quarantine entry that affects a capability (R74, R181). -/
def State.quarHit (s : State) (c : Cap) : Option Nat := (s.quar.find? fun q => c.affected q.base q.top).map QuarEntry.pass

/-- Whether a moving tag is lost: the capability is affected by a quarantine entry, or by a remote range of its device
(R63, R79). -/
def State.struck (s : State) (c : Cap) : Bool :=
  (s.quarHit c).isSome || s.remoteRanges.any fun r => decide (r.owner = c.dev) && c.affected r.base r.top

/-- A capability after a move through a load-store unit, engine, sync engine or port (R63). -/
def State.moved (s : State) (c : Cap) : Cap := if s.struck c then { c with tag := false } else c

/-- A failed check: fault, step number, FAUX. -/
structure Failed where
  /-- The fault. -/
  code : FaultCode
  /-- Step of R65. -/
  step : Nat
  /-- FAUX. -/
  aux : Nat
deriving DecidableEq, Repr

/-- Steps 1 to 6 of R65; `mmio` says that the access lies in the MMIO window (R136). None when all pass. -/
def State.capFails (s : State) (band : BitVec 8) (u : Use) (c : Cap) (mmio : Bool) : Option Failed :=
  let own := s.devId.toNat
  let remote : Bool := c.dev ≠ own
  if !c.tag then some ⟨.tag, 1, 0⟩
  else if c.kind = kSealed ∧ (!u.sealedOk ∨ (remote ∧ c.inner ∉ u.kinds)) then some ⟨.kind, 2, 0⟩
  else if c.kind ≠ kSealed ∧ c.kind ∉ u.kinds then some ⟨.kind, 2, 0⟩
  else if (c.kind = kSealed ∧ !remote) ∨ (isGlobal c.kind ∧ remote) then
    some ⟨if remote ∧ !s.devSet then .remoteAbsent else .sealed, if remote ∧ !s.devSet then 0 else 3, 0⟩
  else if band ≠ 0 ∧ c.band ≠ band ∧ !(c.band = 255 ∧ u.reads) then
    some ⟨if c.band = 255 ∧ (u.writes ∨ u.perm &&& pGO ≠ 0) then .perm else .band, 4, 0⟩
  else if !c.has u.perm ∨ (mmio ∧ band ≠ 0) then some ⟨.perm, 5, 0⟩
  else if c.kind = kSealed then none
  else (s.quarHit c).map fun n => ⟨.quarantine, 6, n⟩

/-- The failed check of a use that is no access: before DEVID is written too, an address on another device is SEALED, since
R402 excepts accesses only. -/
def Failed.noAccess (f : Failed) : Failed := if f.code = .remoteAbsent then ⟨.sealed, 3, 0⟩ else f

/-- The fault of a failed check, with the operand it concerns (R181). -/
def Failed.trap (f : Failed) (lane src creg off addr : Nat) : Trap :=
  ⟨f.code, lane, f.step, src, creg, false, off, addr, f.aux⟩

/-- A device address, 57 bits. -/
def wrapAddr (a : Nat) : Nat := a % 2 ^ 57

/-- Where a per-lane private access of `n` bytes at offset `o` lies, when it passes the per-lane limit: the address of the
first byte (R144). -/
def privAddr (base plim lanes lane o n : Nat) : Option Nat :=
  if n = 16 then (if 4 * (o / 16) + 3 < plim then some (base + 16 * (o / 16 * lanes + lane)) else none)
  else if (o + n - 1) / 4 < plim then some (base + 4 * (o / 4 * lanes + lane) + o % 4) else none

/-- Whether an address lies in the MMIO window, with the size rule of R136. -/
def inMmio (a : Nat) : Bool := decide (mmioBase ≤ localOf a) && decide (localOf a < mmioBase + 0x10000000)

/-- Whether an address lies in the MMIO window or the host window of its device, whose accesses are SO whatever ORD holds (R136, R154,
R160). -/
def soWindow (a : Nat) : Bool := inMmio a || (decide (hostBase ≤ localOf a) && decide (localOf a < hostBase + 0x1000000000))

/-- Where an access that passes its checks is performed (R144, R278): a private access of 8 bytes is two words. -/
def Ctx.site (x : Ctx) (c : Cap) (lane off size : Nat) : Place :=
  if c.kind = kPrivate then
    match privAddr c.addr (c.len / (4 * x.sh.lanes)) x.sh.lanes lane off size with
    | none => .nowhere
    | some a => if size = 8 then .split (localOf a) (localOf a + 4 * x.sh.lanes) else .home (localOf a)
  else if c.kind = kSealed then .remote 0
  else if c.kind = kLocal then .spad (shopOf x.n) (localOf c.addr + off)
  else .home (localOf (wrapAddr (c.addr + off)))

/-- The device address of an access, as the fault record gives it. -/
def Ctx.siteAddr (x : Ctx) (c : Cap) (lane off size : Nat) : Nat :=
  if c.kind = kPrivate then
    wrapAddr ((privAddr c.addr (c.len / (4 * x.sh.lanes)) x.sh.lanes lane off size).getD (c.addr + off))
  else wrapAddr (c.addr + off)

/-- The check of one access by R65, with the place where it is performed: `lane` and the operand for the fault record,
offset, size and alignment. -/
def Ctx.place (x : Ctx) (s : State) (u : Use) (c : Cap) (lane src creg off size align : Nat) : Except Trap (Place × Nat) :=
  let addr := wrapAddr (c.addr + off)
  let mm := isGlobal c.kind && inMmio addr
  let fail (code : FaultCode) (step a : Nat) : Except Trap (Place × Nat) := .error (Failed.trap ⟨code, step, 0⟩ lane src creg off a)
  match s.capFails x.sh.band u c mm with
  | some f => .error (f.trap lane src creg off addr)
  | none =>
    if c.kind = kPrivate then
      match privAddr c.addr (c.len / (4 * x.sh.lanes)) x.sh.lanes lane off size with
      | none => fail .stackLimit 7 addr
      | some a =>
        if off % align ≠ 0 then fail .align 8 (wrapAddr a) else .ok (x.site c lane off size, wrapAddr a)
    else if c.len < off + size then fail .bounds 7 addr
    else if off % align ≠ 0 ∨ (mm ∧ size ≠ 4 ∧ size ≠ 8) ∨ (mm ∧ localOf addr % size ≠ 0) then fail .align 8 addr
    else if u.writes ∧ c.has pCW ∧ (c.kind = kData ∨ c.kind = kSealed) then fail .cow 9 addr
    else if c.kind = kSealed ∧ !s.devSet then fail .remoteAbsent 0 addr
    else .ok (x.site c lane off size, addr)

/-- The scope check of R165: P and H need the function's POLICY, and band 0 is never denied. It is made when the word issues: a
word that its team waits in is not checked again. -/
def Ctx.needScope (x : Ctx) (s : State) (scope : BitVec 6) : Except Trap Unit :=
  let p := (s.func x.sh.fn).policy
  if x.t.wait = .none ∧ x.sh.band ≠ 0 ∧ ((scope.getLsbD 1 ∧ !p.getLsbD 1) ∨ (scope.getLsbD 0 ∧ !p.getLsbD 0)) then .error (.plain .scope) else .ok ()

/-- Whether a value stored through `d` keeps its tag (R56, R62, R64): `own` says that the destination is one where local
and private capabilities keep theirs. -/
def keepsTag (band : BitVec 8) (v d : Cap) (own : Bool) : Except FaultCode Bool :=
  if !v.tag || !d.has pSTC || ((v.kind = kLocal || v.kind = kPrivate) && !own) then .ok false
  else if band ≠ 0 ∧ v.kind ≠ kSealed ∧ v.band ≠ d.band then .error .band
  else .ok true

end Sys2Proof.Machine
end

