-- ==== Sys2Proof/WellFormed.lean ====
section
/-!
DEFINITION. The checks on an instruction that the word alone decides beyond its must-be-zero bits: values that a
description marks reserved, a write to k0, an odd register pair of `se` (R84, R204, R262). An instruction that fails one
raises ILLEGAL_FIELD at decode.
-/

namespace Sys2Proof

/-- The register number is even (se, R262). -/
def evenReg (b : BitVec 6) : Bool := b.toNat % 2 = 0

/-- A mask destination that is not k0 (R84). -/
def notK0 (d : BitVec 3) : Bool := d ≠ 0

/-- The quad register of a stream quad is a multiple of 4 (R223). -/
def quadReg (q : BitVec 8) : Bool := q.toNat % 4 = 0

/-- A system register number of RDSR (R273). -/
def sysReg (n : BitVec 8) : Bool := n.toNat ≤ 0x0C || (0x10 ≤ n.toNat && n.toNat ≤ 0x14)

/-- The operand forms that LDQ and STQ accept (R275): a c operand goes with a c capability and an s offset. -/
def quadForm (q m : CapRef) (o : BitVec 8) : Bool :=
  match q, m with
  | .c _, .c _ => o.toNat < 64
  | .c _, .quad _ => false
  | .quad _, _ => true

/-- Whether the word passes every check that it alone decides. -/
def WellFormed : Instr → Bool
  | .ill _ _ _ => false
  | .rep _ l => l ≠ 0
  | .loopb _ l => l ≠ 0 && l.toNat ≤ 64
  | .yieldc _ _ a b => evenReg a && evenReg b
  | .join n => n ≠ 0
  | .leave n => n ≠ 0
  | .rdsr _ n => sysReg n
  | .wrsr n _ _ => 0x10 ≤ n.toNat && n.toNat ≤ 0x14
  | .kand d _ _ => notK0 d
  | .kor d _ _ => notK0 d
  | .kxor d _ _ => notK0 d
  | .kandn d _ _ => notK0 d
  | .knot d _ _ => notK0 d
  | .kmov d _ _ => notK0 d
  | .ksplit d _ _ => notK0 d
  | .cmp c d _ _ => c.toNat < 6 && notK0 d
  | .cmpLit c d _ _ _ => c.toNat < 6 && notK0 d
  | .fcmp _ d _ _ => notK0 d
  | .voteAny d _ _ => notK0 d
  | .voteAll d _ _ => notK0 d
  | .scmp x _ y _ _ => x.toNat * 4 + y.toNat < 10
  | .scmpLit x _ y _ _ _ => x.toNat * 4 + y.toNat < 10
  | .bsini q _ _ => quadReg q
  | .bsrd d q _ => quadReg q && d.toNat / 4 ≠ q.toNat / 4
  | .bspk _ q _ => quadReg q
  | .bssk q _ _ => quadReg q
  | .bsld q _ _ => quadReg q
  | .bspos _ q _ => quadReg q
  | .ldq q m o => quadForm q m o
  | .stq q m o => quadForm q m o
  | .pbound _ _ b => evenReg b
  | .pboundv q _ _ => quadReg q
  | .pinfo _ _ f => f.toNat ≤ 10
  | .pmov (.c _) (.quad _) _ => false
  | .deleg _ _ b => evenReg b
  | .atom p _ _ _ _ => p.toNat < 10
  | .atomu p _ _ _ _ => p.toNat < 10
  | .red p _ _ _ _ => p.toNat < 10 && p ≠ 7 && p ≠ 8
  | .fence m s => m = 0 || s = 0
  | .bari _ b => evenReg b
  | .barx _ b => evenReg b
  | .barw _ _ b => evenReg b
  | .qdef _ b => evenReg b
  | .qtry d _ _ => evenReg d
  | .qgrant _ _ b => evenReg b
  | .mloadb _ _ b => evenReg b
  | .mma _ _ _ b => evenReg b
  | .mmas _ _ _ b => evenReg b
  | .mepi _ _ _ b => evenReg b
  | .mpub _ _ b => b.toNat % 4 = 0
  | .msub _ _ w => 1 ≤ w.toNat && w.toNat ≤ 8
  | .mstat _ s => s.toNat < 16 || s.toNat = 0x80
  | .grpq _ _ s => s.toNat ≤ 0x90 || s.toNat = 0xFF
  | _ => true

end Sys2Proof
end

