-- ==== Sys2Proof/Machine/Ops.lean ====
section
/-!
DEFINITION. The shared operations of every word: taking a fault and returning from one (R178 to R191), the end of a team
(R111) and of a node (R128, R185, R188, R408), the advance of PC with loops (R197, R266, R267), and the frame in which a
word issues. Performing accesses (R178, R277, R353 to R355) is here as well.
-/

namespace Sys2Proof.Machine

/-! ### The error record and the end of a node -/

/-- What the error record says of the event that ended a node (R408). -/
structure NodeEnd where
  /-- CAUSE. -/
  cause : Nat
  /-- FCODE. -/
  code : Nat
  /-- FPC. -/
  fpc : Nat
  /-- WORD. -/
  word : Nat
  /-- LANE. -/
  lane : Nat
  /-- FADDR. -/
  faddr : Nat
  /-- FAUX. -/
  faux : Nat
  /-- USER. -/
  user : Nat
  /-- TEAMIX. -/
  team : Nat
deriving DecidableEq, Repr

/-- Root `i` of a function: the granule at ROOTTAB (R398). -/
def State.root (s : State) (fn i : Nat) : Cap :=
  let a := localOf ((s.func fn).rootTab.toNat + 16 * i)
  if a < hbmTop then s.mem.readCap a else .null

/-- The 64 bytes of an error record as a number (R188). -/
def errorBits (lstat seq fpc faddr faux node inst word user core lane code team cause : Nat) : Nat :=
  seq * 2 ^ 448 + fpc % 2 ^ 64 * 2 ^ 384 + faddr % 2 ^ 64 * 2 ^ 320 + faux % 2 ^ 64 * 2 ^ 256 + node % 2 ^ 32 * 2 ^ 224 +
    inst % 2 ^ 32 * 2 ^ 192 + word % 2 ^ 32 * 2 ^ 160 + user % 2 ^ 32 * 2 ^ 128 + core % 2 ^ 16 * 2 ^ 112 + lane % 2 ^ 10 * 2 ^ 102 +
    code % 2 ^ 8 * 2 ^ 88 + lstat % 2 ^ 8 * 2 ^ 80 + team % 2 ^ 8 * 2 ^ 72 + cause % 2 ^ 8 * 2 ^ 64 + 1

/-- Local address of a queue's error record: QERR in root 0 (R188). -/
def State.recordAt (s : State) (fn q : Nat) : Nat :=
  localOf ((s.root fn 0).addr + ((Sparse.look (s.func fn).queues q).getD LQueue.zero).err.toNat)

/-- Whether the error record of a queue can be written now: in the host window its halves have to be owned (R155). -/
def State.recordReady (s : State) (fn q : Nat) : Bool :=
  match s.region (s.recordAt fn q) with
  | .host o => s.halvesReady o 64 true
  | _ => true

/-- Write a queue's error record; when VALID is 1 already, only OVF rises (R188). -/
def State.putErrorRecord (s : State) (fn q : Nat) (bits : Nat) : State :=
  let a := s.recordAt fn q
  let old := bytesNat (s.readAt a 64)
  if old % 2 = 1 then
    let ovf := old / 2 ^ 48 % 2 ^ 16
    s.writeAt (a + 6) (natBytes 2 (min 0xFFFF (ovf + 1)))
  else s.writeAt a (natBytes 64 bits)

/-- Write a queue's error record, now or once its halves are owned (R155, R188). -/
def State.writeErrorRecord (s : State) (fn q : Nat) (bits : Nat) : State :=
  if s.recordReady fn q then s.putErrorRecord fn q bits else { s with records := s.records ++ [(fn, q, bits)] }

/-- The error records that wait are written where they can be. -/
def State.flushRecords (s : State) : State :=
  s.records.foldl (fun (a : State) r => a.writeErrorRecord r.1 r.2.1 r.2.2) { s with records := [] }

/-- Write the error record of the launch of a shop, when its launch came from a queue (R185, R408). -/
def State.recordNodeEnd (s : State) (x : Shop) (e : NodeEnd) : State :=
  match x.launch with
  | none => s
  | some ln => match Sparse.look s.launches ln with
    | some l => match l.queue with
      | some q => s.writeErrorRecord l.fn q
          (errorBits 11 l.seq e.fpc e.faddr e.faux x.node x.inst e.word e.user x.core e.lane e.code e.team e.cause)
      | none => s
    | none => s

/-- Stop every team of a shop (R128). -/
def State.stopTeams (s : State) (shop : Nat) : State :=
  { s with teams := s.teams.map fun e => if shopOf e.1 = shop then (e.1, { e.2 with ended := true }) else e }

/-- A list with one element changed. -/
def updNth {α : Type} (f : α → α) : List α → Nat → List α
  | [], _ => []
  | x :: xs, 0 => f x :: xs
  | x :: xs, n + 1 => x :: updNth f xs n

/-- Mark a node of a launch failed and drop what of it stands in the ready pool (R128). -/
def State.markFailed (s : State) (ln node : Nat) : State :=
  match Sparse.look s.launches ln with
  | none => s
  | some l =>
    { s with launches := Sparse.insert s.launches ln { l with failed := true, nodes := updNth (fun n => { n with failed := true }) l.nodes node }
             ready := s.ready.filter fun r => !(r.launch = some ln && r.node = node) }

/-- A node ends with a failure at a shop (R128, R185): the error record is written, every team of every instance stops,
instances not dispatched are dropped, and saved shops of it are discarded. The boot team's failure ends bring-up when no
function has been enabled (R401). -/
def State.failNode (s : State) (shop : Nat) (e : NodeEnd) : State :=
  match s.shop? shop with
  | none => s
  | some x =>
    let s1 := s.recordNodeEnd x e
    match x.launch with
    | none =>
      let s2 := (s1.updShop shop fun y => { y with phase := if y.resident then .failed else .discarded }).stopTeams shop
      { s2 with boot := if s2.everEnabled then s2.boot else .failed 2 }
    | some ln =>
      let same := fun (y : Shop) => y.launch = some ln && y.node = x.node
      let s2 := s1.markFailed ln x.node
      let nums := (s2.shops.map Prod.fst).filter fun n => (s2.shop? n).any same
      nums.foldl (fun (a : State) n =>
        (a.updShop n fun y => { y with phase := if y.resident then .failed else .discarded }).stopTeams n) s2

/-! ### Faults -/

/-- The fault record in s56..s63 (R181). -/
def Team.writeRecord (t : Team) (e : Trap) (word : W32) (lit : Option W32) : Team :=
  let s56 := e.code.code.toNat * 2 ^ 56 + e.lane % 2 ^ 10 * 2 ^ 46 + e.step % 2 ^ 4 * 2 ^ 42 + e.src % 4 * 2 ^ 40 + e.creg % 2 ^ 6 * 2 ^ 34 +
    e.port.toNat * 2 ^ 33 + lit.isSome.toNat * 2 ^ 32
  (((((((t.wrS 56 (BitVec.ofNat 64 s56)).wrS 57 t.pc).wrS 58 (BitVec.ofNat 64 ((lit.getD 0).toNat * 2 ^ 32 + word.toNat))).wrS 59
    (BitVec.ofNat 64 e.off)).wrS 60 (BitVec.ofNat 64 (wrapAddr e.addr))).wrS 61 (BitVec.ofNat 64 e.aux)).wrS 62
    (BitVec.ofNat 64 (t.dlleft.toNat * 2 ^ 32 + t.mode.toNat))).wrS 63 1

/-- Handler entry (R182). -/
def Team.enterHandler (t : Team) (handler : BitVec 32) (deadline : BitVec 16) (e : Trap) (word : W32) (lit : Option W32) : Team :=
  let t1 := t.writeRecord e word lit
  { t1 with shadow := t1.loop, loop := .none, mode := 0, dlleft := deadline, pc := handler.setWidth 64, inHandler := true,
            wait := .none, noBreak := false, yielded := false }

/-- What the error record says of a fault that no handler receives (R184, R408). -/
def Trap.nodeEnd (e : Trap) (n : Nat) (t : Team) (word : W32) : NodeEnd :=
  { cause := if e.code = .deadline then 1 else if t.inHandler then 3 else 0
    code := e.code.code.toNat, fpc := t.pc.toNat, word := word.toNat, lane := e.lane, faddr := wrapAddr e.addr, faux := e.aux
    user := 0, team := teamIx n }

/-- A word address: PC is always a multiple of 4 (R197). -/
def wordPc (p : W64) : W64 := p &&& ~~~3#64

/-- Take a fault at a word of team `n` (R178, R182, R184, R185): enter the handler, or end the node. A team that its failed
node has stopped only loses its wait (R128). -/
def State.takeFault (s : State) (n : Nat) (e : Trap) (word : W32) (lit : Option W32) : State :=
  match s.team? n, s.shop? (shopOf n) with
  | some t, some x =>
    let s1 := ({ s with cur := none, late := false } : State).updShop (shopOf n) fun y =>
      { y with qwait := y.qwait.filter fun w => w.2.2 ≠ n, barWait := y.barWait.filter fun w => w.team ≠ n }
    if t.ended then s1.setTeam n { t with wait := .none }
    else match x.handler with
    | some h =>
      if t.inHandler || e.code = .deadline then s1.failNode (shopOf n) (e.nodeEnd n t word)
      else s1.setTeam n (t.enterHandler h x.deadline e word lit)
    | none => s1.failNode (shopOf n) (e.nodeEnd n t word)
  | _, _ => s

/-- ERET inside a handler with a valid MODE in s62 (R183); PC is always a multiple of 4 (R197), so s57 [1..0] are dropped
(log entry 169). -/
def Team.leaveHandler (t : Team) (deadline : BitVec 16) : Team :=
  { t with mode := (t.rdS 62).setWidth 32, pc := wordPc (t.rdS 57), loop := t.shadow, shadow := .none, inHandler := false, dlleft := deadline,
           noBreak := true, yielded := false }

/-! ### The end of a team -/

/-- A team ends (R111, R98): it leaves every crew, and its private region is declared dead (R143). -/
def State.endTeam (s : State) (n : Nat) : State :=
  match s.team? n with
  | none => s
  | some t =>
    let s1 := s.setTeam n { t with ended := true, crews := 0, wait := .none, privLen := 0 }
    let left := (List.range 8).filter fun c => t.crews.getLsbD c
    let s2 := s1.updShop (shopOf n) fun x => left.foldl (fun (y : Shop) c => y.crewLeave c (teamIx n)) x
    let s3 := if t.privLen = 0 then s2 else s2.declareDead t.privBase t.privLen
    match s3.shop? (shopOf n) with
    | some x => if x.launch = none ∧ !s3.everEnabled then { s3 with boot := .failed 2 } else s3
    | none => s3

/-! ### The word and its surroundings -/

/-- Where a word leaves PC. -/
inductive Flow where
  /-- After the word. -/
  | next
  /-- At a target. -/
  | goto (pc : W64)
  /-- The word has set PC itself, waits, or its team has ended. -/
  | stay
deriving DecidableEq, Repr

/-- The LOOPB part of the end of a word, which sets PC: the condition is evaluated with MODE as it stands (R266). -/
def Team.lbEnd (t : Team) (lanes : Nat) (next : W64) : Team :=
  match t.loop.lb with
  | some b =>
    if b.stop = next then
      (if t.rdK b.k.toNat &&& t.exec lanes ≠ 0 then
        { t with pc := b.start, loop := { t.loop with lb := some { b with done := b.done + 1 } } }
       else { t with pc := next, loop := { t.loop with lb := none } })
    else { t with pc := next }
  | none => { t with pc := next }

/-- PC after a word whose next PC is `next`, with the active loops (R266). -/
def Team.loopEnd (t : Team) (lanes : Nat) (next : W64) : Team :=
  match t.loop.rep with
  | some r =>
    if r.stop = next then
      (if r.left = 1 then ({ t with loop := { t.loop with rep := none } } : Team).lbEnd lanes next
       else { t with pc := r.start, loop := { t.loop with rep := some { r with left := r.left - 1, done := r.done + 1 } } })
    else t.lbEnd lanes next
  | none => t.lbEnd lanes next

/-- Whether the place after a word is a pre-emption point: a YIELD, or a ROLE that switches (R102, R109, log entry 170). -/
def endsAtPoint : Instr → Bool
  | .yield _ _ => true
  | .role _ => true
  | _ => false

/-- The team after its word, by where the word leaves PC (R109, R197, R266). -/
def Team.advance (t : Team) (lanes : Nat) (i : Instr) : Flow → Team
  | .next => ({ t with noBreak := false, yielded := endsAtPoint i } : Team).loopEnd lanes (t.pc + BitVec.ofNat 64 i.size)
  | .goto p => ({ t with noBreak := false, yielded := endsAtPoint i } : Team).loopEnd lanes p
  | .stay => t

/-- End the issue of a word by team `n`. -/
def State.settle (s : State) (n : Nat) (lanes : Nat) (i : Instr) (f : Flow) : State :=
  let s1 := { s with cur := none, late := false }
  match f with
  | .stay => s1
  | f => s1.updTeam n fun t => t.advance lanes i f

/-- Whether a word is one that an active loop's body refuses (R267), at `pc` with the loop state `l`. -/
def loopRefuses (l : LoopState) (pc : W64) (i : Instr) : Bool :=
  let inRep : Bool := match l.rep with
    | some r => r.start.toNat ≤ pc.toNat && pc.toNat < r.stop.toNat
    | none => false
  let inLb : Bool := match l.lb with
    | some b => b.start.toNat ≤ pc.toNat && pc.toNat < b.stop.toNat
    | none => false
  let literalOut : Bool := (literalOf i).isSome &&
    ((inRep && match l.rep with
      | some r => r.stop.toNat ≤ pc.toNat + 4
      | none => false) ||
     (inLb && match l.lb with
      | some b => b.stop.toNat ≤ pc.toNat + 4
      | none => false))
  literalOut || match i with
    | .bra _ | .bany _ _ | .ball _ _ | .bnone _ _ | .brs _ _ | .brsZ _ _ | .jmp _ _ | .call _ _ | .ret _ _
    | .yieldc _ _ _ _ | .role _ | .loopb _ _ => inRep || inLb
    | .rep _ len => inRep || (inLb && (l.rep.isSome || match l.lb with
      | some b => b.stop.toNat < pc.toNat + 4 + 4 * len.toNat
      | none => false))
    | _ => false

/-- Whether the issuing core is a V-core (R8, R10). -/
def Shop.onV (x : Shop) : Bool := decide (192 ≤ x.core)

/-- The checks before any operand: ILLEGAL_OPCODE, ILLEGAL_FIELD of the word, and the words a loop body refuses (R10, R204,
R267). -/
def Ctx.decodeCheck (x : Ctx) (i : Instr) : Except Trap Unit :=
  match i with
  | .ill _ _ _ => .error (.plain .illegalOpcode)
  | _ =>
    if x.sh.onV && isMatrixOp (encodeNat i / 2 ^ 24) then .error (.plain .illegalOpcode)
    else if WellFormed i && !loopRefuses x.t.loop x.t.pc i then .ok () else .error (.plain .illegalField)

/-- Whether a word goes on with the wait its team is in: the blocking words of R109 are issued again when their wait can
end. -/
def Wait.resumedBy : Wait → Instr → Bool
  | .none, _ => true
  | .blocked j _, i => i = j
  | _, _ => false

/-- The effect of a word: its state after, and where it leaves PC; or its fault. -/
abbrev Effect := Except Trap (State × Flow)

/-- A word issues on the current team: the checks at decode, then its effect; a fault is taken as R182 states. -/
def wordStep (i : Instr) (body : Ctx → State → Effect) (s : State) : Host.Outcome State Fault Refusal :=
  match s.cur with
  | none => .fault .noTeam
  | some n =>
    match s.team? n, s.shop? (shopOf n) with
    | some t, some sh =>
      if t.ended || !t.wait.resumedBy i then .fault .notReady
      else
        let x : Ctx := ⟨n, t, sh⟩
        match (match x.decodeCheck i with
          | .ok () => body x s
          | .error e => .error e) with
        | .ok (s1, f) => .next (s1.settle n sh.lanes i f)
        | .error e => .next ((s.takeFault n e (BitVec.ofNat 32 (encodeNat i)) (literalOf i)))
    | _, _ => .fault .noTeam

/-- A blocking word that has to wait (R109). -/
def State.block (s : State) (x : Ctx) (i : Instr) (phase : Bool) : Effect :=
  .ok (s.setTeam x.n { x.t with wait := .blocked i phase }, .stay)

/-- The team of a blocking word that goes on. -/
def Ctx.awake (x : Ctx) : Team := { x.t with wait := .none }

/-- A word that changes nothing but its team. -/
def teamStep (i : Instr) (f : Ctx → Except Trap Team) (s : State) : Host.Outcome State Fault Refusal :=
  wordStep i (fun x s => match f x with
    | .ok t => .ok (s.setTeam x.n t, .next)
    | .error e => .error e) s

/-! ### Performing accesses -/

/-- What an access gives: bytes, a tag, poison. -/
structure AccRes where
  /-- Bytes read, or the old value of an atomic. -/
  data : List Byte
  /-- Tag of a granule read as a capability. -/
  tag : Bool
deriving DecidableEq, Repr

/-- The new value of an atomic (R297): operation, TYPE, old value, x, y. CAS that fails gives none. -/
def atomicNew (op : Nat) (ty : Ty) (old x y : Nat) : Option Nat :=
  let w := ty.width
  let le (a b : Nat) : Bool := intValue ty.signed w a ≤ intValue ty.signed w b
  match op with
  | 0 => some ((old + x) % 2 ^ w)
  | 1 => some (ty.flt.encode .rne 0 false (FVal.add .rne (ty.flt.decode old) (ty.flt.decode x)))
  | 2 => some (if le old x then old else x)
  | 3 => some (if le old x then x else old)
  | 4 => some (old &&& x)
  | 5 => some (old ||| x)
  | 6 => some (old ^^^ x)
  | 7 => some x
  | 8 => if old = x then some y else none
  | _ => some (if x ≤ old then 0 else old + 1)

/-- The bytes of `n` places of memory poisoned, as the address of the first poisoned granule. -/
def Mem.firstPoison (m : Mem) (a n : Nat) : Option Nat := ((granules a n).find? fun g => Sparse.get false m.poison g).map fun g => 16 * g

/-- An access to memory of one kind: the new memory and what it gives. -/
def Mem.access (m : Mem) (a size : Nat) : AccOp → Mem × AccRes
  | .read => (m, ⟨m.read a size, false⟩)
  | .write bs => (m.write a bs, ⟨[], false⟩)
  | .readCap => (m, ⟨m.read a 16, m.tagAt a⟩)
  | .writeCap c => (m.writeCap a c, ⟨[], false⟩)
  | .writePoison c => ((m.writeCap a c).poisonRange a 16, ⟨[], false⟩)
  | .atomic op ty x y =>
    let old := m.read a size
    match (Ty.ofCode ty).bind fun t => atomicNew op t (bytesNat old) x y with
    | some v => (m.write a (natBytes size v), ⟨old, false⟩)
    | none => (m, ⟨old, false⟩)

/-- Whether the access reads memory, so that poison meets it (R186). -/
def AccOp.reads : AccOp → Bool
  | .write _ => false
  | .writeCap _ => false
  | .writePoison _ => false
  | _ => true

/-- Whether the access may write. -/
def AccOp.mayWrite : AccOp → Bool
  | .read => false
  | .readCap => false
  | _ => true

/-- Whether an access writes with this result. -/
def AccOp.written : AccOp → Option (List Byte)
  | .write bs => some bs
  | .writeCap c => some (natBytes 16 c.toNat)
  | .writePoison c => some (natBytes 16 c.toNat)
  | _ => none

/-- Whether an access writes memory: a CAS whose comparison fails does not (R298). -/
def AccOp.writesAt (op : AccOp) (m : Mem) (a size : Nat) : Bool :=
  match op with
  | .atomic o ty x y => ((Ty.ofCode ty).bind fun t => atomicNew o t (bytesNat (m.read a size)) x y).isSome
  | op => op.mayWrite

/-- The bytes of the host window, from its held halves. -/
def State.hostRead (s : State) (off n : Nat) : List Byte := (List.range n).map fun j => s.hostByte (off + j)

/-- An access at a local address (R135, R136, R152, R155): an SY access puts its line in update mode (R149). -/
def State.accessHome (s : State) (a size : Nat) (op : AccOp) (sy : Bool) : State × AccRes :=
  match s.region a with
  | .hbm =>
    let r := s.mem.access a size op
    let live := if op.writesAt s.mem a size then markLive a size s.live else s.live
    ({ s with mem := r.1, live := live, updMode := if sy then Sparse.set false s.updMode (a / 128) true else s.updMode }, r.2)
  | .mmio off =>
    match op with
    | .read => match s.mmioRead off size with
      | some v => (s, ⟨natBytes size v, false⟩)
      | none => ({ s with fresh := s.fresh + 1 }, ⟨natBytes size (Config.freeWord s.fresh).toNat, false⟩)
    | .write bs => (s.mmioWrite off size (bytesNat bs), ⟨[], false⟩)
    | .atomic o ty x y =>
      let s1 := if (s.mmioRead off size).isSome then s else { s with fresh := s.fresh + 1 }
      let old := (s.mmioRead off size).getD ((Config.freeWord s.fresh).toNat % 2 ^ (8 * size))
      match (Ty.ofCode ty).bind fun t => atomicNew o t old x y with
      | some v => (s1.mmioWrite off size v, ⟨natBytes size old, false⟩)
      | none => (s1, ⟨natBytes size old, false⟩)
    | _ => (s, ⟨natBytes 16 0, false⟩)
  | .host off =>
    let old := s.hostRead off size
    match op with
    | .read => (s, ⟨old, false⟩)
    | .readCap => (s, ⟨old, false⟩)
    | .write bs => (s.hostWrite off bs, ⟨[], false⟩)
    | .writeCap c => (s.hostWrite off (natBytes 16 c.toNat), ⟨[], false⟩)
    | .writePoison c => ((s.hostWrite off (natBytes 16 c.toNat)).soilHost (granules off 16), ⟨[], false⟩)
    | .atomic o ty x y =>
      match (Ty.ofCode ty).bind fun t => atomicNew o t (bytesNat old) x y with
      | some v => (s.hostWrite off (natBytes size v), ⟨old, false⟩)
      | none => (s, ⟨old, false⟩)
  | .reserved => (s, ⟨natBytes size 0, false⟩)

/-- The lines of HBM under a range of an SY capability enter update mode (R149). -/
def State.markSy (s : State) (c : Cap) (off n : Nat) : State :=
  if c.isSy && isGlobal c.kind && n ≠ 0 then
    let a := localOf (wrapAddr (c.addr + off))
    { s with updMode := (List.range ((a + n - 1) / 128 - a / 128 + 1)).foldl (fun m j =>
        if s.region (128 * (a / 128 + j)) = .hbm then Sparse.set false m (a / 128 + j) true else m) s.updMode }
  else s

/-- The same for the rows (offset, bytes) of a command. -/
def State.markRows (s : State) (c : Cap) (rows : List (Nat × Nat)) : State := rows.foldl (fun (a : State) r => a.markSy c r.1 r.2) s

end Sys2Proof.Machine

namespace Sys2Proof

/-- An acceptance that carries bytes, untagged and clean. -/
def Answer.plain (data : List Byte) : Answer := ⟨0, 0, false, data, [], [], 0⟩

/-- A rejection or another report that carries no bytes: step and code. -/
def Answer.refusal (step : BitVec 4) (code : BitVec 8) (pass : Nat) : Answer := ⟨step, code, false, [], [], [], pass⟩

/-- No verdict (R356). -/
def Answer.missing : Answer := ⟨0, 0, true, [], [], [], 0⟩

/-- Whether a granule of an answer is poisoned. -/
def Answer.soiled (a : Answer) : Bool := a.poison.any id

end Sys2Proof

namespace Sys2Proof.Machine

/-- The part of a peer's answer that an access asked for: its bytes in the line, and the tag of its granule. -/
def answerRes (ans : Answer) (addr size : Nat) : AccRes :=
  ⟨(ans.data.drop (addr % 128)).take size, ans.tags.getD (addr % 128 / 16) false⟩

/-- An operation as its access is performed: the tag of a capability that is affected by then is not stored (R63). -/
def State.passing (s : State) : AccOp → AccOp
  | .writeCap c => .writeCap (s.moved c)
  | .writePoison c => .writePoison (s.moved c)
  | op => op

/-- Perform one access; an access at a peer gives what the peer answered. -/
def State.perform (s : State) (a : Access) : State × AccRes :=
  match a.place with
  | .home p => s.accessHome p a.size (s.passing a.op) a.cap.isSy
  | .split p q =>
    match a.op with
    | .write bs =>
      let s1 := (s.accessHome p 4 (.write (bs.take 4)) a.cap.isSy).1
      ((s1.accessHome q 4 (.write (bs.drop 4)) a.cap.isSy).1, ⟨[], false⟩)
    | _ =>
      let r1 := s.accessHome p 4 .read a.cap.isSy
      let r2 := r1.1.accessHome q 4 .read a.cap.isSy
      (r2.1, ⟨r1.2.data ++ r2.2.data, false⟩)
  | .spad shop off =>
    match s.shop? shop with
    | some x =>
      let r := x.spad.access off a.size (s.passing a.op)
      (if a.op.mayWrite then s.setShop shop { x with spad := r.1 } else s, r.2)
    | none => (s, ⟨[], false⟩)
  | .nowhere => (s, ⟨[], false⟩)
  | .remote seq => match (Sparse.look s.reqs seq).bind Request.answer with
    | some ans => (s, answerRes ans a.addr a.size)
    | none => (s, ⟨[], false⟩)

/-- Perform accesses in the order of the list, which for the lanes of one atomic word is the model's choice (R298, log entry 180); each
with what it gave. -/
def State.performAll (s : State) : List Access → State × List (Access × AccRes)
  | [] => (s, [])
  | a :: as =>
    let r := s.perform a
    let rest := r.1.performAll as
    (rest.1, (a, r.2) :: rest.2)

/-- The first poisoned granule of [p, p + n), by its local address (R186, R405); reserved ranges return poison (R136). -/
def State.poisonAt (s : State) (p n : Nat) : Option Nat :=
  match s.region p with
  | .hbm => s.mem.firstPoison p n
  | .host off => (s.hostPoison off n).map fun o => hostBase + o
  | .reserved => some (p / 16 * 16)
  | .mmio _ => none

/-- Where an access meets poison (R186): the address reported in FAUX. -/
def State.poisonOf (s : State) (a : Access) : Option Nat :=
  if !a.op.reads then none
  else match a.place with
    | .home p => s.poisonAt p a.size
    | .split p q => (s.mem.firstPoison p 4).orElse fun _ => s.mem.firstPoison q 4
    | .spad shop off => (s.spad shop).firstPoison off a.size
    | _ => none

/-- The first granule that an access at a peer touches and whose answer is poisoned, by its address (R186, R355). -/
def answerPoison (ans : Answer) (addr size : Nat) : Option Nat :=
  ((granules (addr % 128) size).find? fun g => ans.poison.getD g false).map fun g => addr / 128 * 128 + 16 * g

/-- The fault that a peer's answer, its absence or poison gives an access at its word (R186, R355). -/
def State.returnFault (s : State) (a : Access) : Option Trap :=
  match a.place with
  | .remote seq =>
    match (Sparse.look s.reqs seq).bind Request.answer with
    | some ans =>
      if ans.timeout then some ⟨.remoteAbsent, a.lane, 0, a.src, a.creg, false, a.off, a.addr, 0⟩
      else if ans.step ≠ 0 then some ⟨FaultCode.ofCode ans.code, a.lane, ans.step.toNat, a.src, a.creg, true, a.off, a.addr, ans.pass⟩
      else if a.op.reads then (answerPoison ans a.addr a.size).map fun p => ⟨.poison, a.lane, 0, 0, 0, false, a.off, a.addr, p⟩
      else none
    | none => none
  | _ => (s.poisonOf a).map fun p => ⟨.poison, a.lane, 0, 0, 0, false, a.off, a.addr, a.addr - localOf a.addr + p⟩

/-- The first fault among the returned accesses: the lowest lane first (R65). -/
def State.returnFaults (s : State) : List Access → Option Trap
  | [] => none
  | a :: as => (s.returnFault a).orElse fun _ => s.returnFaults as

/-- Whether an access needs nothing from outside to be performed. -/
def State.accessReady (s : State) (a : Access) : Bool :=
  match a.place with
  | .remote seq => ((Sparse.look s.reqs seq).bind Request.answer).isSome
  | .home p => match s.region p with
    | .host off => s.halvesReady off a.size a.op.mayWrite
    | _ => true
  | _ => true

/-- Forget the requests of a word. -/
def State.dropReqs (s : State) (accs : List Access) : State :=
  { s with reqs := s.reqs.filter fun e => accs.all fun a => a.place ≠ .remote e.1 }

/-! ### Request flits (R351, R353) -/

/-- The operation of a flit for an access. -/
def AccOp.flitOp : AccOp → FlitOp
  | .read => .load
  | .readCap => .loadCap
  | .write _ => .store
  | .writeCap _ => .storeCap
  | .writePoison _ => .storeCap
  | .atomic op ty x y => .atomic (BitVec.ofNat 4 op) (BitVec.ofNat 5 ty) (BitVec.ofNat 64 x) (BitVec.ofNat 64 y)

/-- Put bytes into a line from a byte position. -/
def putBytes (line : BitVec 1024) (pos : Nat) (bs : List Byte) : BitVec 1024 :=
  BitVec.ofNat 1024 (line.toNat - line.toNat / 2 ^ (8 * pos) % 2 ^ (8 * bs.length) * 2 ^ (8 * pos) + bytesNat bs * 2 ^ (8 * pos))

/-- Whether an access stores a tagged capability. -/
def AccOp.storesTag : AccOp → Bool
  | .writeCap c => c.tag
  | .writePoison c => c.tag
  | _ => false

/-- Whether an access stores poison. -/
def AccOp.storesPoison : AccOp → Bool
  | .writePoison _ => true
  | _ => false

/-- The reorder tag of a flit (R351). -/
def flitSeq (f : Flit) : Nat := f.lane.toNat * 2 ^ 40 + f.seq.toNat

/-- The flit of an access alone, sent now: the tag of a capability that is affected by then is not sent (R63). -/
def State.flitOf (s : State) (x : Ctx) (b : Access) (seq : Nat) : Flit :=
  let a := { b with op := s.passing b.op }
  let pos := a.addr % 128
  { src := s.devId, band := x.sh.band, op := a.op.flitOp, cap := BitVec.ofNat 128 a.cap.toNat, capTag := a.cap.tag
    off := BitVec.ofNat 64 a.off - BitVec.ofNat 64 pos
    mask := BitVec.ofNat 128 ((2 ^ a.size - 1) * 2 ^ pos)
    payload := putBytes 0 pos (a.op.written.getD [])
    tags := if a.op.storesTag then 1#8 <<< (pos / 16) else 0
    poison := if a.op.storesPoison then 1#8 <<< (pos / 16) else 0
    lane := BitVec.ofNat 24 (x.n * 1024 + a.lane), seq := BitVec.ofNat 40 seq }

/-- Whether two accesses share a flit: same pass, capability, peer line and operation; atomics never do (R353). -/
def sameFlit (a b : Access) : Bool :=
  a.lane / 32 = b.lane / 32 && a.cap = b.cap && a.addr / 128 = b.addr / 128 && a.op.flitOp = b.op.flitOp &&
    match a.op with
    | .atomic _ _ _ _ => false
    | _ => true

/-- Join an access to a flit: its bytes are added, and a later lane's bytes, tag and poison replace an earlier one's (R63, R277, R353). -/
def State.joinFlit (s : State) (f : Flit) (b : Access) : Flit :=
  let a := { b with op := s.passing b.op }
  let pos := a.addr % 128
  { f with mask := f.mask ||| BitVec.ofNat 128 ((2 ^ a.size - 1) * 2 ^ pos)
           payload := putBytes f.payload pos (a.op.written.getD [])
           tags := f.tags &&& ~~~(1#8 <<< (pos / 16)) ||| (if a.op.storesTag then 1#8 <<< (pos / 16) else 0)
           poison := f.poison &&& ~~~(1#8 <<< (pos / 16)) ||| (if a.op.storesPoison then 1#8 <<< (pos / 16) else 0) }

/-- Number the remote accesses of a word and gather their flits: `gs` are the groups so far, each with an access of it. -/
def gatherFlits (s : State) (x : Ctx) : Nat → List (Access × Nat × Flit) → List Access → List Access × List (Nat × Flit) × Nat
  | id, gs, [] => ([], gs.map fun g => (g.2.1, g.2.2), id)
  | id, gs, a :: as =>
    if a.place = .remote 0 then
      match gs.find? fun g => sameFlit g.1 a with
      | some g =>
        let r := gatherFlits s x id (gs.map fun h => if h.2.1 = g.2.1 then (h.1, h.2.1, s.joinFlit h.2.2 a) else h) as
        ({ a with place := .remote g.2.1 } :: r.1, r.2)
      | none =>
        let r := gatherFlits s x (id + 1) (gs ++ [(a, id, s.flitOf x a id)]) as
        ({ a with place := .remote id } :: r.1, r.2)
    else
      let r := gatherFlits s x id gs as
      (a :: r.1, r.2)

/-- Send the requests of a word (R353): its accesses with their request numbers. -/
def State.sendReqs (s : State) (x : Ctx) (accs : List Access) : State × List Access :=
  let r := gatherFlits s x (s.nextId + 1) [] accs
  let dstOf (id : Nat) : Nat := match r.1.find? fun a => a.place = .remote id with
    | some a => a.cap.dev
    | none => 0
  ({ s with nextId := r.2.2 - 1
            reqs := r.2.1.foldl (fun m (p : Nat × Flit) => Sparse.insert m p.1 ⟨some x.n, p.2, dstOf p.1, none⟩) s.reqs }, r.1)

end Sys2Proof.Machine
end

