-- ==== Sys2Proof/Machine/Vector.lean ====
section
/-!
DEFINITION. The shapes that vector words share (R86, R87, R221, R224): operands are read from the team as it stood before
the word, for every lane of the execution mask, and each lane's result is written.
-/

namespace Sys2Proof.Machine

/-- Sequence two checks. -/
def both (a b : Except Trap Unit) : Except Trap Unit :=
  match a with
  | .ok () => b
  | .error e => .error e

/-- A guarded word: the TYPE set, the operand checks, then for each lane of the execution mask an update of the team
computed from the team before the word. -/
def vecStep (i : Instr) (p : Ty → Bool) (chk : Ctx → Ty → Except Trap Unit) (f : Ctx → Ty → Nat → Team → Team) (s : State) :
    Host.Outcome State Fault Refusal :=
  teamStep i (fun x => match needTy x p with
    | .error e => .error e
    | .ok ty => match chk x ty with
      | .error e => .error e
      | .ok () => .ok (forLanes (f x ty) x.lanes x.t)) s

/-- A guarded word that reads no TYPE. -/
def laneStep (i : Instr) (chk : Ctx → Except Trap Unit) (f : Ctx → Nat → Team → Team) (s : State) : Host.Outcome State Fault Refusal :=
  teamStep i (fun x => match chk x with
    | .error e => .error e
    | .ok () => .ok (forLanes (f x) x.lanes x.t)) s

/-- A guarded word d := g(d, a, b) on element groups. -/
def vecOp (i : Instr) (p : Ty → Bool) (d a : BitVec 8) (b : VSrc) (g : Ty → Nat → Nat → Nat → Nat) : State → Host.Outcome State Fault Refusal :=
  vecStep i p (fun x ty => both (needV x ty.wide d.toNat) (both (needV x ty.wide a.toNat) (needSrc x ty.wide b)))
    fun x ty l t => t.wrW ty.wide l d.toNat
      (g ty (x.t.rdW ty.wide l d.toNat) (x.t.rdW ty.wide l a.toNat) (x.t.src ty l b))

/-- A guarded word d := g(a) on element groups. -/
def vecUn (i : Instr) (p : Ty → Bool) (d a : BitVec 8) (g : Ty → Nat → Nat) : State → Host.Outcome State Fault Refusal :=
  vecStep i p (fun x ty => both (needV x ty.wide d.toNat) (needV x ty.wide a.toNat))
    fun x ty l t => t.wrW ty.wide l d.toNat (g ty (x.t.rdW ty.wide l a.toNat))

/-- An operation on elements of a group, as integers by TYPE (R227); the result is taken modulo 2^w. -/
def onInts (ty : Ty) (g : Int → Int → Int → Int) (d a b : Nat) : Nat :=
  let w := ty.width
  let v (x j : Nat) : Int := intValue ty.signed w (elemOf w x j)
  joinElems w (fun j => wrapInt w (g (v d j) (v a j) (v b j))) ty.count

/-- An operation on elements of a group as bit patterns. -/
def onBits (ty : Ty) (g : Nat → Nat → Nat → Nat) (a b : Nat) : Nat :=
  let w := ty.width
  joinElems w (fun j => g w (elemOf w a j) (elemOf w b j)) ty.count

/-- The rounding environment of a lane: mode, FTZ, SAT and one generator word per element (R38, R233). -/
structure RndEnv where
  /-- MODE.RND. -/
  rnd : Rnd
  /-- MODE.FTZ. -/
  ftz : Bool
  /-- MODE.SAT. -/
  sat : Bool
  /-- Words drawn under STO. -/
  words : List Nat
deriving DecidableEq, Repr

/-- The environment of a lane that draws `n` words when `draw` holds and MODE.RND is STO, and the generator after. -/
def Team.env (t : Team) (draw : Bool) (lane n : Nat) : RndEnv × W32 :=
  if draw && t.rnd = .sto then
    let r := draws n (t.rdGen lane)
    (⟨t.rnd, t.ftz, t.sat, r.1⟩, r.2)
  else (⟨t.rnd, t.ftz, t.sat, []⟩, t.rdGen lane)

/-- The word drawn for element `j`. -/
def RndEnv.word (e : RndEnv) (j : Nat) : Nat := e.words.getD j 0

/-- A guarded float word d := g(d, a, b) with one rounding per element (R233). -/
def fltOp (i : Instr) (p : Ty → Bool) (d a : BitVec 8) (b : VSrc) (g : FloatFmt → RndEnv → Nat → Nat → Nat → Nat → Nat) :
    State → Host.Outcome State Fault Refusal :=
  vecStep i p (fun x ty => both (needV x ty.wide d.toNat) (both (needV x ty.wide a.toNat) (needSrc x ty.wide b)))
    fun x ty l t =>
      let e := x.t.env true l ty.count
      let w := ty.width
      let dv := x.t.rdW ty.wide l d.toNat
      let av := x.t.rdW ty.wide l a.toNat
      let bv := x.t.src ty l b
      (t.wrW ty.wide l d.toNat (joinElems w (fun j => g ty.flt e.1 j (elemOf w dv j) (elemOf w av j) (elemOf w bv j)) ty.count)).wrGen l e.2

/-- A word that writes one bit per lane of the execution mask into kd (R230): lanes outside it keep theirs. -/
def predStep (i : Instr) (p : Ty → Bool) (d : BitVec 3) (a : BitVec 8) (b : VSrc) (g : Ctx → Ty → Nat → Nat → Bool) :
    State → Host.Outcome State Fault Refusal :=
  teamStep i (fun x => match needTy x p with
    | .error e => .error e
    | .ok ty => match both (needV x ty.wide a.toNat) (needSrc x ty.wide b) with
      | .error e => .error e
      | .ok () =>
        let m := maskOf (fun l => g x ty (x.t.rdW ty.wide l a.toNat) (x.t.src ty l b)) x.sh.lanes
        .ok (x.t.wrK x.sh.lanes d.toNat ((m &&& x.exec) ||| (x.t.rdK d.toNat &&& ~~~x.exec))))

end Sys2Proof.Machine
end

