-- ==== Sys2Proof/Machine/Convert.lean ====
section
/-!
DEFINITION. Conversion, packing and the generator (R244 to R247), and the bit-stream words that only touch registers (R250
to R252).
-/

namespace Sys2Proof.Machine

/-! ### CVT (R244) -/

/-- The value of one element converted by CVT: integer to integer saturates or wraps by MODE.SAT, all else is R40. -/
def cvtElem (src dst : ElemFmt) (e : RndEnv) (g x : Nat) : Nat :=
  match src, dst with
  | .int s w, .int s2 w2 =>
    let v := intValue s w x
    wrapInt w2 (if e.sat then clampInt (intLo s2 w2) (intHi s2 w2) v else v)
  | _, _ => dst.encode e.rnd g e.sat (src.decode x)

/-- Whether a TYPE takes part in CVT. -/
def cvtTy (t : Ty) : Bool := t ≠ .b32 && t ≠ .b64

/-- CVT (R244). -/
def execCvt (d a : BitVec 8) (t : BitVec 5) : State → Host.Outcome State Fault Refusal :=
  vecStep (.cvt d a t) (fun ty => cvtTy ty && match Ty.ofCode t.toNat with
      | some t2 => cvtTy t2 && t2.count = ty.count
      | none => false)
    (fun x ty => both (needV x (((Ty.ofCode t.toNat).getD .i32).wide) d.toNat) (needV x ty.wide a.toNat))
    fun x ty l tm =>
      let t2 := (Ty.ofCode t.toNat).getD .i32
      let e := x.t.env (roundingPair ty.elem false t2.elem) l ty.count
      let av := x.t.rdW ty.wide l a.toNat
      (tm.wrW t2.wide l d.toNat (joinElems t2.width (fun j => cvtElem ty.elem t2.elem e.1 (e.1.word j) (elemOf ty.width av j)) ty.count)).wrGen l e.2

/-! ### Narrow formats -/

/-- The narrow format that an FMT field names (R245). -/
def narrowFmt (f : BitVec 6) : Option ElemFmt := if isNarrow f then fmtElem f else none

/-- FORMAT when the field names no narrow format (R245, R88). -/
def needFmt (f : BitVec 6) : Except Trap Unit := if (narrowFmt f).isSome then .ok () else .error (.plain .format)

/-- The narrow format, for a field that has passed. -/
def narrowOf (f : BitVec 6) : ElemFmt := (narrowFmt f).getD (.int true 8)

/-- The source TYPEs of CVTN. -/
def cvtnTy (t : Ty) : Bool := t = .f32 || t = .f64 || t = .i32 || t = .n32

/-- CVTN (R245). -/
def execCvtn (d a : BitVec 8) (f : BitVec 6) : State → Host.Outcome State Fault Refusal :=
  vecStep (.cvtn d a f) cvtnTy (fun x ty => both (both (needV x false d.toNat) (needV x ty.wide a.toNat)) (needFmt f))
    fun x ty l t =>
      let g := narrowOf f
      let e := x.t.env (roundingPair ty.elem false g) l 1
      (t.wrV l d.toNat (BitVec.ofNat 32 (g.encode e.1.rnd (e.1.word 0) e.1.sat (ty.elem.decode (x.t.rdW ty.wide l a.toNat))))).wrGen l e.2

/-- The TYPEs of PACKN and UNPKN. -/
def packTy (t : Ty) : Bool := t = .f32 || t = .i32 || t = .n32

/-- Elements of PACKN and UNPKN: 4 of 8 bits or 8 of 4 bits. -/
def packCount (f : BitVec 6) : Nat := 32 / (narrowOf f).width

/-- PACKN (R246). -/
def execPackn (d a : BitVec 8) (f : BitVec 6) : State → Host.Outcome State Fault Refusal :=
  vecStep (.packn d a f) packTy (fun x _ => both (needV x false d.toNat)
      (both (if isNarrow f then needRange x a.toNat (packCount f) else .ok ()) (needFmt f)))
    fun x ty l t =>
      let g := narrowOf f
      let n := packCount f
      let e := x.t.env (roundingPair ty.elem false g) l n
      (t.wrV l d.toNat (BitVec.ofNat 32 (joinElems g.width (fun j =>
        g.encode e.1.rnd (e.1.word j) e.1.sat (ty.elem.decode (x.t.rdV l (a.toNat + j)).toNat)) n))).wrGen l e.2

/-- Write `n` registers of a lane from `r` up. -/
def Team.wrRun (t : Team) (lane r : Nat) (f : Nat → W32) : Nat → Team
  | 0 => t
  | n + 1 => (t.wrRun lane r f n).wrV lane (r + n) (f n)

/-- UNPKN (R246): exact, and a negative integer under n32 gives 0 (R41). A float format that R245 does not accept raises FORMAT under i32 and
n32 too (log entry 194). -/
def execUnpkn (d a : BitVec 8) (f : BitVec 6) : State → Host.Outcome State Fault Refusal :=
  vecStep (.unpkn d a f) packTy (fun x ty => both (needV x false a.toNat) (both (need (ty = .f32 || !isNarrow f || (narrowOf f).isInt))
      (both (if isNarrow f then needRange x d.toNat (packCount f) else .ok ()) (needFmt f))))
    fun x ty l t =>
      let g := narrowOf f
      let w := (x.t.rdV l a.toNat).toNat
      t.wrRun l d.toNat (fun j => BitVec.ofNat 32 (ty.elem.encode .rne 0 false (g.decode (elemOf g.width w j)))) (packCount f)

/-- SEEDR (R247). -/
def execSeedr (a : BitVec 8) (h : BitVec 4) : State → Host.Outcome State Fault Refusal :=
  laneStep (.seedr a h) (fun x => needV x false a.toNat) fun x l t =>
    t.wrGen l (if x.t.rdV l a.toNat = 0 then 1 else x.t.rdV l a.toNat)

/-! ### Bit streams (R250 to R252) -/

/-- The state of one lane's stream (R250). -/
structure BitStream where
  /-- The bit buffer. -/
  b : BitVec 64
  /-- Valid bits, or minus the bits still to be dropped. -/
  n : Int
  /-- Byte offset of the next 4 bytes to load. -/
  p : W32
deriving DecidableEq, Repr

/-- The stream in a quad. -/
def Team.rdStream (t : Team) (lane q : Nat) : BitStream :=
  ⟨t.rdV lane (q + 1) ++ t.rdV lane q, (t.rdV lane (q + 2)).toInt, t.rdV lane (q + 3)⟩

/-- Write a stream into a quad. -/
def Team.wrStream (t : Team) (lane q : Nat) (z : BitStream) : Team :=
  (((t.wrV lane q (z.b.setWidth 32)).wrV lane (q + 1) ((z.b >>> 32).setWidth 32)).wrV lane (q + 2) (BitVec.ofInt 32 z.n)).wrV lane (q + 3) z.p

/-- skip(m) (R252). -/
def BitStream.skip (z : BitStream) (m : Nat) : BitStream :=
  if 0 ≤ z.n ∧ (m : Int) ≤ z.n then ⟨z.b >>> m, z.n - m, z.p⟩
  else
    let e : Int := m - z.n
    ⟨0, -(e % 32), z.p + BitVec.ofInt 32 (4 * (e / 32))⟩

/-- The bits that BSRD and BSPK read (R252). -/
def BitStream.peek (z : BitStream) (b : W32) : W32 := BitVec.ofNat 32 (z.b.toNat % 2 ^ min b.toNat 32)

/-- The refill of BSLD by the loaded word (R252). -/
def BitStream.refill (z : BitStream) (x : W32) : BitStream :=
  if z.n < 0 then ⟨(x.setWidth 64) >>> (-z.n).toNat, 32 + z.n, z.p + 4⟩
  else ⟨z.b ||| (x.setWidth 64) <<< z.n.toNat, z.n + 32, z.p + 4⟩

/-- The quad of a stream exists. -/
def needStream (x : Ctx) (q : BitVec 8) : Except Trap Unit := needRange x q.toNat 4

/-- BSINI. -/
def execBsini (q a : BitVec 8) (h : BitVec 4) : State → Host.Outcome State Fault Refusal :=
  laneStep (.bsini q a h) (fun x => both (needStream x q) (needV x false a.toNat)) fun x l t =>
    t.wrStream l q.toNat ⟨0, 0, x.t.rdV l a.toNat⟩

/-- BSRD: d lies outside the quad (R251). -/
def execBsrd (d q b : BitVec 8) : State → Host.Outcome State Fault Refusal :=
  laneStep (.bsrd d q b) (fun x => both (needStream x q) (both (needV x false d.toNat) (needV x false b.toNat))) fun x l t =>
    let z := x.t.rdStream l q.toNat
    let c := x.t.rdV l b.toNat
    (t.wrStream l q.toNat (z.skip (min c.toNat 32))).wrV l d.toNat (z.peek c)

/-- BSPK. -/
def execBspk (d q b : BitVec 8) : State → Host.Outcome State Fault Refusal :=
  laneStep (.bspk d q b) (fun x => both (needStream x q) (both (needV x false d.toNat) (needV x false b.toNat))) fun x l t =>
    t.wrV l d.toNat ((x.t.rdStream l q.toNat).peek (x.t.rdV l b.toNat))

/-- BSSK. -/
def execBssk (q b : BitVec 8) (h : BitVec 4) : State → Host.Outcome State Fault Refusal :=
  laneStep (.bssk q b h) (fun x => both (needStream x q) (needV x false b.toNat)) fun x l t =>
    t.wrStream l q.toNat ((x.t.rdStream l q.toNat).skip (x.t.rdV l b.toNat).toNat)

/-- BSPOS. -/
def execBspos (d q : BitVec 8) (h : BitVec 4) : State → Host.Outcome State Fault Refusal :=
  laneStep (.bspos d q h) (fun x => both (needStream x q) (needV x false d.toNat)) fun x l t =>
    let z := x.t.rdStream l q.toNat
    t.wrV l d.toNat (BitVec.ofInt 32 (8 * z.p.toNat - z.n))

end Sys2Proof.Machine
end

