-- ==== Sys2Proof/Machine/Access.lean ====
section
/-!
DEFINITION. Words that access memory (R253, R275 to R283, R296 to R298): for each, the accesses it makes after its checks, and
what it does with what they return. The accesses of a word are performed when every peer has answered, every host half is
held and late loads have returned (R155, R279, R355); until then the team waits.
-/

namespace Sys2Proof.Machine

/-- The context of a team. -/
def State.ctx? (s : State) (n : Nat) : Option Ctx :=
  match s.team? n, s.shop? (shopOf n) with
  | some t, some sh => some ⟨n, t, sh⟩
  | _, _ => none

/-! ### Tags that move (R62) -/

/-- Whether granules loaded through a capability keep their tags (R53, R62). -/
def Cap.loadsTags (c : Cap) : Bool :=
  c.has pLDC && (c.kind = kData || c.kind = kCommand || c.kind = kLayout || c.kind = kLocal || c.kind = kPrivate || c.kind = kSealed)

/-- The capability that a loaded granule is, through `c`. -/
def State.loadedCap (s : State) (c : Cap) (r : AccRes) : Cap := s.moved (Cap.ofNat (bytesNat r.data) (r.tag && c.loadsTags))

/-! ### Accesses of a word -/

/-- The capability of a memory operand in a lane, with SRC and CREG of the fault record. -/
def Ctx.operand (x : Ctx) (m : CapRef) (lane : Nat) : Cap × Nat × Nat :=
  match m with
  | .c r => (x.t.rdC r.toNat, 1, r.toNat)
  | .quad q => (x.t.rdQuad lane q.toNat, 2, q.toNat)

/-- Whether the register that an operand names in a lane is poisoned. -/
def Ctx.operandPoison (x : Ctx) (m : CapRef) (lane : Nat) : Bool :=
  match m with
  | .c r => x.t.capPoison r.toNat
  | .quad q => x.t.quadPoison lane q.toNat

/-- One checked access (R65); a poisoned register is read as a capability by no access (R351, log entry 175). -/
def Ctx.access (x : Ctx) (s : State) (u : Use) (m : CapRef) (lane off size align : Nat) (op : AccOp) : Except Trap Access :=
  let c := x.operand m lane
  if x.operandPoison m lane then .error ⟨.poison, lane, 0, c.2.1, c.2.2, false, off, 0, 0⟩
  else match x.place s u c.1 lane c.2.1 c.2.2 off size align with
  | .ok p => .ok ⟨lane, p.1, size, op, c.1, c.2.1, c.2.2, off, p.2⟩
  | .error e => .error e

/-- The accesses of each lane of a list, in order; the first lane that fails decides (R65, R89). -/
def eachLane (f : Nat → Except Trap (List Access)) : List Nat → Except Trap (List Access)
  | [] => .ok []
  | l :: ls => match f l with
    | .error e => .error e
    | .ok as => match eachLane f ls with
      | .error e => .error e
      | .ok rest => .ok (as ++ rest)

/-- Sequence a check and a list of accesses. -/
def after (c : Except Trap Unit) (f : Except Trap (List Access)) : Except Trap (List Access) :=
  match c with
  | .ok () => f
  | .error e => .error e

/-- One access as a list. -/
def one (a : Except Trap Access) : Except Trap (List Access) := a.map fun y => [y]

/-- The KINDs of R278: data and local. -/
def storeKinds : List (BitVec 4) := [kData, kLocal]
/-- Stores that take private capabilities too. -/
def privKinds : List (BitVec 4) := [kData, kLocal, kPrivate]
/-- Loads. -/
def loadKinds : List (BitVec 4) := [kData, kLocal, kCode, kLayout]
/-- Loads that take private capabilities too. -/
def loadPrivKinds : List (BitVec 4) := [kData, kLocal, kCode, kLayout, kPrivate]

/-- The scope check of a guarded word, which an empty execution mask does not reach (R88, R165). -/
def Ctx.laneScope (x : Ctx) (s : State) : Except Trap Unit := if x.exec = 0 then .ok () else x.needScope s x.t.scope

/-- LD and LD.ACQ. -/
def planLoad (x : Ctx) (s : State) (acq : Bool) (d : BitVec 8) (m : CapRef) (o : BitVec 8) : Except Trap (List Access) :=
  match needTy x anyType with
  | .error e => .error e
  | .ok ty => after (both (needV x ty.wide d.toNat) (both (needCap x m) (needV x false o.toNat)))
    (after (if acq then x.laneScope s else .ok ())
      (eachLane (fun l => one (x.access s (.load loadPrivKinds) m l (x.t.rdV l o.toNat).toNat ty.bytes ty.bytes .read)) x.lanes))
where
  /-- Every TYPE (R276). -/
  anyType (_ : Ty) : Bool := true

/-- ST and ST.REL. -/
def planStore (x : Ctx) (s : State) (rel : Bool) (d : BitVec 8) (m : CapRef) (o : BitVec 8) : Except Trap (List Access) :=
  match needTy x fun _ => true with
  | .error e => .error e
  | .ok ty => after (both (needV x ty.wide d.toNat) (both (needCap x m) (needV x false o.toNat)))
    (after (if rel then x.laneScope s else .ok ())
      (eachLane (fun l => one (x.access s (.store privKinds) m l (x.t.rdV l o.toNat).toNat ty.bytes ty.bytes
        (.write (natBytes ty.bytes (x.t.rdW ty.wide l d.toNat))))) x.lanes))

/-- LDV and STV: offset s(b) + n × lane, not wrapped (log entry 12). -/
def planStream (x : Ctx) (s : State) (store : Bool) (d : BitVec 8) (c : BitVec 5) (o : BitVec 6) : Except Trap (List Access) :=
  match needTy x fun _ => true with
  | .error e => .error e
  | .ok ty => after (needV x ty.wide d.toNat)
    (eachLane (fun l =>
      let off := (x.t.rdS o.toNat).toNat + ty.bytes * l
      one (if store then x.access s (.store privKinds) (.c c) l off ty.bytes ty.bytes (.write (natBytes ty.bytes (x.t.rdW ty.wide l d.toNat)))
        else x.access s (.load loadPrivKinds) (.c c) l off ty.bytes ty.bytes .read)) x.lanes)

/-- LDU and STU: one access, of lane 0's view when private (R277). -/
def planUniform (x : Ctx) (s : State) (store : Bool) (d : BitVec 6) (c : BitVec 5) (o : BitVec 6) : Except Trap (List Access) :=
  match needTy x fun _ => true with
  | .error e => .error e
  | .ok ty =>
    let off := (x.t.rdS o.toNat).toNat
    one (if store then x.access s (.store privKinds) (.c c) 0 off ty.bytes ty.bytes (.write (natBytes ty.bytes (x.t.rdS d.toNat).toNat))
      else x.access s (.load loadPrivKinds) (.c c) 0 off ty.bytes ty.bytes .read)

/-! ### LDW and STN (R280, R281) -/

/-- The element format of a decoding access through a capability under a TYPE, or none where FORMAT is raised: an element
of 16 bits or fewer, with block scales or GEO 00, and the pairing of R280. -/
def wideFmt (c : Cap) (ty : Ty) : Option ElemFmt :=
  match fmtElem c.fmt with
  | none => none
  | some f =>
    if 16 < f.width ∨ (c.geo ≠ 0 ∧ !isBlockScaled c.fmt c.geo) then none
    else if f.isInt then (if ty = .i32 ∨ ty = .n32 ∨ ty = .i16x2 ∨ ty = .n16x2 then some f else none)
    else if ty = .f32 ∨ ty = .bf16x2 ∨ ty = .f16x2 then some f else none

/-- Elements that a lane moves: both of a 4-bit byte, otherwise one for each element of the register. -/
def wideCount (f : ElemFmt) (ty : Ty) : Nat := if f.width = 4 then 2 else ty.count

/-- Bytes that a lane moves. -/
def wideBytes (f : ElemFmt) (ty : Ty) : Nat := wideCount f ty * f.width / 8

/-- Whether a lane fills vd and vd+1. -/
def widePair (f : ElemFmt) (ty : Ty) : Bool := f.width = 4 && ty.count = 1

/-- FORMAT, with the operand it concerns. -/
def fmtTrap (lane src creg off : Nat) : Trap := ⟨.format, lane, 0, src, creg, false, off, 0, 0⟩

/-- The format check of one operand, and the second destination register of 4-bit elements (R94). -/
def Ctx.wideCheck (x : Ctx) (ty : Ty) (d : BitVec 8) (c : Cap) (lane src creg : Nat) : Except Trap Unit :=
  match wideFmt c ty with
  | none => .error (fmtTrap lane src creg 0)
  | some f => if widePair f ty then needV x false (d.toNat + 1) else .ok ()

/-- The accesses of LDW or STN in one lane: the element bytes and, for block-scaled storage, the scale byte. -/
def Ctx.wideLane (x : Ctx) (s : State) (store : Bool) (ty : Ty) (d : BitVec 8) (m : CapRef) (o : BitVec 8) (lane : Nat) :
    Except Trap (List Access) :=
  let c := x.operand m lane
  let off := (x.t.rdV lane o.toNat).toNat
  match x.wideCheck ty d c.1 lane c.2.1 c.2.2 with
  | .error e => .error e
  | .ok () =>
    let f := (wideFmt c.1 ty).getD (.int true 8)
    let n := wideBytes f ty
    let blk := isBlockScaled c.1.fmt c.1.geo
    let elem := x.access s (if store then ⟨storeKinds, true, if blk then pLD ||| pST else pST, false, true⟩ else .load loadKinds) m lane off n n
      (if store then .write [] else .read)
    match elem with
    | .error e => .error e
    | .ok a =>
      if blk then
        if inTrailer f.width off then .error (fmtTrap lane c.2.1 c.2.2 off)
        else match x.access s (.load (if store then storeKinds else loadKinds)) m lane (blockScaleByte f.width (blockElemAt f.width off)) 1 1 .read with
          | .error e => .error e
          | .ok z => .ok [a, z]
      else .ok [a]

/-- The format check that an empty execution mask does not spare (R88). -/
def Ctx.wideUniform (x : Ctx) (ty : Ty) (d : BitVec 8) (m : CapRef) : Except Trap Unit :=
  match m with
  | .c r => x.wideCheck ty d (x.t.rdC r.toNat) 0 1 r.toNat
  | .quad _ => .ok ()

/-- The value of an element with the scale byte of its block, if any. -/
def scaled (f : ElemFmt) (scale : Option Nat) (bits : Nat) : FVal :=
  match scale with
  | some z => scaleBy z (f.decode bits)
  | none => f.decode bits

/-- A value divided by a block scale (R281). -/
def unscale (scale : Option Nat) (v : FVal) : FVal :=
  match scale with
  | none => v
  | some z =>
    if z = 0xFF then .nan
    else match v with
      | .fin y => .fin { y with e := y.e - (z - 127 : Int) }
      | w => w

/-- Write the elements of LDW into the registers of a lane. -/
def Team.putWide (t : Team) (ty : Ty) (f : ElemFmt) (lane d : Nat) (e : Nat → Nat) : Team :=
  if widePair f ty then (t.wrV lane d (BitVec.ofNat 32 (e 0))).wrV lane (d + 1) (BitVec.ofNat 32 (e 1))
  else t.wrV lane d (BitVec.ofNat 32 (joinElems ty.width e (wideCount f ty)))

/-- The element that STN reads from the registers of a lane. -/
def Team.getWide (t : Team) (ty : Ty) (f : ElemFmt) (lane d j : Nat) : Nat :=
  if widePair f ty then (t.rdV lane (d + j)).toNat else elemOf ty.width (t.rdV lane d).toNat j

/-- The word that rounds element `j`, of bits `v`, of LDW or STN in a lane: the drawn one, and a free one where the pair draws none (R407,
log entry 19). -/
def Team.wideWord (t : Team) (draws : Bool) (e : RndEnv) (lane j v : Nat) : Nat :=
  if draws then e.word j else Config.undrawnWord (t.rdGen lane).toNat j v

/-- The effect of LDW in a lane on what its accesses returned. -/
def Ctx.loadWide (x : Ctx) (ty : Ty) (d : BitVec 8) (t : Team) (c : Cap) (lane : Nat) (bytes : Nat) (scale : Option Nat) : Team :=
  match wideFmt c ty with
  | none => t
  | some f =>
    let draws := roundingPair f scale.isSome ty.elem
    let e := x.t.env draws lane (wideCount f ty)
    (t.putWide ty f lane d.toNat fun j =>
      ty.elem.encode e.1.rnd (x.t.wideWord draws e.1 lane j (elemOf f.width bytes j)) e.1.sat (scaled f scale (elemOf f.width bytes j))).wrGen lane e.2

/-- The bytes that STN writes in a lane. -/
def Ctx.storeWide (x : Ctx) (ty : Ty) (d : BitVec 8) (c : Cap) (lane : Nat) (scale : Option Nat) : List Byte :=
  match wideFmt c ty with
  | none => []
  | some f =>
    let draws := roundingPair ty.elem scale.isSome f
    let e := x.t.env draws lane (wideCount f ty)
    natBytes (wideBytes f ty) (joinElems f.width (fun j =>
      let v := x.t.getWide ty f lane d.toNat j
      f.encode e.1.rnd (x.t.wideWord draws e.1 lane j v) e.1.sat (unscale scale (ty.elem.decode v))) (wideCount f ty))

/-- The generator of a lane after STN: its draws follow from the formats alone (R407). -/
def Ctx.drawWide (x : Ctx) (ty : Ty) (c : Cap) (lane : Nat) (t : Team) : Team :=
  match wideFmt c ty with
  | none => t
  | some f => t.wrGen lane (x.t.env (roundingPair ty.elem (isBlockScaled c.fmt c.geo) f) lane (wideCount f ty)).2

/-- LDW. -/
def planWiden (x : Ctx) (s : State) (d : BitVec 8) (m : CapRef) (o : BitVec 8) : Except Trap (List Access) :=
  match needTy x fun _ => true with
  | .error e => .error e
  | .ok ty => after (both (needV x false d.toNat) (both (needCap x m) (needV x false o.toNat)))
    (after (x.wideUniform ty d m) (eachLane (x.wideLane s false ty d m o) x.lanes))

/-- STN: for block-scaled storage the scales are read first and the elements written after (R281). -/
def planNarrow (x : Ctx) (s : State) (d : BitVec 8) (m : CapRef) (o : BitVec 8) : Except Trap (List Access) :=
  match needTy x fun _ => true with
  | .error e => .error e
  | .ok ty => after (both (needV x false d.toNat) (both (needCap x m) (needV x false o.toNat)))
    (after (x.wideUniform ty d m)
      ((eachLane (x.wideLane s true ty d m o) x.lanes).map fun as => as.filterMap fun a =>
        match a.op with
        | .write _ =>
          if isBlockScaled a.cap.fmt a.cap.geo then none
          else some { a with op := .write (x.storeWide ty d a.cap a.lane none) }
        | _ => some a))

/-! ### LDQ, STQ and BSLD (R253, R282) -/

/-- The value that a capability store writes, and its fault BAND (R56, R62 to R64). -/
def Ctx.storedCap (x : Ctx) (s : State) (v : Cap) (d : Cap × Nat × Nat) (lane off : Nat) : Except Trap Cap :=
  match keepsTag x.sh.band v d.1 (d.1.kind = kLocal || d.1.kind = kPrivate) with
  | .error e => .error ⟨e, lane, 0, d.2.1, d.2.2, false, off, wrapAddr (d.1.addr + off), 0⟩
  | .ok k => .ok (s.moved { v with tag := k })

/-- A capability store from a register that is poisoned, if `bad`. -/
def Access.soiled (bad : Bool) (a : Access) : Access :=
  match bad, a.op with
  | true, .writeCap c => { a with op := .writePoison c }
  | _, _ => a

/-- One capability store, checked. -/
def Ctx.capStore (x : Ctx) (s : State) (v : Cap) (m : CapRef) (lane off : Nat) : Except Trap Access :=
  match x.access s (.store privKinds) m lane off 16 16 (.writeCap Cap.null) with
  | .error e => .error e
  | .ok a => match x.storedCap s v (x.operand m lane) lane off with
    | .error e => .error e
    | .ok c => .ok { a with op := .writeCap c }

/-- LDQ. -/
def planLoadQuad (x : Ctx) (s : State) (q m : CapRef) (o : BitVec 8) : Except Trap (List Access) :=
  match q with
  | .c _ => one (x.access s (.load loadPrivKinds) m 0 (x.t.rdS o.toNat).toNat 16 16 .readCap)
  | .quad k => after (both (needQuad x k.toNat) (both (needCap x m) (needV x false o.toNat)))
    (eachLane (fun l => one (x.access s (.load loadPrivKinds) m l (x.t.rdV l o.toNat).toNat 16 16 .readCap)) x.lanes)

/-- STQ: a register's poison moves with its data (R186). -/
def planStoreQuad (x : Ctx) (s : State) (q m : CapRef) (o : BitVec 8) : Except Trap (List Access) :=
  match q with
  | .c r => one ((x.capStore s (x.t.rdC r.toNat) m 0 (x.t.rdS o.toNat).toNat).map (Access.soiled (x.t.capPoison r.toNat)))
  | .quad k => after (both (needQuad x k.toNat) (both (needCap x m) (needV x false o.toNat)))
    (eachLane (fun l => one ((x.capStore s (x.t.rdQuad l k.toNat) m l (x.t.rdV l o.toNat).toNat).map (Access.soiled (x.t.quadPoison l k.toNat)))) x.lanes)

/-- BSLD: the lanes that hold 32 bits or fewer load (R252). -/
def planRefill (x : Ctx) (s : State) (q : BitVec 8) (c : BitVec 5) : Except Trap (List Access) :=
  after (needStream x q)
    (eachLane (fun l => one (x.access s ⟨storeKinds, false, pLD, true, false⟩ (.c c) l (x.t.rdStream l q.toNat).p.toNat 4 4 .read))
      (x.lanes.filter fun l => (x.t.rdStream l q.toNat).n ≤ 32))

/-! ### Atomics (R296 to R298) -/

/-- The TYPEs of an operation. -/
def atomicTy (p : Nat) (t : Ty) : Bool :=
  let ints := t = .i32 || t = .n32 || t = .i64 || t = .n64
  match p with
  | 0 | 2 | 3 => ints
  | 1 => t.isFs
  | 4 | 5 | 6 => t.isWide
  | 7 | 8 => t.isWide || t.isFs
  | _ => t = .n32 || t = .n64

/-- The code of a TYPE (R208). -/
def Ty.code : Ty → Nat
  | .i32 => 0x00
  | .n32 => 0x01
  | .i64 => 0x02
  | .n64 => 0x03
  | .i16x2 => 0x04
  | .n16x2 => 0x05
  | .i8x4 => 0x06
  | .n8x4 => 0x07
  | .f32 => 0x08
  | .f64 => 0x09
  | .bf16x2 => 0x0A
  | .f16x2 => 0x0B
  | .b32 => 0x0C
  | .b64 => 0x0D

/-- ATOM and RED; `regs` data registers from v4n. Lanes that target the same bytes are taken in ascending order, which R298 leaves
unspecified (log entry 180, the model's choice). -/
def planAtomic (x : Ctx) (s : State) (p n : BitVec 4) (ordered : Bool) (regs : Nat) (c : BitVec 5) (o : BitVec 8) : Except Trap (List Access) :=
  match needTy x (atomicTy p.toNat) with
  | .error e => .error e
  | .ok ty => after (both (needRange x (4 * n.toNat) regs) (needV x false o.toNat))
    (after (if ordered then x.laneScope s else .ok ())
      (eachLane (fun l => one (x.access s (.atomic storeKinds) (.c c) l (x.t.rdV l o.toNat).toNat ty.bytes ty.bytes
        (.atomic p.toNat ty.code (x.t.rdW ty.wide l (4 * n.toNat)) (if regs = 4 then x.t.rdW ty.wide l (4 * n.toNat + 2) else 0)))) x.lanes))

/-- ATOMU: x and y are s4m and s4m+1, truncated to the access size. -/
def planAtomicU (x : Ctx) (s : State) (p m : BitVec 4) (ordered : Bool) (c : BitVec 5) (o : BitVec 6) : Except Trap (List Access) :=
  match needTy x (atomicTy p.toNat) with
  | .error e => .error e
  | .ok ty => after (if ordered then x.needScope s x.t.scope else .ok ())
    (one (x.access s (.atomic storeKinds) (.c c) 0 (x.t.rdS o.toNat).toNat ty.bytes ty.bytes
      (.atomic p.toNat ty.code ((x.t.rdS (4 * m.toNat)).toNat % 2 ^ (8 * ty.bytes)) ((x.t.rdS (4 * m.toNat + 1)).toNat % 2 ^ (8 * ty.bytes)))))

/-! ### What a word does with what its accesses returned -/

/-- LDW over its results: each lane's element bytes, followed by its scale byte for block-scaled storage. -/
def Ctx.loadWides (x : Ctx) (ty : Ty) (d : BitVec 8) : List (Access × AccRes) → Team → Team
  | [], t => t
  | [r], t => x.loadWide ty d t r.1.cap r.1.lane (bytesNat r.2.data) none
  | r :: z :: rs, t =>
    if isBlockScaled r.1.cap.fmt r.1.cap.geo then
      x.loadWides ty d rs (x.loadWide ty d t r.1.cap r.1.lane (bytesNat r.2.data) (some (bytesNat z.2.data)))
    else x.loadWides ty d (z :: rs) (x.loadWide ty d t r.1.cap r.1.lane (bytesNat r.2.data) none)

/-- One register value of a load, extended as LDU and ATOMU extend it (R276). -/
def uniformValue (ty : Ty) (x : Nat) : W64 := if ty = .i32 then (BitVec.ofNat 32 x).signExtend 64 else BitVec.ofNat 64 x

/-- A fold of results into a team. -/
def foldResults (f : Access → Nat → Team → Team) : List (Access × AccRes) → Team → Team
  | [], t => t
  | r :: rs, t => foldResults f rs (f r.1 (bytesNat r.2.data) t)

/-- What RSQ makes of a progress record (R378, R382): NEXT, RUNS, CODE, STATUS. -/
def recordWord (bs : List Byte) : W64 :=
  let f (o n : Nat) : Nat := bytesNat ((bs.drop o).take n)
  BitVec.ofNat 64 (f 0 4 * 2 ^ 32 + f 16 2 * 2 ^ 16 + f 21 1 * 2 ^ 8 + f 20 1)

/-- The team after a word whose accesses have been performed; `x` is the context before the word. -/
def memFinish (s : State) (i : Instr) (x : Ctx) (rs : List (Access × AccRes)) (t : Team) : Team :=
  let ty := x.t.ty?.getD .i32
  let load (d : BitVec 8) : Team := foldResults (fun a v t => t.wrW ty.wide a.lane d.toNat v) rs t
  match i with
  | .ld d _ _ => load d
  | .ldAcq d _ _ => load d
  | .ldv d _ _ => load d
  | .ldu d _ _ => foldResults (fun _ v t => t.wrS d.toNat (uniformValue ty v)) rs t
  | .ldw d _ _ => x.loadWides ty d rs t
  | .stn _ m _ => forLanes (fun l t => x.drawWide ty (x.operand m l).1 l t) x.lanes t
  | .ldq (.c r) _ _ => rs.foldl (fun t p => t.wrC r.toNat (s.loadedCap p.1.cap p.2)) t
  | .ldq (.quad q) _ _ => rs.foldl (fun t p => t.wrQuad p.1.lane q.toNat (s.loadedCap p.1.cap p.2)) t
  | .bsld q _ _ => foldResults (fun a v t => t.wrStream a.lane q.toNat ((x.t.rdStream a.lane q.toNat).refill (BitVec.ofNat 32 v))) rs t
  | .atom _ n _ _ _ => foldResults (fun a v t => t.wrW ty.wide a.lane (4 * n.toNat) v) rs t
  | .rsq d _ _ => t.wrS d.toNat (recordWord (rs.flatMap fun r => r.2.data))
  | .atomu _ m _ _ _ => foldResults (fun _ v t => t.wrS (4 * m.toNat) (uniformValue ty v)) rs t
  | _ => t

/-- Whether accesses of a word wait for its reads: the element writes of a block-scaled STN (R281). -/
def readsFirst (i : Instr) (accs : List Access) : Bool :=
  match i with
  | .stn _ _ _ => accs.any fun a => a.op.reads
  | _ => false

/-- The second accesses of an STN: in each lane whose scale was read, the element write in place of the read. -/
def narrowWrites (i : Instr) (x : Ctx) (rs : List (Access × AccRes)) (accs : List Access) : List Access :=
  match i with
  | .stn d _ o =>
    let ty := x.t.ty?.getD .i32
    accs.map fun a =>
      if a.op.reads then
        let off := (x.t.rdV a.lane o.toNat).toNat
        let scale := ((rs.find? fun r => r.1.lane = a.lane).map fun r => bytesNat r.2.data).getD 0
        let bs := x.storeWide ty d a.cap a.lane (some scale)
        { a with place := x.site a.cap a.lane off bs.length, size := bs.length, op := .write bs, off := off
                 addr := x.siteAddr a.cap a.lane off bs.length }
      else a
  | _ => accs

/-! ### Starting and ending the accesses of a word -/

/-- Whether an access is made at a peer. -/
def Access.isRemote (a : Access) : Bool :=
  match a.place with
  | .remote _ => true
  | _ => false

/-- Whether an access at a peer has no request yet. -/
def Access.unsent (a : Access) : Bool := a.place = .remote 0

/-- Whether an access is a load of this device that may return late (R279). -/
def Access.isHomeLoad (a : Access) : Bool :=
  a.op.reads && match a.place with
    | .home _ => true
    | .split _ _ => true
    | .spad _ _ => true
    | _ => false

/-- Whether an access is in the host window. -/
def State.inHostWindow (s : State) (a : Access) : Bool :=
  match a.place with
  | .home p => match s.region p with
    | .host _ => true
    | _ => false
  | _ => false

/-- Whether an access is of class SO or SY: by its capability, or in the MMIO or host window of its device (R136, R154, R160). -/
def Access.isSo (a : Access) : Bool :=
  match a.place with
  | .spad _ _ => false
  | .nowhere => false
  | _ => a.cap.isSo || soWindow a.addr

/-- The entry that a word's stores leave until they are acknowledged (R279): scratchpad stores leave none. -/
def State.storesOf (s : State) (accs : List Access) : List OutStore :=
  let stores := accs.filter fun a => a.op.mayWrite && match a.place with
    | .home _ => true
    | .split _ _ => true
    | .remote _ => true
    | _ => false
  if stores = [] then []
  else [.store (stores.any Access.isRemote) (stores.any s.inHostWindow) (stores.any Access.isSo)]

/-- Not a DEAD entry. -/
def OutStore.isStore : OutStore → Bool
  | .store _ _ _ => true
  | .dead _ _ _ => false

/-- An unacknowledged store of class SO or SY, a DEAD through such a capability among them (R151). -/
def OutStore.isSo : OutStore → Bool
  | .store _ _ so => so
  | .dead _ _ so => so

/-- An unacknowledged store at a peer. -/
def OutStore.isPeer : OutStore → Bool
  | .store peer _ _ => peer
  | .dead _ _ _ => false

/-- Whether a word is a release (R166, R296). -/
def isRelease : Instr → Bool
  | .stRel _ _ _ => true
  | .atom _ _ r _ _ => r.getLsbD 1
  | .atomu _ _ r _ _ => r.getLsbD 1
  | .red _ _ r _ _ => r ≠ 0
  | _ => false

/-- An RC store to memory (R160, R177). -/
def Access.isRcStore (a : Access) : Bool :=
  a.op.mayWrite && a.cap.ord = 1 && !a.isSo && match a.place with
    | .spad _ _ => false
    | .nowhere => false
    | _ => true

/-- Whether a team's word is ordered as a release: one of R166, or an RC store in fence-strengthening mode (R177). -/
def State.releases (s : State) (n : Nat) (i : Instr) (accs : List Access) : Bool :=
  isRelease i || ((s.shop? (shopOf n)).any Shop.rev2 && accs.any Access.isRcStore)

/-- Whether a word's accesses have to wait for stores of its team: an SO or SY access for such a store at a peer, and at a peer for every SO
or SY store, so that S keeps program order (R161); a release for the stores at peers, and at a peer for every earlier store (R166,
R173). -/
def State.soWaits (s : State) (n : Nat) (i : Instr) (accs : List Access) : Bool :=
  let out := ((s.team? n).map Team.outStores).getD []
  ((accs.any Access.isSo) && out.any fun o => o.isSo && o.isPeer) || ((accs.any fun a => a.unsent && a.isSo) && out.any OutStore.isSo) ||
    (s.releases n i accs && (out.any OutStore.isPeer || (accs.any Access.unsent && out ≠ [])))

/-- Whether a word's stores count as stores for WAITC: ATOM and ATOMU count as loads (R306). -/
def countsAsStore : Instr → Bool
  | .atom _ _ _ _ _ => false
  | .atomu _ _ _ _ _ => false
  | _ => true

/-- DELEG adds the mailbox's device to the export set once it has stored (R71). -/
def State.delegated (s : State) (i : Instr) (accs : List Access) : State :=
  match i, accs with
  | .deleg _ _ _, a :: _ =>
    if a.cap.dev = s.devId.toNat then s else { s with expset := Sparse.set false s.expset a.cap.dev true }
  | _, _ => s

/-- Complete a word whose accesses can all be performed and which makes no more: a fault of returned data, or the effect. -/
def State.finishLast (s : State) (x : Ctx) (i : Instr) (accs : List Access) : Effect :=
  match s.returnFaults accs with
  | some e => .error e
  | none =>
    let r := s.performAll accs
    let t0 := (r.1.team? x.n).getD x.t
    let t := memFinish r.1 i x r.2 t0
    .ok (((r.1.setTeam x.n { t with wait := .none, outStores := t.outStores ++ (if countsAsStore i then s.storesOf accs else []) }).dropReqs accs).delegated i accs, .next)

/-- Send the requests of a word's accesses, or go on with `fin` when they can all be performed, or wait (R279, R355). -/
def State.startWith (s : State) (x : Ctx) (i : Instr) (accs : List Access) (late : Bool) (fin : Effect) : Effect :=
  if s.soWaits x.n i accs then .ok (s.updTeam x.n fun t => { t with wait := .access i accs }, .stay)
  else if accs.any Access.unsent then
    let p := s.sendReqs x accs
    .ok (p.1.updTeam x.n fun t => { t with wait := .access i p.2 }, .stay)
  else if accs.all s.accessReady && !(late && accs.any Access.isHomeLoad) then fin
  else .ok (s.updTeam x.n fun t => { t with wait := .access i accs }, .stay)

/-- Complete a word whose accesses can all be performed, or go on with those that its reads decide. -/
def State.finishWord (s : State) (x : Ctx) (i : Instr) (accs : List Access) : Effect :=
  if readsFirst i accs then
    match s.returnFaults accs with
    | some e => .error e
    | none =>
      let reads := accs.filter fun a => a.op.reads
      let r := s.performAll reads
      let more := narrowWrites i x r.2 accs
      let s1 := r.1.dropReqs reads
      s1.startWith x i more false (s1.finishLast x i more)
  else s.finishLast x i accs

/-- Start the accesses of a word; under `late` this device's loads return by LOAD_DATA_RETURN. -/
def State.startWord (s : State) (x : Ctx) (i : Instr) (accs : List Access) : Effect :=
  s.startWith x i accs s.late (s.finishWord x i accs)

/-- A word that accesses memory. -/
def memStep (i : Instr) (plan : Ctx → State → Except Trap (List Access)) (s : State) : Host.Outcome State Fault Refusal :=
  wordStep i (fun x s => match plan x s with
    | .error e => .error e
    | .ok accs => s.startWord x i accs) s

/-- Go on with the accesses of a waiting team, if all of them can be performed now: the word completes or faults. -/
def State.resumeAccess (s : State) (n : Nat) : Option State :=
  match s.ctx? n with
  | none => none
  | some x =>
    match x.t.wait with
    | .access i accs =>
      if accs.all s.accessReady && !s.soWaits n i accs then
        match s.finishWord x i accs with
        | .ok (s1, f) => some (s1.settle n x.sh.lanes i f)
        | .error e =>
          let acked := accs.filter fun a => a.op.mayWrite && a.isRemote && (s.returnFault a).isNone
          let s1 := if countsAsStore i then s.updTeam n fun t => { t with outStores := t.outStores ++ s.storesOf acked } else s
          some ((s1.dropReqs accs).takeFault n e (BitVec.ofNat 32 (encodeNat i)) (literalOf i))
      else none
    | _ => none

/-! ### The words -/

/-- LD. -/
def execLd (d : BitVec 8) (m : CapRef) (o : BitVec 8) : State → Host.Outcome State Fault Refusal :=
  memStep (.ld d m o) fun x s => planLoad x s false d m o
/-- LD.ACQ. -/
def execLdAcq (d : BitVec 8) (m : CapRef) (o : BitVec 8) : State → Host.Outcome State Fault Refusal :=
  memStep (.ldAcq d m o) fun x s => planLoad x s true d m o
/-- LDV. -/
def execLdv (d : BitVec 8) (c : BitVec 5) (o : BitVec 6) : State → Host.Outcome State Fault Refusal :=
  memStep (.ldv d c o) fun x s => planStream x s false d c o
/-- LDU. -/
def execLdu (d : BitVec 6) (c : BitVec 5) (o : BitVec 6) : State → Host.Outcome State Fault Refusal :=
  memStep (.ldu d c o) fun x s => planUniform x s false d c o
/-- LDW. -/
def execLdw (d : BitVec 8) (m : CapRef) (o : BitVec 8) : State → Host.Outcome State Fault Refusal :=
  memStep (.ldw d m o) fun x s => planWiden x s d m o
/-- ST. -/
def execSt (d : BitVec 8) (m : CapRef) (o : BitVec 8) : State → Host.Outcome State Fault Refusal :=
  memStep (.st d m o) fun x s => planStore x s false d m o
/-- ST.REL. -/
def execStRel (d : BitVec 8) (m : CapRef) (o : BitVec 8) : State → Host.Outcome State Fault Refusal :=
  memStep (.stRel d m o) fun x s => planStore x s true d m o
/-- STV. -/
def execStv (d : BitVec 8) (c : BitVec 5) (o : BitVec 6) : State → Host.Outcome State Fault Refusal :=
  memStep (.stv d c o) fun x s => planStream x s true d c o
/-- STU. -/
def execStu (d : BitVec 6) (c : BitVec 5) (o : BitVec 6) : State → Host.Outcome State Fault Refusal :=
  memStep (.stu d c o) fun x s => planUniform x s true d c o
/-- STN. -/
def execStn (d : BitVec 8) (m : CapRef) (o : BitVec 8) : State → Host.Outcome State Fault Refusal :=
  memStep (.stn d m o) fun x s => planNarrow x s d m o
/-- LDQ. -/
def execLdq (q m : CapRef) (o : BitVec 8) : State → Host.Outcome State Fault Refusal :=
  memStep (.ldq q m o) fun x s => planLoadQuad x s q m o
/-- STQ. -/
def execStq (q m : CapRef) (o : BitVec 8) : State → Host.Outcome State Fault Refusal :=
  memStep (.stq q m o) fun x s => planStoreQuad x s q m o
/-- BSLD. -/
def execBsld (q : BitVec 8) (c : BitVec 5) (h : BitVec 4) : State → Host.Outcome State Fault Refusal :=
  memStep (.bsld q c h) fun x s => planRefill x s q c
/-- ATOM. -/
def execAtom (p n : BitVec 4) (r : BitVec 2) (c : BitVec 5) (o : BitVec 8) : State → Host.Outcome State Fault Refusal :=
  memStep (.atom p n r c o) fun x s => planAtomic x s p n (r ≠ 0) 4 c o
/-- ATOMU. -/
def execAtomu (p m : BitVec 4) (r : BitVec 2) (c : BitVec 5) (o : BitVec 6) : State → Host.Outcome State Fault Refusal :=
  memStep (.atomu p m r c o) fun x s => planAtomicU x s p m (r ≠ 0) c o
/-- RED. -/
def execRed (p n : BitVec 4) (r : BitVec 1) (c : BitVec 5) (o : BitVec 8) : State → Host.Outcome State Fault Refusal :=
  memStep (.red p n r c o) fun x s => planAtomic x s p n (r ≠ 0) 2 c o

/-- PRF: checks that raise nothing and a prefetch that has no architectural effect (R283). -/
def execPrf (l : BitVec 1) (m : CapRef) (o : BitVec 8) : State → Host.Outcome State Fault Refusal :=
  laneStep (.prf l m o) (fun x => both (needCap x m) (needV x false o.toNat)) fun _ _ t => t

/-- DEAD (R284): HBM is declared dead; in the host window the range is written as zero. -/
def execDead (l : BitVec 6) (c : BitVec 5) (o : BitVec 6) : State → Host.Outcome State Fault Refusal :=
  wordStep (.dead l c o) fun x s =>
    let n := (x.t.rdS l.toNat).toNat
    let off := (x.t.rdS o.toNat).toNat
    let cap := x.t.rdC c.toNat
    let use : Use := ⟨[kData], false, pST, false, true⟩
    -- a misaligned length fails at step 8, before the COW of step 9
    let judged := if n % 16 = 0 then cap else { cap with perm := cap.perm &&& ~~~pCW }
    match x.place s use judged 0 1 c.toNat off n 16 with
    | .error e => .error e
    | .ok (p, addr) =>
      if n % 16 ≠ 0 then .error ⟨.align, 0, 8, 1, c.toNat, false, off, addr, 0⟩
      else if n = 0 then .ok (s, .next)
      else match p with
        | .home a => match s.region a with
          | .hbm =>
            if cap.isSo && x.t.outStores.any fun o => o.isSo && o.isPeer then s.block x (.dead l c o) false
            else .ok (((s.declareDead a n).markSy cap off n).updTeam x.n fun t =>
              { t with wait := .none, outStores := t.outStores ++ [.dead a n cap.isSo] }, .next)
          | .host _ => s.startWord x (.dead l c o) [⟨0, p, n, .write (List.replicate n 0), cap, 1, c.toNat, off, addr⟩]
          | _ => .ok (s, .next)
        | _ => .ok (s, .next)

/-! ### The steps that complete a word -/

/-- LOAD_DATA_RETURN (R279): the loads of a word that left them outstanding return. -/
def execLoadDataReturn (n : Nat) (s : State) : Host.Outcome State Fault Refusal :=
  match s.team? n with
  | none => .fault .notEnabled
  | some t =>
    match t.wait with
    | .access _ accs =>
      if accs.any Access.isRemote then .fault .notEnabled
      else match s.resumeAccess n with
        | some s1 => .next s1
        | none => .fault .notEnabled
    | _ => .fault .notEnabled

/-- A team's stores that are still unacknowledged; a word that had to wait for one of the others goes on: its requests are sent, or it is
performed (R161, R166). -/
def State.acked (s : State) (n : Nat) (t : Team) (out : List OutStore) : State :=
  let s1 := s.setTeam n { t with outStores := out }
  match t.wait with
  | .access i accs =>
    if s.soWaits n i accs && !s1.soWaits n i accs then
      (if accs.any Access.unsent then
        match s1.ctx? n with
        | some x =>
          let p := s1.sendReqs x accs
          p.1.updTeam n fun y => { y with wait := .access i p.2 }
        | none => s1
      else (s1.resumeAccess n).getD s1)
    else s1
  | _ => s1

/-- STORE_ACK (R279): the team's oldest unacknowledged store is acknowledged. -/
def execStoreAck (n : Nat) (s : State) : Host.Outcome State Fault Refusal :=
  match s.team? n with
  | none => .fault .notEnabled
  | some t => if t.outStores.any OutStore.isStore then .next (s.acked n t (dropStore t.outStores)) else .fault .notEnabled
where
  /-- The list without its first store. -/
  dropStore : List OutStore → List OutStore
    | [] => []
    | .dead a n so :: os => .dead a n so :: dropStore os
    | _ :: os => os

/-- DEAD_COMPLETE (R151): the team's oldest DEAD completes. -/
def execDeadComplete (n : Nat) (s : State) : Host.Outcome State Fault Refusal :=
  match s.team? n with
  | none => .fault .notEnabled
  | some t =>
    if t.outStores.any isDead then .next (s.acked n t (dropDead t.outStores)) else .fault .notEnabled
where
  /-- A DEAD entry. -/
  isDead : OutStore → Bool
    | .dead _ _ _ => true
    | _ => false
  /-- The list without its first DEAD. -/
  dropDead : List OutStore → List OutStore
    | [] => []
    | .dead _ _ _ :: os => os
    | o :: os => o :: dropDead os

end Sys2Proof.Machine
end

