-- ==== Sys2Proof/Machine/Capability.lean ====
section
/-!
DEFINITION. Capability words (R59 to R71, R285 to R294), and REVOKE and SWEEPQ (R73 to R76, R295).
-/

namespace Sys2Proof.Machine

/-! ### Derivations (R59, R286) -/

/-- A fault of a word about the capability in c`creg`. -/
def capTrap (code : FaultCode) (lane creg off : Nat) : Trap := ⟨code, lane, 0, 1, creg, false, off, 0, 0⟩

/-- R65 steps 1 to 6 for a use of c`creg` that is no access. -/
def Ctx.capCheck (x : Ctx) (s : State) (u : Use) (lane creg : Nat) : Except Trap Unit :=
  match s.capFails x.sh.band u (x.t.rdC creg) false with
  | some f => .error (f.noAccess.trap lane 1 creg 0 0)
  | none => .ok ()

/-- The order change that R59 allows. -/
def ordReach (a b : BitVec 2) : Bool := a = b || (a = 0 && (b = 1 || b = 2)) || (a = 1 && b = 2)

/-- The region of a derivation: offset and length in the source (R287). -/
def boundCap (lanes : Nat) (c : Cap) (o n : Nat) : Except FaultCode Cap :=
  if c.len < o + n then .error .bounds
  else if (c.addr + o) % 16 ≠ 0 then .error .represent
  else match c.withLen n with
    | none => .error .represent
    | some d =>
      if c.kind = kPrivate ∧ (o % (16 * lanes) ≠ 0 ∨ n % (16 * lanes) ≠ 0) then .error .represent
      else .ok { d with base := BitVec.ofNat 53 ((c.addr + o) / 16) }

/-- The fault of a region: FOFF holds the requested length for REPRESENT (R181). -/
def boundTrap (e : FaultCode) (lane creg n : Nat) : Trap := capTrap e lane creg (if e = .represent then n else 0)

/-- A derivation into a uniform register. -/
def deriveStep (i : Instr) (d a : BitVec 5) (f : Ctx → Cap → Except Trap Cap) : State → Host.Outcome State Fault Refusal :=
  wordStep i fun x s =>
    match x.capCheck s .derive 0 a.toNat with
    | .error e => .error e
    | .ok () => match f x (x.t.rdC a.toNat) with
      | .error e => .error e
      | .ok c => .ok (s.setTeam x.n (x.t.wrC d.toNat c), .next)

/-- PBOUND (R287). -/
def execPbound (d a : BitVec 5) (b : BitVec 6) : State → Host.Outcome State Fault Refusal :=
  deriveStep (.pbound d a b) d a fun x c =>
    let n := (x.t.rdS (b.toNat + 1)).toNat
    match boundCap x.sh.lanes c (x.t.rdS b.toNat).toNat n with
    | .ok r => .ok r
    | .error e => .error (boundTrap e 0 a.toNat n)

/-- PBOUNDV: the derivation in each lane of the execution mask (R287). -/
def execPboundv (q : BitVec 8) (a : BitVec 5) (b : BitVec 8) : State → Host.Outcome State Fault Refusal :=
  wordStep (.pboundv q a b) fun x s =>
    match both (needRange x q.toNat 4) (needRange x b.toNat 2) with
    | .error e => .error e
    | .ok () =>
      let c := x.t.rdC a.toNat
      let len (l : Nat) : Nat := (x.t.rdV l (b.toNat + 1)).toNat
      let get (l : Nat) : Except FaultCode Cap := boundCap x.sh.lanes c (x.t.rdV l b.toNat).toNat (len l)
      match checkLanes (fun l => both (x.capCheck s .derive l a.toNat) (match get l with
        | .ok _ => .ok ()
        | .error e => .error (boundTrap e l a.toNat (len l)))) x.lanes with
      | .error e => .error e
      | .ok () => .ok (s.setTeam x.n (forLanes (fun l t => match get l with
          | .ok r => t.wrQuad l (q.toNat / 4) r
          | .error _ => t) x.lanes x.t), .next)

/-- PPERM (R288). -/
def execPperm (d a : BitVec 5) (b : BitVec 6) : State → Host.Outcome State Fault Refusal :=
  deriveStep (.pperm d a b) d a fun x c =>
    let r := x.t.rdS b.toNat
    let kept := c.perm &&& (r.setWidth 12 &&& ~~~pCW)
    if r.getLsbD 13 then
      (if c.band = 0 then .ok { c with perm := kept } else .error (capTrap .perm 0 a.toNat 0))
    else .ok { c with perm := kept ||| (if c.has pCW || r.getLsbD 12 then pCW else 0) }

/-- Whether the FMT and GEO change is allowed (R59). -/
def fmtReach (c : Cap) (fmt : BitVec 6) (geo : BitVec 2) : Bool := c.fmt = 0 || (fmt = c.fmt && geo = c.geo)

/-- Whether PFORM may give the KIND `k` to a source (R59, R289). -/
def kindReach (c : Cap) (k : BitVec 4) : Bool :=
  decide (k.toNat < 6) && (k = c.kind || (c.band = 0 && c.kind = kData && (k = kCode || k = kCommand || k = kLayout || k = kGroup)))

/-- PFORM (R289). -/
def execPform (d a : BitVec 5) (b : BitVec 6) : State → Host.Outcome State Fault Refusal :=
  deriveStep (.pform d a b) d a fun x c =>
    let r := (x.t.rdS b.toNat).toNat
    let fmt := BitVec.ofNat 6 r
    let geo := BitVec.ofNat 2 (r / 2 ^ 6)
    let ord := BitVec.ofNat 2 (r / 2 ^ 8)
    let full : Bool := r / 2 ^ 10 % 2 = 1
    let band := if full then BitVec.ofNat 8 (r / 2 ^ 11) else c.band
    let kind := if full then BitVec.ofNat 4 (r / 2 ^ 19) else c.kind
    if c.band ≠ 0 ∧ !fmtReach c fmt geo then .error (capTrap .format 0 a.toNat 0)
    else if c.band ≠ 0 ∧ !ordReach c.ord ord then .error (capTrap .perm 0 a.toNat 0)
    else if c.band ≠ 0 ∧ band ≠ c.band then .error (capTrap .band 0 a.toNat 0)
    else if full ∧ !kindReach c kind then .error (capTrap .kind 0 a.toNat 0)
    else .ok { c with fmt := fmt, geo := geo, ord := ord, band := band, kind := kind }

/-! ### Sealing (R68, R69, R290) -/

/-- The KINDs that PLOCK and DELEG seal. -/
def sealKind (k : BitVec 4) : Bool := k = kData || k = kCode || k = kCommand || k = kLayout || k = kGroup

/-- Add a device to the export set (R78). -/
def State.addExport (s : State) (dev : Nat) : State :=
  if dev = s.devId.toNat then s else { s with expset := Sparse.set false s.expset dev true }

/-- Whether a target is shut off: another device while DEVID is not written (R402). -/
def State.targetShut (s : State) (target : Nat) : Bool := !s.devSet && decide (target ≠ s.devId.toNat)

/-- PLOCK: the checks of R290, then SEALED for another device before DEVID is written (R402). -/
def execPlock (d a : BitVec 5) (b : BitVec 6) : State → Host.Outcome State Fault Refusal :=
  wordStep (.plock d a b) fun x s =>
    let c := x.t.rdC a.toNat
    let target := (x.t.rdS b.toNat).toNat % 2 ^ 14
    match x.capCheck s .derive 0 a.toNat with
    | .error e => .error e
    | .ok () =>
      if !sealKind c.kind then .error (capTrap .kind 0 a.toNat 0)
      else if !c.has pSEAL ∨ (target ≠ s.devId.toNat ∧ !c.has pEXPORT) then .error (capTrap .perm 0 a.toNat 0)
      else if s.targetShut target then .error (capTrap .sealed 0 a.toNat 0)
      else .ok ((s.addExport target).setTeam x.n (x.t.wrC d.toNat (c.seal target)), .next)

/-- PUNLOCK. -/
def execPunlock (d a : BitVec 5) (h : BitVec 4) : State → Host.Outcome State Fault Refusal :=
  wordStep (.punlock d a h) fun x s =>
    let c := x.t.rdC a.toNat
    let own := s.devId.toNat
    if !c.tag then .error (capTrap .tag 0 a.toNat 0)
    else if c.kind ≠ kSealed ∨ c.target ≠ own ∨ c.dev ≠ own then .error (capTrap .sealed 0 a.toNat 0)
    else if !c.has pUNSEAL then .error (capTrap .perm 0 a.toNat 0)
    else if x.sh.band ≠ 0 ∧ c.band ≠ x.sh.band then .error (capTrap .band 0 a.toNat 0)
    else .ok (s.setTeam x.n (x.t.wrC d.toNat c.unseal), .next)

/-! ### Inspection (R291, R292) and PMOV (R293) -/

/-- A field of PINFO. -/
def Cap.info (c : Cap) (f : Nat) : W64 :=
  match f with
  | 0 => c.kind.setWidth 64
  | 1 => c.band.setWidth 64
  | 2 => c.perm.setWidth 64
  | 3 => c.fmt.setWidth 64
  | 4 => c.geo.setWidth 64
  | 5 => c.ord.setWidth 64
  | 6 => BitVec.ofNat 64 c.addr
  | 7 => BitVec.ofNat 64 c.len
  | 8 => if c.tag then 1 else 0
  | 9 => c.aux.setWidth 64
  | _ => BitVec.ofNat 64 (c.addr + c.len)

/-- PINFO. -/
def execPinfo (d : BitVec 6) (a : BitVec 5) (f : BitVec 4) : State → Host.Outcome State Fault Refusal :=
  teamStep (.pinfo d a f) fun x => .ok (x.t.wrS d.toNat ((x.t.rdC a.toNat).info f.toNat))

/-- A verdict word from its bits, the lowest first. -/
def verdict : List Bool → Nat
  | [] => 0
  | b :: bs => b.toNat + 2 * verdict bs

/-- The verdict of PWITHIN: whether `b` could be derived from `a` by a band 1..255 derivation. -/
def withinVerdict (a b : Cap) : Nat :=
  let bits := [a.tag && b.tag, a.kind ≠ kSealed && b.kind ≠ kSealed, a.band = b.band && a.kind = b.kind,
    regionWithin b.addr b.len a.addr a.len,
    (b.perm &&& ~~~pCW) &&& ~~~a.perm = 0 && (!a.has pCW || b.has pCW),
    fmtReach a b.fmt b.geo && ordReach a.ord b.ord]
  verdict (bits ++ [false, bits.all id])

/-- PWITHIN. -/
def execPwithin (d : BitVec 6) (a b : BitVec 5) : State → Host.Outcome State Fault Refusal :=
  teamStep (.pwithin d a b) fun x => .ok (x.t.wrS d.toNat (BitVec.ofNat 64 (withinVerdict (x.t.rdC a.toNat) (x.t.rdC b.toNat))))

/-- PSAME. -/
def execPsame (d : BitVec 6) (a b : BitVec 5) : State → Host.Outcome State Fault Refusal :=
  teamStep (.psame d a b) fun x =>
    let c := x.t.rdC a.toNat
    let e := x.t.rdC b.toNat
    .ok (x.t.wrS d.toNat (BitVec.ofNat 64 (verdict [decide (c.toNat = e.toNat), c.tag = e.tag, decide (c.toNat = e.toNat) && c.tag = e.tag])))

/-- PMOV: c to c, c to the quad of each lane of the execution mask, quad to quad lane by lane; poison moves with the data (R186). -/
def execPmov (d a : CapRef) (h : BitVec 4) : State → Host.Outcome State Fault Refusal :=
  teamStep (.pmov d a h) fun x =>
    match both (needCap x d) (needCap x a) with
    | .error e => .error e
    | .ok () => match d with
      | .c r => .ok ((x.t.wrC r.toNat (x.operand a 0).1).soilCap r.toNat (x.operandPoison a 0))
      | .quad q => .ok (forLanes (fun l t => (t.wrQuad l q.toNat (x.operand a l).1).setQuadPoison l q.toNat (x.operandPoison a l)) x.lanes x.t)

/-! ### DELEG (R71, R294) -/

/-- The launch of a shop. -/
def State.launchOf (s : State) (x : Shop) : Option Launch := x.launch.bind (Sparse.look s.launches)

/-- delegation_allowed (R71), by the DELEGMAP under which the issuing shop's launch was accepted (R397). -/
def State.delegAllowed (s : State) (x : Shop) (b n : BitVec 8) : Bool :=
  x.band = 0 || (b ≠ 0 && b ≠ 255 && match s.launchOf x with
    | some l => l.deleg.getLsbD n.toNat
    | none => false)

/-- The accesses of DELEG: one capability store into the mailbox. -/
def planDeleg (x : Ctx) (s : State) (m a : BitVec 5) (b : BitVec 6) : Except Trap (List Access) :=
  let src := x.t.rdC a.toNat
  let mbox := x.t.rdC m.toNat
  let off := (x.t.rdS (b.toNat + 1)).toNat
  let srcFault : Except Trap Unit := match s.capFails x.sh.band .derive src false with
    | some f => if f.code = .quarantine then .ok () else .error (f.noAccess.trap 0 1 a.toNat 0 0)
    | none => .ok ()
  match srcFault with
  | .error e => .error e
  | .ok () =>
    if !sealKind src.kind then .error (capTrap .kind 0 a.toNat 0)
    else if !src.has pSEAL ∨ (mbox.dev ≠ s.devId.toNat ∧ !src.has pEXPORT) then .error (capTrap .perm 0 a.toNat 0)
    else if s.targetShut mbox.dev then .error (capTrap .sealed 0 m.toNat 0)
    else match x.access s ⟨privKinds, true, pST ||| pSTC, false, true⟩ (.c m) 0 off 16 16 (.writeCap Cap.null) with
      | .error e => .error e
      | .ok acc =>
        if mbox.band ≠ src.band ∧ !s.delegAllowed x.sh src.band mbox.band then .error (capTrap .band 0 a.toNat 0)
        else
          let mask := (x.t.rdS b.toNat).setWidth 12 ||| pCW
          let c := ({ src with perm := src.perm &&& mask, band := mbox.band } : Cap).seal mbox.dev
          .ok [{ acc with op := .writeCap (s.moved c) }]

/-- DELEG: the store, and the device of the mailbox in the export set (R78). -/
def execDeleg (m a : BitVec 5) (b : BitVec 6) (s : State) : Host.Outcome State Fault Refusal :=
  memStep (.deleg m a b) (fun x s => planDeleg x s m a b) s

/-! ### Revocation (R73 to R76, R295) -/

/-- The pass that a range posted now belongs to (R76). -/
def State.postPass (s : State) : Nat := if s.lehr = .idle then s.lehrDone + 1 else s.lehrDone + 2

/-- Whether the filter takes an entry of a band that may hold `most` (R75). -/
def State.filterTakes (s : State) (band : BitVec 8) (most : Nat) : Bool :=
  decide (s.quar.length < 32) && (band = 0 || decide ((s.quar.filter fun q => q.band = band).length < most))

/-- Post a region: the entry, and a pass that starts at once when none runs. -/
def State.post (s : State) (c : Cap) (band : BitVec 8) : State :=
  { s with quar := s.quar ++ [⟨c.addr, c.addr + c.len, band, s.postPass⟩], lehr := if s.lehr = .idle then .waiting else s.lehr }

/-- The smallest representable length not below `n` (R57). -/
def plenUp (n : Nat) : Nat :=
  let u := (n + 15) / 16
  let e := Nat.log2 u + 1 - 10
  (u + 2 ^ e - 1) / 2 ^ e * 2 ^ e * 16

/-- The capability over a code image: KIND code, LD and EX, ORD SO. -/
def codeCap (band : BitVec 8) (dev : BitVec 14) (base len : Nat) : Cap :=
  let f := (lenFields (plenUp len)).getD (0, 0)
  { kind := kCode, band := band, perm := pLD ||| pEX, fmt := 0, geo := 0, ord := 2, lexp := f.1, lman := f.2
    base := BitVec.ofNat 53 (dev.toNat * 2 ^ 39 + base / 16), aux := 0, tag := true }

/-- Whether no entry of any band's code table designates an image (R384). -/
def State.unused (s : State) (k : Nat) : Bool := !(s.codes.any fun e => e.2.image = k)

/-- The loader frees the images that no entry designates and revokes their regions, as band 0, as far as the filter has room (R75, R384). -/
def State.freeImages (s : State) : State :=
  let gone := (s.images.filter fun e => s.unused e.1).take (32 - s.quar.length)
  gone.foldl (fun s e => s.post (codeCap 255 s.devId e.2.base e.2.len) 0)
    { s with images := s.images.filter fun e => !(gone.any fun d => d.1 = e.1) }

/-- REVOKE: R65 steps 1 to 5 with band 255 refused; an entry that holds the range already does not stop it (R77). -/
def execRevoke (d : BitVec 6) (a : BitVec 5) (h : BitVec 4) : State → Host.Outcome State Fault Refusal :=
  wordStep (.revoke d a h) fun x s =>
    let c := x.t.rdC a.toNat
    match s.capFails x.sh.band ⟨[kData], false, pDERIVE, false, false⟩ c false with
    | some f =>
      if f.code = .quarantine then go x s c else .error (f.noAccess.trap 0 1 a.toNat 0 0)
    | none => go x s c
where
  /-- Post, or wait for an entry. -/
  go (x : Ctx) (s : State) (c : Cap) : Effect :=
    if s.filterTakes x.sh.band (((s.launchOf x.sh).map Launch.quar).getD 0) then
      .ok ((s.post c x.sh.band).setTeam x.n (x.awake.wrS d.toNat (BitVec.ofNat 64 s.postPass)), .next)
    else s.block x (.revoke d a h) false

/-- SWEEPQ: the number of the last completed pass; an acquire with MODE's scope. -/
def execSweepq (d : BitVec 6) (h : BitVec 4) : State → Host.Outcome State Fault Refusal :=
  wordStep (.sweepq d h) fun x s =>
    match x.needScope s x.t.scope with
    | .error e => .error e
    | .ok () => .ok (s.setTeam x.n (x.t.wrS d.toNat (BitVec.ofNat 64 s.lehrDone)), .next)

end Sys2Proof.Machine
end

