-- ==== Sys2Proof/Machine/Control.lean ====
section
/-!
DEFINITION. Control transfer, loops, the end of lanes and teams, MODE, priority, roles, crews, breakpoints and system
registers (R96 to R106, R189, R263 to R269, R271 to R274).
-/

namespace Sys2Proof.Machine

/-! ### Branches (R263, R264) -/

/-- A word that only moves PC. -/
def flowStep (i : Instr) (f : Ctx → Except Trap Flow) (s : State) : Host.Outcome State Fault Refusal :=
  wordStep i (fun x s => match f x with
    | .ok g => .ok (s, g)
    | .error e => .error e) s

/-- PC + 4 × disp. -/
def branchTo (t : Team) (disp : W64) : W64 := t.pc + 4 * disp

/-- A relative branch taken under a condition. -/
def branchStep (i : Instr) (disp : W64) (c : Ctx → Bool) : State → Host.Outcome State Fault Refusal :=
  flowStep i fun x => .ok (if c x then .goto (branchTo x.t disp) else .next)

/-- BRA. -/
def execBra (i : BitVec 24) : State → Host.Outcome State Fault Refusal := branchStep (.bra i) (i.signExtend 64) fun _ => true
/-- BANY. -/
def execBany (k : BitVec 3) (i : BitVec 16) : State → Host.Outcome State Fault Refusal :=
  branchStep (.bany k i) (i.signExtend 64) fun x => decide (x.t.rdK k.toNat &&& x.exec ≠ 0)
/-- BALL. -/
def execBall (k : BitVec 3) (i : BitVec 16) : State → Host.Outcome State Fault Refusal :=
  branchStep (.ball k i) (i.signExtend 64) fun x => decide (x.exec &&& ~~~(x.t.rdK k.toNat) = 0)
/-- BNONE. -/
def execBnone (k : BitVec 3) (i : BitVec 16) : State → Host.Outcome State Fault Refusal :=
  branchStep (.bnone k i) (i.signExtend 64) fun x => decide (x.t.rdK k.toNat &&& x.exec = 0)
/-- BRS. -/
def execBrs (r : BitVec 6) (i : BitVec 16) : State → Host.Outcome State Fault Refusal :=
  branchStep (.brs r i) (i.signExtend 64) fun x => decide (x.t.rdS r.toNat ≠ 0)
/-- BRS.Z. -/
def execBrsZ (r : BitVec 6) (i : BitVec 16) : State → Host.Outcome State Fault Refusal :=
  branchStep (.brsZ r i) (i.signExtend 64) fun x => decide (x.t.rdS r.toNat = 0)

/-- JMP and RET: ALIGN at the word when the target is no word address. -/
def jumpStep (i : Instr) (r : BitVec 6) : State → Host.Outcome State Fault Refusal :=
  flowStep i fun x => if (x.t.rdS r.toNat).toNat % 4 ≠ 0 then .error (.plain .align) else .ok (.goto (x.t.rdS r.toNat))

/-- JMP. -/
def execJmp (r : BitVec 6) (h : BitVec 4) : State → Host.Outcome State Fault Refusal := jumpStep (.jmp r h) r
/-- RET. -/
def execRet (r : BitVec 6) (h : BitVec 4) : State → Host.Outcome State Fault Refusal := jumpStep (.ret r h) r
/-- CALL: sd := PC + 4. -/
def execCall (d : BitVec 6) (i : BitVec 16) : State → Host.Outcome State Fault Refusal :=
  wordStep (.call d i) fun x s => .ok (s.setTeam x.n (x.t.wrS d.toNat (x.t.pc + 4)), .goto (branchTo x.t (i.signExtend 64)))

/-! ### Loops (R266) -/

/-- REP. -/
def execRep (r : BitVec 6) (len : BitVec 8) : State → Host.Outcome State Fault Refusal :=
  wordStep (.rep r len) fun x s =>
    let n := x.t.rdS r.toNat
    let stop := x.t.pc + 4 + BitVec.ofNat 64 (4 * len.toNat)
    if n = 0 then .ok (s, .goto stop)
    else .ok (s.setTeam x.n { x.t with loop := { x.t.loop with rep := some ⟨x.t.pc + 4, stop, n, 0⟩ } }, .next)

/-- LOOPB. -/
def execLoopb (k : BitVec 3) (len : BitVec 8) : State → Host.Outcome State Fault Refusal :=
  wordStep (.loopb k len) fun x s =>
    .ok (s.setTeam x.n { x.t with loop := { x.t.loop with
      lb := some ⟨x.t.pc + 4, x.t.pc + 4 + BitVec.ofNat 64 (4 * len.toNat), k, 0⟩ } }, .next)

/-! ### Ending and yielding (R106, R268, R269) -/

/-- ILL, the all-zero word and every other word of opcode 0x00: ILLEGAL_OPCODE (R204, R268). -/
def execIll (d a b : BitVec 8) : State → Host.Outcome State Fault Refusal :=
  flowStep (.ill d a b) fun _ => .error (.plain .illegalOpcode)

/-- NOP. -/
def execNop (h : BitVec 4) : State → Host.Outcome State Fault Refusal := flowStep (.nop h) fun _ => .ok .next

/-- EXIT: k0 := k0 AND NOT exec(k); the team ends when that empties k0. -/
def execExit (h : BitVec 4) : State → Host.Outcome State Fault Refusal :=
  wordStep (.exit h) fun x s =>
    if x.exec = 0 then .ok (s, .next)
    else
      let s1 := s.setTeam x.n (x.t.wrK x.sh.lanes 0 (x.t.rdK 0 &&& ~~~x.exec))
      if x.t.rdK 0 &&& ~~~x.exec = 0 then .ok (s1.endTeam x.n, .stay) else .ok (s1, .next)

/-- END. -/
def execEndTeam (h : BitVec 4) : State → Host.Outcome State Fault Refusal :=
  wordStep (.endTeam h) fun x s => .ok (s.endTeam x.n, .stay)

/-- DLLEFT after a YIELD (`scaled` false) or YIELDC (R106). -/
def Shop.rearm (x : Shop) (field : Nat) (scaled : Bool) : BitVec 16 :=
  if field = 0 then x.deadline
  else if !scaled || x.dlscale.toNat ≤ 1 then BitVec.ofNat 16 (field * 16)
  else BitVec.ofNat 16 (min 65520 (field * 16 * x.dlscale.toNat))

/-- YIELD. -/
def execYield (n : BitVec 12) (h : BitVec 4) : State → Host.Outcome State Fault Refusal :=
  teamStep (.yield n h) fun x => .ok { x.t with dlleft := x.sh.rearm n.toNat false }

/-! ### MODE and priority (R272, R104) -/

/-- MODE := m, or ILLEGAL_FIELD when the value is invalid (R206). -/
def setMode (i : Instr) (m : Team → W32) : State → Host.Outcome State Fault Refusal :=
  teamStep i fun x => if modeValid (m x.t) then .ok { x.t with mode := m x.t } else .error (.plain .illegalField)

/-- SETM. -/
def execSetm (r : BitVec 6) (h : BitVec 4) : State → Host.Outcome State Fault Refusal := setMode (.setm r h) fun t => (t.rdS r.toNat).setWidth 32
/-- SETML. -/
def execSetml (h : BitVec 4) (lit : W32) : State → Host.Outcome State Fault Refusal := setMode (.setml h lit) fun _ => lit
/-- GETM. -/
def execGetm (d : BitVec 6) (h : BitVec 4) : State → Host.Outcome State Fault Refusal :=
  teamStep (.getm d h) fun x => .ok (x.t.wrS d.toNat (x.t.mode.setWidth 64))
/-- SETPRI: the smaller of the operand and PRICAP. -/
def execSetpri (n : BitVec 4) : State → Host.Outcome State Fault Refusal :=
  teamStep (.setpri n) fun x => .ok { x.t with pri := if n ≤ x.t.pricap then n else x.t.pricap }

/-! ### Roles (R102) -/

/-- Bytes of the vector-register section of a shop (R137). -/
def Shop.vregBytes (x : Shop) : Nat := x.ppw.toNat / 2 ^ 24 % 2 ^ 8 * 16384

/-- Free register space of a shop: the section less what its teams that have not ended hold (R102, R111). -/
def State.freeVreg (s : State) (shop : Nat) : Nat :=
  match s.shop? shop with
  | none => 0
  | some x => x.vregBytes - ((s.teamsOf shop).map fun n => match s.team? n with
      | some t => if t.ended then 0 else t.allot * x.lanes * 4
      | none => 0).sum

/-- The team after its switch to role entry `n`, PC excepted. -/
def Team.switchRole (t : Team) (deadline : BitVec 16) (n : BitVec 3) (r : RoleEntry) : Team :=
  { t with v := t.v.filter fun e => e.1 % 256 < min t.allot r.allot
           vtag := t.vtag.filter fun e => 4 * (e.1 % 64) + 3 < min t.allot r.allot
           vpoison := t.vpoison.filter fun e => 4 * (e.1 % 64) + 3 < min t.allot r.allot
           allot := r.allot, pricap := r.ceil, pri := r.pri, roleix := n, dlleft := deadline, wait := .none, yielded := false }

/-- Whether a growing switch has to park (R102): a team of the shop is parked, or the space does not fit. -/
def State.mustPark (s : State) (x : Ctx) (r : RoleEntry) : Bool :=
  decide (x.t.allot < r.allot) && (!x.sh.parked.isEmpty || decide (s.freeVreg (shopOf x.n) < (r.allot - x.t.allot) * x.sh.lanes * 4))

/-- ROLE. -/
def execRole (n : BitVec 3) : State → Host.Outcome State Fault Refusal :=
  wordStep (.role n) fun x s =>
    match x.sh.roles[n.toNat]? with
    | none => .error (.plain .role)
    | some r =>
      if s.mustPark x r then
        .ok ((s.setTeam x.n { x.t with wait := .role n }).updShop (shopOf x.n) fun y => { y with parked := y.parked ++ [x.n] }, .stay)
      else .ok (s.setTeam x.n (x.t.switchRole x.sh.deadline n r), .goto (r.entry.setWidth 64))

/-- ROLE_UNPARK (R102): the oldest parked team of the shop switches once the free space holds its growth. -/
def execRoleUnpark (shop : Nat) (s : State) : Host.Outcome State Fault Refusal :=
  match s.shop? shop with
  | none => .fault .notEnabled
  | some x =>
    match x.parked with
    | [] => .fault .notEnabled
    | n :: rest =>
      match s.team? n with
      | none => .fault .notEnabled
      | some t =>
        match t.wait, x.phase with
        | .role k, .running =>
          match x.roles[k.toNat]? with
          | none => .fault .notEnabled
          | some r =>
            if s.freeVreg shop < (r.allot - t.allot) * x.lanes * 4 then .fault .notEnabled
            else .next ((s.updShop shop fun y => { y with parked := rest }).setTeam n
              ((t.switchRole x.deadline k r).advance x.lanes (.role k) (.goto (r.entry.setWidth 64))))
        | _, _ => .fault .notEnabled

/-! ### Crews (R98) -/

/-- JOIN. -/
def execJoin (n : BitVec 3) : State → Host.Outcome State Fault Refusal :=
  teamStep (.join n) fun x => .ok { x.t with crews := x.t.crews ||| 1#8 <<< n.toNat }

/-- LEAVE: open barriers of the crew see the member leave (R99). -/
def execLeave (n : BitVec 3) : State → Host.Outcome State Fault Refusal :=
  wordStep (.leave n) fun x s =>
    if x.t.crews.getLsbD n.toNat then
      .ok ((s.setTeam x.n { x.t with crews := x.t.crews &&& ~~~(1#8 <<< n.toNat) }).updShop (shopOf x.n) fun y =>
        y.crewLeave n.toNat (teamIx x.n), .next)
    else .ok (s, .next)

/-! ### TRAP, BKPT and ERET (R183, R184, R274) -/

/-- A BREAK with an operand in FAUX. -/
def breakTrap (v : Nat) : Trap := { Trap.plain .brk with aux := v }

/-- TRAP: BREAK outside a handler; inside it the node ends with CAUSE 2. -/
def execTrap (v : BitVec 16) : State → Host.Outcome State Fault Refusal :=
  wordStep (.trap v) fun x s =>
    if x.t.inHandler then
      .ok (s.failNode (shopOf x.n) { (breakTrap v.toNat).nodeEnd x.n x.t (BitVec.ofNat 32 (encodeNat (.trap v))) with
        cause := 2, user := v.toNat }, .stay)
    else .error (breakTrap v.toNat)

/-- BKPT: BREAK; inside a handler that ends the node with CAUSE 3. -/
def execBkpt (v : BitVec 16) : State → Host.Outcome State Fault Refusal := flowStep (.bkpt v) fun _ => .error (breakTrap v.toNat)

/-- ERET: ILLEGAL_FIELD outside a handler, and for an invalid MODE in s62, which inside the handler ends the node. When s57 is the end of a
loop that it restores, that loop repeats or ends as after any word (R266). -/
def execEret (h : BitVec 4) : State → Host.Outcome State Fault Refusal :=
  wordStep (.eret h) fun x s =>
    if x.t.inHandler ∧ modeValid ((x.t.rdS 62).setWidth 32) then
      .ok (s.setTeam x.n ((x.t.leaveHandler x.sh.deadline).loopEnd x.sh.lanes (wordPc (x.t.rdS 57))), .stay)
    else .error (.plain .illegalField)

/-! ### System registers (R96, R189, R273) -/

/-- The value of a system register other than CYC. -/
def Ctx.sysReg (x : Ctx) (n : Nat) : W64 :=
  match n with
  | 0x01 => BitVec.ofNat 64 x.sh.lanes
  | 0x02 => BitVec.ofNat 64 x.sh.span
  | 0x03 => BitVec.ofNat 64 (teamIx x.n)
  | 0x04 => BitVec.ofNat 64 (x.sh.inst % 2 ^ 32)
  | 0x05 => BitVec.ofNat 64 (x.sh.node % 2 ^ 32)
  | 0x06 => BitVec.ofNat 64 (x.sh.core % 2 ^ 16)
  | 0x07 => x.t.pri.setWidth 64
  | 0x08 => x.t.pricap.setWidth 64
  | 0x09 => x.t.dlleft.setWidth 64
  | 0x0A => x.t.roleix.setWidth 64
  | 0x0B => x.t.crews.setWidth 64
  | 0x0C => BitVec.ofNat 64 x.t.allot
  | 0x14 => x.t.bkctl.setWidth 64
  | n => Sparse.get 0 x.t.bkpc (n - 0x10)

/-- RDSR. CYC is a free count that does not fall between reads on one core (log entry 7). -/
def execRdsr (d : BitVec 6) (n : BitVec 8) : State → Host.Outcome State Fault Refusal :=
  wordStep (.rdsr d n) fun x s =>
    if n = 0 then
      let c := Sparse.get 0 s.cyc x.sh.core + BitVec.ofNat 64 (Config.freeChoice s.fresh)
      .ok ({ s with cyc := Sparse.set 0 s.cyc x.sh.core c, fresh := s.fresh + 1 }.setTeam x.n (x.t.wrS d.toNat c), .next)
    else .ok (s.setTeam x.n (x.t.wrS d.toNat (x.sysReg n.toNat)), .next)

/-- WRSR: the breakpoint registers and BKCTL; a non-zero MBZ bit raises ILLEGAL_FIELD. -/
def execWrsr (n : BitVec 8) (r : BitVec 6) (h : BitVec 4) : State → Host.Outcome State Fault Refusal :=
  teamStep (.wrsr n r h) fun x =>
    let v := x.t.rdS r.toNat
    if n = 0x14 then (if v.toNat / 2 ^ 5 = 0 then .ok { x.t with bkctl := v.setWidth 5 } else .error (.plain .illegalField))
    else if v.getLsbD 1 then .error (.plain .illegalField)
    else .ok { x.t with bkpc := Sparse.set 0 x.t.bkpc (n.toNat - 0x10) v }

end Sys2Proof.Machine
end

