-- ==== Sys2Proof/Machine/Engine.lean ====
section
/-!
DEFINITION. What the engines share: the checks of a command at issue (R66, R310, R311), its entry into a queue and its turn
(R168, R309), rows read and written by an engine (R315, R186), and completions (R312, R313).
-/

namespace Sys2Proof.Machine

/-! ### Checks at issue -/

/-- Die of a core (R8). -/
def dieOf (core : Nat) : Nat := if core < 192 then core / 96 else (core - 192) / 48

/-- Whether a core exists. -/
def coreExists (core : Nat) : Bool := decide (core < 288)

/-- Whether [a, a + n) touches the MMIO window. -/
def touchesMmio (a n : Nat) : Bool := decide (a < mmioBase + 0x10000000) && decide (mmioBase < a + n)

/-- Where a capability lies for an engine: an address in its own space, without the device. -/
def Cap.localAt (c : Cap) (off : Nat) : Nat := localOf (wrapAddr (c.addr + off))

/-- R66: steps 1 to 7 and 9 of R65 over the rows (offset, bytes) of a command, and R136 for rows in the MMIO window. -/
def State.engineCheck (s : State) (band : BitVec 8) (u : Use) (c : Cap) (src creg : Nat) (rows : List (Nat × Nat)) : Except Trap Unit :=
  let at_ (r : Nat × Nat) (code : FaultCode) (step : Nat) : Except Trap Unit :=
    .error ⟨code, 0, step, src, creg, false, r.1, wrapAddr (c.addr + r.1), 0⟩
  let first := rows.headD (0, 0)
  let inWin (r : Nat × Nat) : Bool := isGlobal c.kind && touchesMmio (c.localAt r.1) r.2
  match s.capFails band u c (rows.any inWin) with
  | some f => .error (f.trap 0 src creg first.1 (wrapAddr (c.addr + first.1)))
  | none =>
    match rows.find? fun r => decide (c.len < r.1 + r.2) with
    | some r => at_ r .bounds 7
    | none =>
      match rows.find? fun r => inWin r && !((r.2 = 4 || r.2 = 8) && decide (c.localAt r.1 % r.2 = 0)) with
      | some r => at_ r .align 8
      | none =>
        if u.writes ∧ c.has pCW ∧ (c.kind = kData ∨ c.kind = kSealed) then at_ first .cow 9
        else if c.kind = kSealed ∧ !s.devSet then at_ first .remoteAbsent 0
        else .ok ()

/-- The KINDs of copy operands (R314). -/
def copyKinds : List (BitVec 4) := [kData, kLocal]

/-- ENGINE with FAUX 0. -/
def engineBad : Trap := Trap.plain .engine

/-- The eight registers of a command group (R310). -/
structure Group8 where
  /-- s8g. -/
  doff : Nat
  /-- s8g+1. -/
  soff : Nat
  /-- s8g+2. -/
  len : Nat
  /-- s8g+3. -/
  ctl : W64
  /-- s8g+4. -/
  coff : Nat
  /-- s8g+5. -/
  cseq : Nat
  /-- s8g+6. -/
  str : Nat
  /-- s8g+7. -/
  xtr : Nat
deriving DecidableEq, Repr

/-- Read a command group. -/
def Ctx.group8 (x : Ctx) (g : BitVec 3) : Group8 :=
  let r (j : Nat) : W64 := x.t.rdS (8 * g.toNat + j)
  ⟨(r 0).toNat, (r 1).toNat, (r 2).toNat, r 3, (r 4).toNat, (r 5).toNat, (r 6).toNat, (r 7).toNat⟩

/-- A field of the control word. -/
def Group8.field (g : Group8) (lo n : Nat) : Nat := g.ctl.toNat / 2 ^ lo % 2 ^ n

/-- QUEUE. -/
def Group8.queue (g : Group8) : Nat := g.field 0 2

/-- The fields that every form uses: QUEUE, COMPK, CREG. -/
def ctlCommon : W64 := 0x7F003

/-- The control word holds no reserved value, and nothing outside the fields of a mask (R310). -/
def Group8.ctlOk (g : Group8) (mask : W64) : Bool :=
  g.ctl &&& ~~~(ctlCommon ||| mask) = 0 && g.field 12 2 ≠ 3 && (g.field 12 2 ≠ 0 || g.field 14 5 = 0)

/-- COMPK, CREG and QUEUE of a GO, whose other fields are ignored (R324). -/
def Group8.ctlGo (g : Group8) : Bool := g.field 12 2 ≠ 3 && (g.field 12 2 ≠ 0 || g.field 14 5 = 0)

/-- The completion of a command that writes `bytes` bytes, checked (R311). -/
def Ctx.completion (x : Ctx) (s : State) (g : Group8) (bytes : Nat) : Except Trap Completion :=
  let cr := g.field 14 5
  let c := x.t.rdC cr
  match g.field 12 2 with
  | 0 => .ok .none
  | 1 =>
    match x.place s ⟨[kLocal], false, pST, false, true⟩ c 0 1 cr g.coff 16 16 with
    | .error e => .error e
    | .ok _ => if 2 ^ 27 - 1 < bytes then .error engineBad else .ok (.barrier (shopOf x.n) (localOf c.addr + g.coff))
  | _ =>
    match x.place s (.store copyKinds) c 0 1 cr g.coff 8 8 with
    | .error e => .error e
    | .ok _ => if g.cseq / 2 ^ 8 = 2 ^ 56 - 1 then .error engineBad else .ok (.stamp c g.coff g.cseq)

/-! ### Queues -/

/-- Enter a command in a queue of the issuing team (R309). -/
def State.issueCmd (s : State) (x : Ctx) (queue : Nat) (body : CmdBody) (done : Completion) (batch : Nat) : State :=
  { s with nextId := s.nextId + 1
           cmds := s.cmds ++ [⟨s.nextId + 1, some x.n, shopOf x.n, queue, x.sh.band, body, done, batch, false, s.postPass - 1, []⟩] }

/-- Whether an earlier command `d` keeps `c` waiting: the same queue of the same team, or a QFENCE over its queue; the
gaffer's entries and a peer's commands wait for none. -/
def Cmd.holds (d c : Cmd) : Bool :=
  c.team.isSome && d.team = c.team && match d.body with
    | .fence q => q.getLsbD c.queue
    | _ => d.queue = c.queue

/-- Whether it is a command's turn (R168). -/
def myTurn (id : Nat) : List Cmd → Bool
  | [] => false
  | d :: ds => d.id = id || (myTurn id ds && match ds.find? fun c => c.id = id with
    | some c => !d.holds c
    | none => false)

/-- A command by its number. -/
def State.cmd? (s : State) (id : Nat) : Option Cmd := s.cmds.find? fun c => c.id = id

/-- Whether a command of a shop reads or writes its pool. -/
def Cmd.usesPool (c : Cmd) : Bool :=
  let loc (x : Cap) : Bool := x.kind = kLocal
  match c.body with
  | .copy src dst _ _ => loc src || loc dst
  | .gather blocks _ _ dst _ _ _ _ _ => loc dst || blocks.any loc
  | .publishRows blocks _ _ _ _ _ _ => blocks.any loc
  | .multi src _ _ _ _ _ => loc src
  | .mlred _ dst _ _ _ _ _ _ => loc dst
  | .mstm _ src _ _ _ => loc src
  | .gateway src _ _ _ _ _ => loc src
  | .reshard p => loc p.buf || loc p.prog
  | .mpub _ _ _ _ _ => !c.performed
  | .groupSetup _ => false
  | .remoteGo _ _ => false
  | .ownerGo _ _ _ _ _ _ => false
  | .fence _ => false
  | _ => true

/-- Whether a command waits because its shop, whose pool it uses, is saved (R131). -/
def State.away (s : State) (c : Cmd) : Bool := c.usesPool && (s.shop? c.shop).any fun x => x.phase = .saved

/-- A command whose turn it is and which has not been performed. -/
def State.turn? (s : State) (id : Nat) : Option Cmd :=
  match s.cmd? id with
  | some c => if myTurn id s.cmds && !c.performed && !s.away c then some c else none
  | none => none

/-- Fences with no earlier command of their queues left are done (R168). -/
def pruneFences : List Cmd → List Cmd → List Cmd
  | _, [] => []
  | seen, c :: cs =>
    match c.body with
    | .fence q =>
      if seen.any fun d => d.team = c.team && q.getLsbD d.queue then c :: pruneFences seen cs
      else pruneFences seen cs
    | _ => c :: pruneFences (seen ++ [c]) cs

/-- Forwarding entries without a command that has ended; an entry whose count reaches zero is removed (R133). -/
def dropForward (id : Nat) (fs : List Forward) : List Forward :=
  (fs.map fun f => { f with ops := f.ops.filter fun n => n ≠ id }).filter fun f => f.ops ≠ []

/-- Whether a command is a re-shard command whose turn it is. -/
def Cmd.atRse (cmds : List Cmd) (c : Cmd) : Bool :=
  match c.body with
  | .reshard _ => myTurn c.id cmds
  | _ => false

/-- The re-shard commands that have reached their RSE, in the order in which they did (R369). -/
def rseReached (queue : List Nat) (cmds : List Cmd) : List Nat :=
  let here := (cmds.filter fun c => c.atRse cmds).map Cmd.id
  (queue.filter fun id => here.contains id) ++ here.filter fun id => !queue.contains id

/-- Whether a command is a remote GO whose turn has come and which has not been sent (R168). -/
def Cmd.goesNow (cmds : List Cmd) (c : Cmd) : Bool :=
  match c.body with
  | .remoteGo _ false => myTurn c.id cmds
  | _ => false

/-- The packet of a remote GO (R325). -/
def Cmd.goPacket (c : Cmd) : Option Output :=
  match c.body with
  | .remoteGo cap _ => some (.peerGo c.id cap c.band (match c.done with
    | .barrier _ _ => true
    | _ => false))
  | _ => none

/-- A command as sent. -/
def Cmd.asSent (c : Cmd) : Cmd :=
  match c.body with
  | .remoteGo cap _ => { c with body := .remoteGo cap true }
  | _ => c

/-- The remote GOs whose turn has come are sent to their owners while a port is up (R168, R325, R352). -/
def State.sendGos (s : State) : State :=
  if s.portsOpen then
    { s with out := ((s.cmds.filter (Cmd.goesNow s.cmds)).filterMap Cmd.goPacket).reverse ++ s.out
             cmds := s.cmds.map fun c => if c.goesNow s.cmds then c.asSent else c }
  else s

/-- A command leaves its queue. -/
def State.dropCmd (s : State) (id : Nat) : State :=
  let cmds := pruneFences [] (s.cmds.filter fun c => c.id ≠ id)
  ({ s with cmds := cmds, forwards := dropForward id s.forwards, rseQueue := rseReached s.rseQueue cmds } : State).sendGos

/-- A command stays, performed, until its stores or deliveries end. -/
def State.markPerformed (s : State) (id : Nat) : State :=
  { s with cmds := s.cmds.map fun c => if c.id = id then { c with performed := true } else c }

/-! ### Rows -/

/-- A free byte, and the counter beyond it. -/
def State.free (s : State) : Byte × State := (Config.freeByte s.fresh, { s with fresh := s.fresh + 1 })

/-- `n` free bytes, and the counter beyond them. -/
def State.freeBytes (s : State) (n : Nat) : List Byte × State :=
  ((List.range n).map fun j => Config.freeByte (s.fresh + j), { s with fresh := s.fresh + n })

/-- A row as an engine has read it: its bytes, and for each byte whether its granule is tagged or poisoned. -/
structure Row where
  /-- Bytes. -/
  data : List Byte
  /-- Tag of the granule of each byte. -/
  tags : List Bool
  /-- Poison of the granule of each byte. -/
  poison : List Bool
deriving DecidableEq, Repr

/-- A row of memory. -/
def Mem.row (m : Mem) (a n : Nat) : Row :=
  ⟨m.read a n, (List.range n).map fun j => m.tagAt (a + j), (List.range n).map fun j => Sparse.get false m.poison ((a + j) / 16)⟩

/-- The capability in the granule that begins at byte `j` of a row. -/
def Row.capAt (r : Row) (j : Nat) : Cap := Cap.ofNat (bytesNat ((r.data.drop j).take 16)) (r.tags.getD j false)

/-- A row of what peers answered for its granules, in order: `skip` bytes of the first granule come before the row. -/
def Row.ofAnswers (as : List Answer) (skip n : Nat) : Row :=
  let each (f : Answer → List Bool) : List Bool := ((as.flatMap f).drop skip).take n
  ⟨((as.flatMap fun a => (a.data ++ List.replicate 16 0).take 16).drop skip).take n,
    each fun a => List.replicate 16 (a.tags.headD false), each fun a => List.replicate 16 (a.poison.headD false)⟩

/-- Where a row through a capability lies for the engines of this device. -/
def engineSite (shop : Nat) (c : Cap) (off : Nat) : Place :=
  if c.kind = kSealed then .remote 0
  else if c.kind = kLocal then .spad shop (localOf c.addr + off)
  else .home (c.localAt off)

/-- Whether a row touches a reserved range (R136). -/
def State.rowReserved (s : State) (shop : Nat) (c : Cap) (off n : Nat) : Bool :=
  match engineSite shop c off with
  | .home a => s.touchesReserved a n
  | _ => false

/-- Whether the halves of a row in the host window are held (R155). -/
def State.rowReady (s : State) (shop : Nat) (c : Cap) (off n : Nat) (write : Bool) : Bool :=
  match engineSite shop c off with
  | .home a => match s.region a with
    | .host o => s.halvesReady o n write
    | _ => true
  | _ => true

/-- Granules that a row of a peer touches: one answer for each. -/
def answersFor (c : Cap) (off n : Nat) : Nat := if c.kind = kSealed then (granules (c.localAt off) n).length else 0

/-- Read a row; peers' rows come from the answers. The rest of the answers is returned. -/
def State.readRow (s : State) (shop : Nat) (c : Cap) (off n : Nat) (as : List Answer) : Row × List Answer :=
  match engineSite shop c off with
  | .spad sp o => ((s.spad sp).row o n, as)
  | .home a =>
    match s.region a with
    | .hbm => (s.mem.row a n, as)
    | .host o => (⟨s.hostRead o n, List.replicate n false, (List.range n).map fun j => s.hostSoiled ((o + j) / 16)⟩, as)
    | .mmio o => (⟨natBytes n ((s.mmioRead o n).getD (Config.freeWord s.fresh).toNat), List.replicate n false, List.replicate n false⟩, as)
    | .reserved => (⟨List.replicate n 0, List.replicate n false, List.replicate n true⟩, as)
  | _ =>
    let k := answersFor c off n
    (Row.ofAnswers (as.take k) (c.localAt off % 16) n, as.drop k)

/-- The granules of a row at `a` that take its poison (R186). -/
def Row.soils (r : Row) (a : Nat) : List Nat :=
  (granules a r.data.length).filter fun g => (List.range r.data.length).any fun j => (a + j) / 16 = g && r.poison.getD j false

/-- Write a row to memory: bytes, poison that travels (R186), and the tags of whole granules for which `keep` says so. -/
def Mem.putRow (m : Mem) (a : Nat) (r : Row) (keep : Nat → Bool) : Mem :=
  let n := r.data.length
  let m1 := m.write a r.data
  let m2 := { m1 with poison := setGranules true (r.soils a) m1.poison }
  let tagged := (granules a n).filter fun g => decide (a ≤ 16 * g) && decide (16 * g + 16 ≤ a + n) && keep (16 * g - a)
  { m2 with tags := setGranules true tagged m2.tags }

/-- Write a row through a capability for a command of an issuing band (R158); `keep` tells for the granule that begins at a byte of the row
whether its tag stays. Stores to reserved ranges are discarded (R136). -/
def State.writeRow (s : State) (shop : Nat) (band : BitVec 8) (c : Cap) (off : Nat) (r : Row) (keep : Nat → Bool) : State :=
  match engineSite shop c off with
  | .spad sp o => s.updShop sp fun x => { x with spad := x.spad.putRow o r keep }
  | .home a =>
    match s.region a with
    | .hbm => ({ s with mem := s.mem.putRow a r keep, live := markLive a r.data.length s.live } : State).markSy c off r.data.length
    | .host o => (s.hostWrite o r.data).soilHost (r.soils o)
    | .mmio o => s.mmioWrite o r.data.length (bytesNat r.data)
    | .reserved => s
  | _ =>
    -- with no port up nothing leaves (R352)
    if r.data = [] || !s.portsOpen then s
    else
      let gs := granules (c.localAt off) r.data.length
      { s with out := .peerWrite c band off r.data (gs.map fun g => decide (c.localAt off ≤ 16 * g) && keep (16 * g - c.localAt off))
                 (gs.map fun g => (r.soils (c.localAt off)).contains g) :: s.out }

/-- Bytes without tags or poison, as a row. -/
def Row.plain (bs : List Byte) : Row := ⟨bs, List.replicate bs.length false, List.replicate bs.length false⟩

/-- Write plain bytes through a capability. -/
def State.writePlain (s : State) (shop : Nat) (band : BitVec 8) (c : Cap) (off : Nat) (bs : List Byte) : State :=
  s.writeRow shop band c off (Row.plain bs) fun _ => false

/-! ### Parts of a payload (R170, R172) -/

/-- The granules that a row of a command writes, each with the place that holds it: 0 for this device's addresses, 1 for a peer's by device
address, 2 + n for the scratchpad of shop n. -/
def rowParts (shop : Nat) (c : Cap) (off n : Nat) : List (Nat × Nat) :=
  match engineSite shop c off with
  | .spad sp o => (granules o n).map fun g => (sp + 2, g)
  | .home a => (granules a n).map fun g => (0, g)
  | _ => (granules (wrapAddr (c.addr + off)) n).map fun g => (1, g)

/-- Memory with a granule as another memory holds it. -/
def Mem.takeGranule (m from_ : Mem) (g : Nat) : Mem :=
  { bytes := Sparse.setList 0 m.bytes (16 * g) (from_.read (16 * g) 16)
    tags := Sparse.set false m.tags g (Sparse.get false from_.tags g)
    poison := Sparse.set false m.poison g (Sparse.get false from_.poison g) }

/-- A half with a granule as another half holds it. -/
def Half.takeGranule (h from_ : Half) (g : Nat) : Half :=
  let bit := 1#4 <<< (g % 4)
  { h with data := splice h.data (16 * (g % 4)) (from_.read (16 * (g % 4)) 16), dirty := h.dirty || from_.dirty
           poison := (h.poison &&& ~~~bit) ||| (from_.poison &&& bit) }

/-- The state with one granule of this device as another state holds it; a place at a peer, or in the MMIO window, holds none. -/
def State.takePart (s from_ : State) (p : Nat × Nat) : State :=
  match p.1 with
  | 0 => match s.region (16 * p.2) with
    | .hbm => { s with mem := s.mem.takeGranule from_.mem p.2
                       live := if Sparse.get false from_.live (p.2 / 256) then Sparse.set false s.live (p.2 / 256) true else s.live }
    | .host off =>
      (match Sparse.look s.halves (off / 64), Sparse.look from_.halves (off / 64) with
      | some h, some k => { s with halves := Sparse.insert s.halves (off / 64) (h.takeGranule k (off / 16)) }
      | _, _ => s)
    | _ => s
  | 1 => s
  | n => s.updShop (n - 2) fun x => { x with spad := x.spad.takeGranule (from_.spad (n - 2)) p.2 }

/-- A write at a peer. -/
def Output.isPeerWrite : Output → Bool
  | .peerWrite _ _ _ _ _ _ => true
  | _ => false

/-- The parts of a write at a peer whose granules satisfy `want`: itself when all of them do. -/
def Output.slices (want : Nat → Bool) : Output → List Output
  | .peerWrite c band off data tags poison =>
    let a := wrapAddr (c.addr + off)
    let gs := granules a data.length
    if gs.all want then [.peerWrite c band off data tags poison]
    else (gs.zipIdx.filter fun p => want p.1).map fun p =>
      let lo := max (16 * p.1) a - a
      let hi := min (16 * p.1 + 16) (a + data.length) - a
      .peerWrite c band (off + lo) ((data.drop lo).take (hi - lo)) [tags.getD p.2 false] [poison.getD p.2 false]
  | o => [o]

/-- What has left the device between two states, oldest first. -/
def State.sentSince (s before : State) : List Output := (s.out.take (s.out.length - before.out.length)).reverse

/-- The granules `ps` of a payload written now; `whole` is the state with all of it written. Those at a peer leave while a port is up
(R352). -/
def State.takeParts (s whole : State) (ps : List (Nat × Nat)) : State :=
  let s1 := ps.foldl (fun (a : State) p => a.takePart whole p) { s with fresh := whole.fresh }
  let sent := if s.portsOpen then (whole.sentSince s).flatMap (Output.slices fun g => ps.contains (1, g)) else []
  { s1 with out := (sent.filter fun o => o.isPeerWrite).reverse ++ s1.out }

/-- The rest of a command's payload: `whole` but for the granules that have been written before, each of which is written once (R170). -/
def State.lessParts (s whole : State) (wrote : List (Nat × Nat)) : State :=
  if wrote = [] then whole
  else
    let s1 := wrote.foldl (fun (a : State) p => a.takePart s p) whole
    { s1 with out := ((whole.sentSince s).flatMap (Output.slices fun g => !wrote.contains (1, g))).reverse ++ s.out }

/-- The elements of a list whose position is a set bit of `bits`. -/
def chosen {α : Type} (bits : Nat) (l : List α) : List α := (l.zipIdx.filter fun p => bits.testBit p.2).map Prod.fst

/-- The granules of `all` that `bits` names are written before the completion of a command, but for those that have been (R172). -/
def State.writeParts (s whole : State) (c : Cmd) (all : List (Nat × Nat)) (bits : Nat) : State :=
  let ps := (chosen bits all.eraseDups).filter fun p => !c.wrote.contains p
  let s1 := s.takeParts whole ps
  { s1 with cmds := s1.cmds.map fun d => if d.id = c.id then { d with wrote := d.wrote ++ ps } else d }

/-! ### Completions -/

/-- Size of a team record of a context area (R192). -/
def teamRecSize (allot lanes : Nat) : Nat := 2432 + 4 * lanes + 16 * (allot / 4) * lanes

/-- Offset of the scratchpad section in a context area. -/
def State.ctxSpad (s : State) (shop : Nat) (x : Shop) : Nat :=
  256 + ((s.teamsOf shop).map fun n => match s.team? n with
    | some t => teamRecSize t.allot x.lanes
    | none => 0).sum

/-- The records of the teams of a saved shop, each with its address, by the allotments that the area holds; and the address after the
last. -/
def State.areaRecords (s : State) (lanes : Nat) : Nat → List Nat → List (Nat × Nat) × Nat
  | a, [] => ([], a)
  | a, n :: ns =>
    let r := s.areaRecords lanes (a + teamRecSize (bytesNat (s.mem.read (a + 18) 2)) lanes) ns
    ((n, a) :: r.1, r.2)

/-- The records of a saved shop, and the address of the scratchpad in its area. -/
def State.savedRecords (s : State) (shop : Nat) (x : Shop) : List (Nat × Nat) × Nat := s.areaRecords x.lanes (x.ctx + 256) (s.teamsOf shop)

/-- A barrier completion of `n` bytes, or its failure (R313, R328); for a saved shop the sync engine applies it to the
saved image (R132). -/
def State.barrierDone (s : State) (shop off : Nat) (n : Option Nat) : State :=
  match s.shop? shop with
  | none => s
  | some x =>
    if x.phase = .saved then
      let a := (s.savedRecords shop x).2 + off
      let y := ({ x with spad := ⟨[], [], []⟩ } : Shop)
      let z := ({ y with spad := y.spad.write off (s.mem.read a 16) } : Shop).complete off n
      (s.writeHbm a (z.spad.read off 16)).setShop shop { z with spad := x.spad }
    else s.setShop shop (x.complete off n)

/-- The error stamp of a code (R312). -/
def errorStamp (code : Nat) : Nat := (2 ^ 56 - 1) * 2 ^ 8 + code % 2 ^ 8

/-- Write 8 bytes at a stamp (R313); a stamp in the scratchpad of a saved shop goes to its image. -/
def State.stampWrite (s : State) (shop : Nat) (band : BitVec 8) (c : Cap) (off v : Nat) : State :=
  match s.shop? shop with
  | some x =>
    if c.kind = kLocal ∧ x.phase = .saved then s.writeHbm ((s.savedRecords shop x).2 + localOf c.addr + off) (natBytes 8 v)
    else s.writePlain shop band c off (natBytes 8 v)
  | none => s.writePlain shop band c off (natBytes 8 v)

/-- ERRLOG takes an engine's cause that no stamp reports, with the core of the shop that issued the command (R395). -/
def State.logError (s : State) (shop code : Nat) : State :=
  { s with errlog := BitVec.ofNat 64 (2 ^ 63 + code % 2 ^ 8 * 2 ^ 32 + ((s.shop? shop).map Shop.core).getD 0 % 2 ^ 16) }

/-- The completion of a command that wrote `n` bytes, or met an error with a code (R313). -/
def State.report (s : State) (c : Cmd) (n : Nat) (err : Option Nat) : State :=
  match c.done with
  | .none => match err with
    | some e => s.logError c.shop e
    | none => s
  | .barrier shop off => match err with
    | some e => (s.barrierDone shop off none).logError c.shop e
    | none => s.barrierDone shop off (some n)
  | .stamp cap off seq => s.stampWrite c.shop c.band cap off (match err with
    | some e => errorStamp e
    | none => seq)

/-- Whether the completion of a command can be written now: a stamp in the host window needs its half (R155). -/
def State.reportReady (s : State) (c : Cmd) : Bool :=
  match c.done with
  | .stamp cap off _ => s.rowReady c.shop cap off 8 true
  | _ => true

/-- A command ends: its completion, and it leaves its queue. -/
def State.endCmd (s : State) (c : Cmd) (n : Nat) (err : Option Nat) : State := (s.report c n err).dropCmd c.id

end Sys2Proof.Machine
end

