-- ==== Sys2Proof/Machine/Copy.lean ====
section
/-!
DEFINITION. Copies (R314 to R321), CMDMK (R322), the copy block of GO (R323), and the steps that end a copy command
(R313, R325).
-/

namespace Sys2Proof.Machine

/-! ### Raw copies (R315) -/

/-- Bytes that moves write, summed. -/
def movesLen (ms : List Move) : Nat := (ms.map Move.len).sum

/-- The moves of CPY. -/
def cpyMoves (g : Group8) : List Move := [⟨g.soff, g.doff, g.len⟩]

/-- Rows of planes: strides of the source and the destination. -/
def planeMoves (soff doff len planes rows sps srs dps drs : Nat) : List Move :=
  (List.range planes).flatMap fun p => (List.range rows).map fun r => ⟨soff + p * sps + r * srs, doff + p * dps + r * drs, len⟩

/-- The moves of CPYT. -/
def cpytMoves (g : Group8) : List Move :=
  planeMoves g.soff g.doff g.len (g.field 48 16) (g.field 32 16) (g.xtr % 2 ^ 32) (g.str % 2 ^ 32) (g.xtr / 2 ^ 32) (g.str / 2 ^ 32)

/-- The moves of CPYG, or of CPYS when `scatter`, over the lanes of one mask word of the execution mask. -/
def rowMoves (x : Ctx) (g : Group8) (scatter : Bool) : Except Trap (List Move) :=
  let idx := g.field 24 8
  let word := g.field 19 5
  if x.t.allot ≤ idx ∨ x.sh.lanes / 32 ≤ word then .error engineBad
  else .ok ((x.lanes.filter fun l => l / 32 = word).map fun l =>
    let j := l % 32
    let i := (x.t.rdV l idx).toNat
    let srs := g.str % 2 ^ 32
    let drs := g.str / 2 ^ 32
    if scatter then ⟨g.soff + j * srs, g.doff + i * drs, g.len⟩ else ⟨g.soff + i * srs, g.doff + j * drs, g.len⟩)

/-- The checks of a copy's two capabilities (R66): source, then destination. -/
def State.copyCheck (s : State) (band : BitVec 8) (src dst : Cap) (ks kd : Nat × Nat) (ms : List Move) : Except Trap Unit :=
  both (s.engineCheck band (.load copyKinds) src ks.1 ks.2 (ms.map fun m => (m.src, m.len)))
    (s.engineCheck band (.store copyKinds) dst kd.1 kd.2 (ms.map fun m => (m.dst, m.len)))

/-- Enter a command that may move nothing: then it completes at once, when it is its turn (R315). -/
def State.issueMoves (s : State) (x : Ctx) (queue : Nat) (body : CmdBody) (done : Completion) (bytes : Nat) : State :=
  let s1 := s.issueCmd x queue body done 0
  match s1.turn? s1.nextId with
  | some c => if bytes = 0 ∧ s1.reportReady c then s1.endCmd c 0 none else s1
  | none => s1

/-- The issue of a raw copy: `mask` has the control-word fields of the form. -/
def State.issueRaw (s : State) (x : Ctx) (d a : BitVec 5) (g : BitVec 3) (mask : W64) (tags : Bool)
    (moves : Ctx → Group8 → Except Trap (List Move)) : Effect :=
    let gr := x.group8 g
    if !gr.ctlOk mask then .error engineBad
    else match moves x gr with
      | .error e => .error e
      | .ok ms =>
        let src := x.t.rdC a.toNat
        let dst := x.t.rdC d.toNat
        match s.copyCheck x.sh.band src dst (1, a.toNat) (1, d.toNat) ms with
        | .error e => .error e
        | .ok () => match x.completion s gr (movesLen ms) with
          | .error e => .error e
          | .ok done => .ok (s.issueMoves x gr.queue (.copy src dst ms tags) done (movesLen ms), .next)

/-- A raw copy instruction. -/
def rawCopy (i : Instr) (d a : BitVec 5) (g : BitVec 3) (mask : W64) (tags : Bool) (moves : Ctx → Group8 → Except Trap (List Move)) :
    State → Host.Outcome State Fault Refusal :=
  wordStep i fun x s => s.issueRaw x d a g mask tags moves

/-- CPYG, or CPYS when `scatter`: it takes lanes of the execution mask, so it is guarded, and with an empty mask it has no
effect and makes no check (R86, R88, R309). -/
def rowCopy (i : Instr) (d a : BitVec 5) (g : BitVec 3) (scatter : Bool) : State → Host.Outcome State Fault Refusal :=
  wordStep i fun x s => if x.exec = 0 then .ok (s, .next) else s.issueRaw x d a g 0xFFF80000 false fun x gr => rowMoves x gr scatter

/-- CPY. -/
def execCpy (d a : BitVec 5) (g : BitVec 3) : State → Host.Outcome State Fault Refusal :=
  rawCopy (.cpy d a g) d a g 0 true fun _ gr => .ok (cpyMoves gr)
/-- CPYT: PLANES is 1 to 65,535, and 0 is a reserved value of the control word (R310). -/
def execCpyt (d a : BitVec 5) (g : BitVec 3) : State → Host.Outcome State Fault Refusal :=
  rawCopy (.cpyt d a g) d a g 0xFFFFFFFF00000000 true fun _ gr => if gr.field 48 16 = 0 then .error engineBad else .ok (cpytMoves gr)
/-- CPYG. -/
def execCpyg (d a : BitVec 5) (g : BitVec 3) : State → Host.Outcome State Fault Refusal :=
  rowCopy (.cpyg d a g) d a g false
/-- CPYS. -/
def execCpys (d a : BitVec 5) (g : BitVec 3) : State → Host.Outcome State Fault Refusal :=
  rowCopy (.cpys d a g) d a g true

/-! ### CPYB (R317 to R320) -/

/-- Entry `i` of a block table, as the copy engine reads it: POISON, TAG, or its capability. -/
def State.tableEntry (s : State) (x : Ctx) (table : Cap) (soff i : Nat) : Except Trap Cap :=
  let off := soff + 16 * i
  let bad (code : FaultCode) : Except Trap Cap := .error ⟨code, 0, 0, 3, 0, false, off, wrapAddr (table.addr + off), i⟩
  let r := (s.readRow (shopOf x.n) table off 16 []).1
  if r.poison.any id then bad .poison
  else
    let c := s.moved (r.capAt 0)
    if off % 16 = 0 ∧ c.tag then .ok c else bad .tag

/-- Entries `i` onward. -/
def State.tableEntries (s : State) (x : Ctx) (table : Cap) (soff : Nat) (check : Nat → Cap → Except Trap Unit) : Nat → Nat → Except Trap (List Cap)
  | 0, _ => .ok []
  | n + 1, i => match s.tableEntry x table soff i with
    | .error e => .error e
    | .ok c => match check i c with
      | .error e => .error { e with aux := i }
      | .ok () => match s.tableEntries x table soff check n (i + 1) with
        | .error e => .error e
        | .ok cs => .ok (c :: cs)

/-- The element format of a block that a gather may widen (R318). -/
def gatherFmt (c : Cap) : Option ElemFmt :=
  if c.fmt = 0x10 ∨ c.fmt = 0x11 ∨ c.fmt = 0x0F ∨ c.fmt = 0x0D then fmtElem c.fmt else none

/-- The byte of an element of a stored block. -/
def elemByte (c : Cap) (w n : Nat) : Nat := if c.geo = 0 then n * w / 8 else blockElemBit w n / 8

/-- The rows of a block that elements `first .. first + len - 1` reach: element bytes and, for block-scaled storage, the
scales of each superblock. -/
def elemRows (c : Cap) (w first len : Nat) : List (Nat × Nat) :=
  let row (a b : Nat) : Nat × Nat := (elemByte c w a, elemByte c w b + (if w < 8 then 1 else w / 8) - elemByte c w a)
  if len = 0 then []
  else if c.geo = 0 then [row first (first + len - 1)]
  else
    let last := first + len - 1
    (List.range (last / 1024 - first / 1024 + 1)).flatMap fun j =>
      let sb := first / 1024 + j
      let a := max first (1024 * sb)
      let b := min last (1024 * sb + 1023)
      [row a b, (blockScaleByte w a, blockScaleByte w b + 1 - blockScaleByte w a)]

/-- A byte of a block from its rows as read. -/
def rowByte (rows : List ((Nat × Nat) × Row)) (o : Nat) : Nat :=
  match rows.find? fun r => decide (r.1.1 ≤ o) && decide (o < r.1.1 + r.1.2) with
  | some r => (r.2.data.getD (o - r.1.1) 0).toNat
  | none => 0

/-- The value of element `n` of a block from its rows (R26, R31, R33). -/
def rowElem (rows : List ((Nat × Nat) × Row)) (c : Cap) (f : ElemFmt) (n : Nat) : FVal :=
  let w := f.width
  let o := elemByte c w n
  let bits : Nat := if w < 8 then rowByte rows o / 2 ^ (4 * (n % 2)) % 16
    else bytesNat ((List.range (w / 8)).map fun j => BitVec.ofNat 8 (rowByte rows (o + j)))
  if c.geo = 0 then f.decode bits else scaleBy (rowByte rows (blockScaleByte w n)) (f.decode bits)

/-- Read rows of one capability in order. -/
def State.readRows (s : State) (shop : Nat) (c : Cap) : List (Nat × Nat) → List Answer → List ((Nat × Nat) × Row) × List Answer
  | [], as => ([], as)
  | r :: rs, as =>
    let x := s.readRow shop c r.1 r.2 as
    let y := s.readRows shop c rs x.2
    ((r, x.1) :: y.1, y.2)

/-- STO rounds as RNE where nothing is drawn (R318, R363). -/
def Rnd.noDraw (r : Rnd) : Rnd := if r = .sto then .rne else r

/-- The float format of OUT16. -/
def out16Fmt (out16 : Bool) : FloatFmt := if out16 then .b16 else .bf16

/-- The bytes of one gathered row (R318). -/
def gatherRow (rows : List ((Nat × Nat) × Row)) (c : Cap) (first len : Nat) (out16 : Bool) (rnd : Rnd) (sat : Bool) : List Byte :=
  match gatherFmt c with
  | none => []
  | some f => (List.range len).flatMap fun e =>
    natBytes 2 ((out16Fmt out16).encode rnd 0 sat (rowElem rows c f (first + e)))

/-- The check of one block of a gather: R65, with FORMAT once the entry itself may be read. -/
def State.gatherCheck (s : State) (x : Ctx) (first len i : Nat) (c : Cap) : Except Trap Unit :=
  match s.engineCheck x.sh.band (.load copyKinds) c 3 0 [] with
  | .error e => .error e
  | .ok () => match gatherFmt c with
    | none => .error ⟨.format, 0, 0, 3, 0, false, 0, 0, i⟩
    | some f => s.engineCheck x.sh.band (.load copyKinds) c 3 0 (elemRows c f.width first len)

/-- CPYB. -/
def execCpyb (d a : BitVec 5) (g : BitVec 3) : State → Host.Outcome State Fault Refusal :=
  wordStep (.cpyb d a g) fun x s =>
    let gr := x.group8 g
    let append : Bool := gr.field 8 1 = 1
    let dist : Bool := gr.field 9 1 = 1
    let rows := gr.field 32 16
    let cx := x.t.rdC d.toNat
    let ct := x.t.rdC a.toNat
    let drs := gr.str / 2 ^ 32
    let badForm : Bool := if append then !gr.ctlOk 0xFFFF00000100 || decide (rows ≠ 1)
      else !gr.ctlOk 0xFFFF00000700 || decide (rows = 0)
    let badDist : Bool := !append && dist &&
      (decide (d ≠ 0) || decide (512 < gr.len) || decide (64 ≤ gr.doff) || decide (drs ≠ 0) || decide (gr.field 12 2 = 1))
    let table := s.engineCheck x.sh.band ⟨copyKinds, false, pLD ||| pLDC, true, false⟩ ct 1 a.toNat [(gr.soff, 16 * rows)]
    let src := s.engineCheck x.sh.band ⟨[kLocal], false, pLD, true, false⟩ cx 1 d.toNat [(gr.doff, gr.len)]
    if badForm || badDist then .error engineBad
    else match both (if append then src else .ok ()) table with
      | .error e => .error e
      | .ok () =>
       if !s.rowReady (shopOf x.n) ct gr.soff (16 * rows) false then s.block x (.cpyb d a g) false
       else
        let check (i : Nat) (c : Cap) : Except Trap Unit :=
          if append then s.engineCheck x.sh.band (.store copyKinds) c 3 0 [(gr.xtr, gr.len)] else s.gatherCheck x gr.xtr gr.len i c
        match s.tableEntries x ct gr.soff check rows 0 with
        | .error e => .error e
        | .ok blocks =>
          let dstRows := (List.range rows).map fun i => (gr.doff + i * drs, 2 * gr.len)
          let bytes := if append then gr.len else 2 * gr.len * rows
          match both (if append || dist then .ok () else s.engineCheck x.sh.band ⟨[kLocal], false, pST, false, true⟩ cx 1 d.toNat dstRows)
              ((x.completion s gr bytes).map fun _ => ()) with
          | .error e => .error e
          | .ok () =>
            let done := match x.completion s gr bytes with
              | .ok c => c
              | .error _ => .none
            let rnd := x.t.modeBits 15 3
            let body : CmdBody :=
              if append then .copy cx (blocks.headD Cap.null) [⟨gr.doff, gr.xtr, gr.len⟩] false
              else if dist then .publishRows blocks gr.xtr gr.len gr.doff (gr.field 10 1 = 1) rnd x.t.sat
              else .gather blocks gr.xtr gr.len cx gr.doff drs (gr.field 10 1 = 1) rnd x.t.sat
            .ok (((s.setTeam x.n x.awake).markSy ct gr.soff (16 * rows)).issueMoves x gr.queue body done bytes, .next)

/-! ### CPYM (R321) -/

/-- CPYM: the barrier of each target lies at the offset that COFF has in cL. -/
def execCpym (d a : BitVec 5) (g : BitVec 3) : State → Host.Outcome State Fault Refusal :=
  wordStep (.cpym d a g) fun x s =>
    let gr := x.group8 g
    let cl := x.t.rdC d.toNat
    let cs := x.t.rdC a.toNat
    let cores := ((List.range 64).filter fun j => gr.xtr / 2 ^ j % 2 = 1).map fun j => gr.str % 2 ^ 16 + j
    let die := dieOf x.sh.core
    let off := localOf cl.addr
    if !gr.ctlOk 0 || decide (gr.field 12 2 ≠ 1) || s.disten.getLsbD die || cores.any (fun c => !coreExists c || dieOf c ≠ die) then
      .error engineBad
    else match both (s.engineCheck x.sh.band (.load copyKinds) cs 1 a.toNat [(gr.soff, gr.len)])
        (both (s.engineCheck x.sh.band ⟨[kLocal], false, pST, false, true⟩ cl 1 d.toNat [(gr.doff, gr.len)])
          ((x.place s ⟨[kLocal], false, pST, false, true⟩ cl 0 1 d.toNat gr.coff 16 16).map fun _ => ())) with
      | .error e => .error e
      | .ok () => match x.completion s gr gr.len with
        | .error e => .error e
        | .ok done => .ok (s.issueCmd x gr.queue (.multi cs gr.soff (off + gr.doff) gr.len (off + gr.coff) cores) done 0, .next)

/-- The shops of a node on a core. -/
def State.nodeShopsOn (s : State) (x : Shop) (core : Nat) : List Nat :=
  (s.shops.filter fun e => e.2.core = core && e.2.launch = x.launch && e.2.node = x.node && e.2.resident).map Prod.fst

/-! ### CMDMK (R322) -/

/-- CMDMK and CMDMK.L: `layout` selects the form. -/
def commandCap (layout : Bool) (a : Nat) (c : Cap) : Except Trap Cap :=
  let keep := pLD ||| pLDC ||| pSEAL ||| pEXPORT ||| pDERIVE ||| (if layout then 0 else pGO)
  let needs := pLD ||| pLDC ||| (if layout then 0 else pGO)
  if !c.has needs then .error (capTrap .perm 0 a 0)
  else if c.addr % 64 ≠ 0 then .error (capTrap .align 0 a 0)
  else if c.len < (if layout then 256 else 64) then .error (capTrap .bounds 0 a 0)
  else .ok { c with kind := if layout then kLayout else kCommand, perm := c.perm &&& keep, fmt := 0, geo := 0 }

/-- The checks and the result of CMDMK in either form. -/
def cmdmkStep (i : Instr) (layout : Bool) (d a : BitVec 5) : State → Host.Outcome State Fault Refusal :=
  wordStep i fun x s =>
    match x.capCheck s ⟨[kData], false, pDERIVE, true, false⟩ 0 a.toNat with
    | .error e => .error e
    | .ok () => match commandCap layout a.toNat (x.t.rdC a.toNat) with
      | .error e => .error e
      | .ok c => .ok (s.setTeam x.n (x.t.wrC d.toNat c), .next)

/-- CMDMK. -/
def execCmdmk (d a : BitVec 5) (h : BitVec 4) : State → Host.Outcome State Fault Refusal := cmdmkStep (.cmdmk d a h) false d a
/-- CMDMK.L. -/
def execCmdmkL (d a : BitVec 5) (h : BitVec 4) : State → Host.Outcome State Fault Refusal := cmdmkStep (.cmdmkL d a h) true d a

/-! ### Command blocks (R323, R324) -/

/-- A number of `n` bytes at an offset of a block. -/
def Row.num (r : Row) (o n : Nat) : Nat := bytesNat ((r.data.drop o).take n)

/-- The capability at an offset of a block that was read through `c` (R53, R63). -/
def State.blockCap (s : State) (c : Cap) (r : Row) (o : Nat) : Cap :=
  let v := r.capAt o
  s.moved { v with tag := v.tag && c.loadsTags }

/-- The header of a block is valid: CKIND and FORM assigned, the other bytes zero (R323, R367, R368, R371). -/
def headerOk (r : Row) : Bool :=
  let kind := r.num 0 1
  let form := r.num 1 1
  (kind = 1 && form ≤ 1 || kind = 2 && form ≤ 1 || kind = 3 && form = 0 || kind = 4 && form = 0) && r.num 2 14 = 0

/-- The copy of a block: source, destination, moves, after the checks of R324 steps 2 to 4. A zero field of its body that is not zero raises
ENGINE (log entry 192). -/
def State.copyBlock (s : State) (band : BitVec 8) (c : Cap) (r : Row) : Except Trap (Cap × Cap × List Move) :=
  let src := s.blockCap c r 16
  let dst := s.blockCap c r 32
  let planar : Bool := r.num 1 1 = 1
  if r.num 76 4 ≠ 0 ∨ r.num 112 16 ≠ 0 ∨ (!planar ∧ r.num 72 4 ≠ 0) then .error engineBad
  else
    let ms := if planar then planeMoves (r.num 48 8) (r.num 56 8) (r.num 64 8) (r.num 74 2) (r.num 72 2) (r.num 88 8) (r.num 80 8) (r.num 104 8) (r.num 96 8)
      else [⟨r.num 48 8, r.num 56 8, r.num 64 8⟩]
    match s.copyCheck band src dst (3, 0) (3, 0) ms with
    | .error e => .error e
    | .ok () => .ok (src, dst, ms)

/-! ### Performing copies -/

/-- Whether a raw copy keeps the tag of a granule it moves to `dst` (R62, R63, R64). -/
def State.copyKeeps (s : State) (band : BitVec 8) (dst v : Cap) : Bool :=
  v.tag && ((v.kind ≠ kLocal && v.kind ≠ kPrivate) || dst.kind = kLocal) && (band = 0 || v.kind = kSealed || v.band = dst.band) &&
    !s.struck v

/-- One row of a raw copy; the answers left over are returned. -/
def State.copyMove (s : State) (shop : Nat) (band : BitVec 8) (src dst : Cap) (tags : Bool) (m : Move) (as : List Answer) :
    State × List Answer :=
  let r := s.readRow shop src m.src m.len as
  let keep (j : Nat) : Bool := tags && src.has pLDC && dst.has pSTC && m.src % 16 = m.dst % 16 && s.copyKeeps band dst (r.1.capAt j)
  ({ s.writeRow shop band dst m.dst r.1 keep with fresh := s.fresh + 1 }, r.2)

/-- Rows of a raw copy in order. -/
def State.copyMoves (s : State) (shop : Nat) (band : BitVec 8) (src dst : Cap) (tags : Bool) : List Move → List Answer → State
  | [], _ => s
  | m :: ms, as =>
    let r := s.copyMove shop band src dst tags m as
    r.1.copyMoves shop band src dst tags ms r.2

/-- The destination offsets of a command that its source ranges overlap (R315). -/
def overlapped (src dst : Cap) (ms : List Move) : List Nat :=
  if (src.kind = kLocal) ≠ (dst.kind = kLocal) ∨ src.kind = kSealed ∨ dst.kind = kSealed then []
  else if !ms.any (fun m => ms.any fun q => rangesMeet (dst.localAt m.dst) m.len (src.localAt q.src) (src.localAt q.src + q.len)) then []
  else ms.flatMap fun m => (List.range m.len).filterMap fun k =>
    let a := dst.localAt (m.dst + k)
    if ms.any fun q => decide (src.localAt q.src ≤ a) && decide (a < src.localAt q.src + q.len) then some (m.dst + k) else none

/-- Free bytes at offsets of a destination. -/
def State.freeAt (s : State) (shop : Nat) (band : BitVec 8) (dst : Cap) : List Nat → State
  | [] => s
  | o :: os =>
    let b := s.free
    (b.2.writePlain shop band dst o [b.1]).freeAt shop band dst os

/-- A raw copy as a whole. -/
def State.rawMoves (s : State) (shop : Nat) (band : BitVec 8) (src dst : Cap) (tags : Bool) (ms : List Move) (as : List Answer) : State :=
  ((s.copyMoves shop band src dst tags ms as).freeAt shop band dst (overlapped src dst ms)).markRows src (ms.map fun m => (m.src, m.len))

/-- Answers that the moves of a copy need from a peer's source. -/
def movesAnswers (src : Cap) (ms : List Move) : Nat := (ms.map fun m => answersFor src m.src m.len).sum

/-- Peers can have answered at all (R352, R402), and no answer is a rejection or a timeout. -/
def State.answersOk (s : State) (as : List Answer) : Bool := (as = [] || s.portsOpen) && as.all fun a => !a.timeout && a.step = 0

/-- Whether a copy touches a reserved range (R136). -/
def State.movesReserved (s : State) (shop : Nat) (src dst : Cap) (ms : List Move) : Bool :=
  ms.any fun m => s.rowReserved shop src m.src m.len || s.rowReserved shop dst m.dst m.len

/-- Whether a raw copy can be performed without an error: writes to a peer need a port. -/
def State.movesReady (s : State) (shop : Nat) (src dst : Cap) (ms : List Move) (as : List Answer) : Bool :=
  as.length = movesAnswers src ms && s.answersOk as && (dst.kind ≠ kSealed || ms = [] || s.portsOpen) && !s.movesReserved shop src dst ms &&
    ms.all fun m => s.rowReady shop src m.src m.len false && s.rowReady shop dst m.dst m.len true

/-- Whether a copy would read poison. -/
def State.movesPoison (s : State) (shop : Nat) (src : Cap) : List Move → List Answer → Bool
  | [], _ => false
  | m :: ms, as =>
    let r := s.readRow shop src m.src m.len as
    r.1.poison.any id || s.movesPoison shop src ms r.2

/-- Whether a command is an input entry that the gaffer stages: poison fails it, where a result entry carries poison (R186, R126,
R127). -/
def State.isInput (s : State) (c : Cmd) : Bool := c.team.isNone && (s.shop? c.shop).any fun x => x.phase ≠ .results

/-- The lines that a gather reads through SY blocks enter update mode (R149). -/
def State.markGather (s : State) (first len : Nat) (blocks : List Cap) : State :=
  blocks.foldl (fun (a : State) b => a.markRows b (elemRows b ((gatherFmt b).getD (.int true 8)).width first len)) s

/-- The block rows of a gather, as read in order; none when poison is met or something cannot be read. -/
def State.gatherRead (s : State) (shop first len : Nat) : List Cap → List Answer → Option (List (Cap × List ((Nat × Nat) × Row)))
  | [], as => if as = [] then some [] else none
  | c :: cs, as =>
    let rows := elemRows c ((gatherFmt c).getD (.int true 8)).width first len
    let r := s.readRows shop c rows as
    if as.length < (rows.map fun q => answersFor c q.1 q.2).sum ∨ (r.1.any fun q => q.2.poison.any id) ∨
        (rows.any fun q => s.rowReserved shop c q.1 q.2 || !s.rowReady shop c q.1 q.2 false) then none
    else (s.gatherRead shop first len cs r.2).map fun l => (c, r.1) :: l

/-- Write gathered rows from row `i`. -/
def State.gatherWrite (s : State) (shop : Nat) (band : BitVec 8) (first len : Nat) (dst : Cap) (doff drs : Nat) (out16 : Bool) (rnd : Rnd) (sat : Bool) :
    Nat → List (Cap × List ((Nat × Nat) × Row)) → State
  | _, [] => s
  | i, r :: rs =>
    (s.writePlain shop band dst (doff + i * drs) (gatherRow r.2 r.1 first len out16 rnd sat)).gatherWrite shop band first len dst doff drs out16 rnd sat
      (i + 1) rs

/-- The operand descriptor of a published gather tile, with OFF 0 (R193, R319, R333). -/
def gatherDesc (len : Nat) (out16 : Bool) : Nat :=
  16 * 2 ^ 75 + 2 ^ 66 + (if out16 then 0x09 else 0x0A) * 2 ^ 58 + len * 2 ^ 48 + len * 2 ^ 32

/-- The tiles of a gather to a stream: 16 rows each, rows beyond the last zero (R319). -/
def gatherTiles (rows : List (List Byte)) (len : Nat) (out16 : Bool) : List Delivered :=
  (List.range ((rows.length + 15) / 16)).map fun t =>
    { desc := gatherDesc len out16, fmt := if out16 then 0x09 else 0x0A, geo := 0, poison := false
      data := (List.range 16).flatMap fun r => rows.getD (16 * t + r) (List.replicate (2 * len) 0) }

/-- The shops of a node that have moved from a core while the command was outstanding (R133). -/
def State.forwardedFrom (s : State) (x : Shop) (id core : Nat) : List Nat :=
  (s.forwards.filter fun f => f.core = core && f.ops.contains id && match s.shop? f.shop with
    | some y => y.launch = x.launch && y.node = x.node
    | none => false).map Forward.shop

/-- The targets of a CPYM: for each named core its one shop of the node. -/
def State.multiTargets (s : State) (shop id : Nat) (cores : List Nat) : List (Option Nat) :=
  match s.shop? shop with
  | none => []
  | some x => cores.map fun c => match s.nodeShopsOn x c ++ s.forwardedFrom x id c with
    | [n] => some n
    | _ => none

/-- The targets that there are. -/
def present (ts : List (Option Nat)) : List Nat := ts.filterMap fun o => o

/-- A CPYM's writes. -/
def State.multiWrite (s : State) (doff : Nat) (r : Row) (targets : List Nat) : State :=
  targets.foldl (fun (a : State) n => a.updShop n fun x => { x with spad := x.spad.putRow doff r fun _ => false }) s

/-- Its barrier updates. -/
def State.multiDone (s : State) (coff n : Nat) (targets : List Nat) : State :=
  targets.foldl (fun (a : State) t => a.barrierDone t coff (some n)) s

/-! ### Parts of a payload (R170, R172, R313) -/

/-- Moves cut at the granules of their destination. -/
def movePieces (dst : Cap) (ms : List Move) : List Move :=
  ms.flatMap fun m => (granules (dst.localAt m.dst) m.len).map fun g =>
    let a := max (16 * g) (dst.localAt m.dst)
    let b := min (16 * g + 16) (dst.localAt m.dst + m.len)
    ⟨m.src + (a - dst.localAt m.dst), m.dst + (a - dst.localAt m.dst), b - a⟩

/-- The granules that moves write. -/
def movesParts (shop : Nat) (dst : Cap) (ms : List Move) : List (Nat × Nat) := ms.flatMap fun m => rowParts shop dst m.dst m.len

/-- What of a raw copy can be written now: nothing into or out of a reserved range or a half that is not held; a peer's bytes are free, and so
are those of an overlap (R4, R315). -/
def State.rawPieces (s : State) (shop : Nat) (band : BitVec 8) (src dst : Cap) (tags : Bool) (ms : List Move) : State :=
  let ps := (movePieces dst ms).filter fun m => !s.movesReserved shop src dst [m] && s.rowReady shop src m.src m.len false &&
    s.rowReady shop dst m.dst m.len true
  if src.kind = kSealed then s.freeAt shop band dst (ps.flatMap fun m => (List.range m.len).map fun k => m.dst + k)
  else (s.copyMoves shop band src dst tags ps []).freeAt shop band dst ((overlapped src dst ms).filter fun o =>
    ps.any fun m => decide (m.dst ≤ o) && decide (o < m.dst + m.len))

/-- A piece of gathered row `i` that a gather can write now: its payload, unless its elements cannot be read; free bytes for a block at a
peer. -/
def State.gatherPiece (s : State) (shop : Nat) (band : BitVec 8) (blocks : List Cap) (first : Nat) (dst : Cap) (out16 : Bool) (rnd : Rnd) (sat : Bool)
    (p : Nat × Move) : State :=
  let c := blocks.getD p.1 Cap.null
  let e := p.2.src / 2
  let n := (p.2.src + p.2.len + 1) / 2 - e
  let rows := elemRows c ((gatherFmt c).getD (.int true 8)).width (first + e) n
  if c.kind = kSealed then s.freeAt shop band dst ((List.range p.2.len).map fun k => p.2.dst + k)
  else
    let r := (s.readRows shop c rows []).1
    if (r.any fun q => q.2.poison.any id) || (rows.any fun q => s.rowReserved shop c q.1 q.2 || !s.rowReady shop c q.1 q.2 false) then s
    else s.writePlain shop band dst p.2.dst (((gatherRow r c (first + e) n out16 rnd sat).drop (p.2.src % 2)).take p.2.len)

/-- The rows that a gather writes. -/
def gatherMoves (rows len doff drs : Nat) : List Move := (List.range rows).map fun i => ⟨0, doff + i * drs, 2 * len⟩

/-- What of a gather can be written now. -/
def State.gatherPieces (s : State) (shop : Nat) (band : BitVec 8) (blocks : List Cap) (first len : Nat) (dst : Cap) (doff drs : Nat) (out16 : Bool)
    (rnd : Rnd) (sat : Bool) : State :=
  let pieces := (gatherMoves blocks.length len doff drs).zipIdx.flatMap fun q => (movePieces dst [q.1]).map fun m => (q.2, m)
  pieces.foldl (fun (a : State) p => a.gatherPiece shop band blocks first dst out16 rnd sat p) s

/-- The granules that a CPYM writes. -/
def multiParts (doff len : Nat) (targets : List Nat) : List (Nat × Nat) := targets.flatMap fun n => (granules doff len).map fun g => (n + 2, g)

/-- What of a CPYM can be written now; a peer's bytes are free here. -/
def State.multiPieces (s : State) (shop : Nat) (src : Cap) (soff doff len : Nat) (targets : List Nat) : State :=
  if s.rowReserved shop src soff len || !s.rowReady shop src soff len false then s
  else if src.kind = kSealed then ((s.freeBytes len).2).multiWrite doff (Row.plain (s.freeBytes len).1) targets
  else s.multiWrite doff (s.readRow shop src soff len []).1 targets

/-- A part of the payload of a copy that is under way, with what peers have answered to it, is written before its completion. -/
def State.copyProgress (s : State) (id : Nat) (ans : List Answer) (bits : Nat) : State :=
  match s.turn? id with
  | none => s
  | some c =>
    let raw (src dst : Cap) (ms : List Move) (tags : Bool) : State :=
      if (s.isInput c ∧ s.movesPoison c.shop src ms ans) ∨ (src.kind = kSealed ∧ !s.movesReady c.shop src dst ms ans) then s
      else s.writeParts (if src.kind = kSealed then s.rawMoves c.shop c.band src dst tags ms ans else s.rawPieces c.shop c.band src dst tags ms) c
        (movesParts c.shop dst ms) bits
    match c.body with
    | .copy src dst ms tags => raw src dst ms tags
    | .ownerGo src dst ms tags _ _ => raw src dst ms tags
    | .gather blocks first len dst doff drs out16 rnd sat =>
      let r := (Rnd.ofCode rnd).noDraw
      let whole : Option State := if blocks.any fun b => b.kind = kSealed then
          (if s.answersOk ans then (s.gatherRead c.shop first len blocks ans).map (s.gatherWrite c.shop c.band first len dst doff drs out16 r sat 0) else none)
        else some (s.gatherPieces c.shop c.band blocks first len dst doff drs out16 r sat)
      (whole.map fun w => s.writeParts w c (movesParts c.shop dst (gatherMoves blocks.length len doff drs)) bits).getD s
    | .multi src soff doff len _ cores =>
      let ts := present (s.multiTargets c.shop c.id cores)
      if src.kind = kSealed then
        (if ans.length = answersFor src soff len ∧ s.answersOk ans then
          s.writeParts (s.multiWrite doff (s.readRow c.shop src soff len ans).1 ts) c (multiParts doff len ts) bits
        else s)
      else s.writeParts (s.multiPieces c.shop src soff doff len ts) c (multiParts doff len ts) bits
    | _ => s

/-- COPY_COMPLETE (R313): the payload is written, then the completion. `ans` holds what peers answered: one answer for each
granule that a row of a peer's source touches, in order; for a remote GO the owner's report, whose data is the byte count; for a gateway message
the destination's acknowledgement comes last (R368). -/
def execCopyComplete (id : Nat) (ans : List Answer) (s : State) : Host.Outcome State Fault Refusal :=
  match s.turn? id with
  | none => .fault .notEnabled
  | some c =>
    if !s.reportReady c then .fault .notEnabled
    else match c.body with
      | .copy src dst ms tags =>
        if s.movesReady c.shop src dst ms ans && !(s.isInput c && s.movesPoison c.shop src ms ans) then
          .next ((s.lessParts (s.rawMoves c.shop c.band src dst tags ms ans) c.wrote).endCmd c (movesLen ms) none)
        else .fault .notEnabled
      | .ownerGo src dst ms tags dev seq =>
        if s.movesReady c.shop src dst ms ans then
          let s1 := s.lessParts (s.rawMoves c.shop c.band src dst tags ms ans) c.wrote
          .next { s1.dropCmd c.id with out := .response dev seq (.plain (natBytes 8 (movesLen ms))) :: s1.out }
        else .fault .notEnabled
      | .gather blocks first len dst doff drs out16 rnd sat =>
        match if s.answersOk ans then s.gatherRead c.shop first len blocks ans else none with
        | some rows =>
          let s1 := s.gatherWrite c.shop c.band first len dst doff drs out16 (Rnd.ofCode rnd).noDraw sat 0 rows
          .next (((s.lessParts s1 c.wrote).markGather first len blocks).endCmd c (2 * len * blocks.length) none)
        | none => .fault .notEnabled
      | .publishRows blocks first len stream out16 rnd sat =>
        match (if s.answersOk ans then s.gatherRead c.shop first len blocks ans else none), s.shop? c.shop with
        | some rows, some x =>
          let tiles := gatherTiles (rows.map fun r => gatherRow r.2 r.1 first len out16 (Rnd.ofCode rnd).noDraw sat) len out16
          .next { (s.markPerformed id).markGather first len blocks with pubs := s.pubs ++ [⟨id, c.shop, dieOf x.core, c.band, stream, Cap.null, [], tiles, none, []⟩] }
        | _, _ => .fault .notEnabled
      | .multi src soff doff len coff cores =>
        let ts := s.multiTargets c.shop c.id cores
        if ts.all Option.isSome && ans.length = answersFor src soff len && s.answersOk ans && !s.rowReserved c.shop src soff len &&
            s.rowReady c.shop src soff len false then
          let s1 := s.lessParts (s.multiWrite doff (s.readRow c.shop src soff len ans).1 (present ts)) c.wrote
          .next (((s1.multiDone coff len (present ts)).markSy src soff len).dropCmd c.id)
        else .fault .notEnabled
      | .gateway src soff len domain device ring =>
        if ans.length = answersFor src soff len + 1 && s.answersOk ans && !s.rowReserved c.shop src soff len &&
            s.rowReady c.shop src soff len false then
          let r := (s.readRow c.shop src soff len ans).1
          .next (({ s with out := .gateway id domain device c.band ring r.data r.poison :: s.out } : State).markSy src soff len |>.endCmd c len none)
        else .fault .notEnabled
      | .remoteGo _ sent =>
        match ans with
        | [a] => if sent && s.answersOk ans then .next (s.endCmd c (bytesNat a.data) none) else .fault .notEnabled
        | _ => .fault .notEnabled
      | _ => .fault .notEnabled

/-! ### Errors after issue -/

/-- The codes that a command may end with (R312), given what its ranges are. -/
def State.copyErrorAllowed (s : State) (c : Cmd) (code : Nat) : Bool :=
  match c.body with
  | .copy src dst ms _ => code = 0x80 || (code = 0x81 && (src.kind = kSealed || dst.kind = kSealed)) || (code = 0x82 && s.movesReserved c.shop src dst ms)
  | .ownerGo src dst ms _ _ _ => code = 0x80 || (code = 0x81 && (src.kind = kSealed || dst.kind = kSealed)) || (code = 0x82 && s.movesReserved c.shop src dst ms)
  | .gather blocks first len _ _ _ _ _ _ => code = 0x80 || (code = 0x81 && blocks.any fun b => b.kind = kSealed) ||
    (code = 0x82 && blocks.any fun b => (elemRows b ((gatherFmt b).getD (.int true 8)).width first len).any fun q => s.rowReserved c.shop b q.1 q.2)
  | .publishRows blocks first len _ _ _ _ => code = 0x80 || (code = 0x81 && blocks.any fun b => b.kind = kSealed) ||
    (code = 0x82 && blocks.any fun b => (elemRows b ((gatherFmt b).getD (.int true 8)).width first len).any fun q => s.rowReserved c.shop b q.1 q.2)
  | .multi src soff _ len _ cores => code = 0x80 || (code = 0x81 && src.kind = kSealed) || (code = 0x82 && s.rowReserved c.shop src soff len) ||
    (code = 0x84 && (s.multiTargets c.shop c.id cores).any Option.isNone && !s.rowReserved c.shop src soff len && s.rowReady c.shop src soff len false)
  | .gateway src soff len _ _ _ => code = 0x80 || code = 0x81 || (code = 0x87 && s.portsOpen) || (code = 0x82 && s.rowReserved c.shop src soff len)
  | .remoteGo _ sent => code = 0x81 || ((code = 0x80 || code = 0x82 || code = 0x83) && sent && s.portsOpen)
  | _ => false

/-- A CPYM that finds a named core without one shop of the node: the others are written, the issuing shop's barrier gets
ERR, and ERRLOG names the first such core (R321, R395); a peer's bytes are free here. -/
def State.multiMissing (s : State) (c : Cmd) (src : Cap) (soff doff len coff : Nat) (cores : List Nat) : State :=
  let ts := s.multiTargets c.shop c.id cores
  let missing := ((cores.zip ts).find? fun p => p.2.isNone).map Prod.fst
  let s1 := (s.lessParts (s.multiPieces c.shop src soff doff len (present ts)) c.wrote).multiDone coff len (present ts)
  { (s1.barrierDone c.shop coff none).dropCmd c.id with
    errlog := BitVec.ofNat 64 (2 ^ 63 + 0x84 * 2 ^ 32 + missing.getD 0 % 2 ^ 16) }

/-- COPY_ERROR (R313): an unspecified subset of the destination granules is written (`bits`, in pseudocode order), beside those written
before, then the error completion; a staging or result entry fails its instance (R126, R128, R408), also when its node has failed already
(log entry 197). -/
def execCopyError (id : Nat) (code : BitVec 8) (bits : Nat) (s : State) : Host.Outcome State Fault Refusal :=
  match s.turn? id with
  | none => .fault .notEnabled
  | some c =>
    if !s.copyErrorAllowed c code.toNat || !s.reportReady c then .fault .notEnabled
    else match c.body with
      | .copy src dst ms tags =>
        let s1 := s.writeParts (s.rawPieces c.shop c.band src dst tags ms) c (movesParts c.shop dst ms) bits
        if c.team.isNone then
          .next ((s1.dropCmd c.id).failNode c.shop
            { cause := 5, code := 0, fpc := 0, word := 0, lane := 0, faddr := 0, faux := code.toNat, user := 0, team := 0 })
        else .next (s1.endCmd c 0 (some code.toNat))
      | .ownerGo src dst ms tags dev seq =>
        let s1 := s.writeParts (s.rawPieces c.shop c.band src dst tags ms) c (movesParts c.shop dst ms) bits
        .next { s1.dropCmd c.id with out := .response dev seq (.refusal 0 code 0) :: s1.out }
      | .gather blocks first len dst doff drs out16 rnd sat =>
        let whole := s.gatherPieces c.shop c.band blocks first len dst doff drs out16 (Rnd.ofCode rnd).noDraw sat
        .next ((s.writeParts whole c (movesParts c.shop dst (gatherMoves blocks.length len doff drs)) bits).endCmd c 0 (some code.toNat))
      | .multi src soff doff len coff cores =>
        if code = 0x84 then
          .next (s.multiMissing c src soff doff len coff cores)
        else
          let ts := present (s.multiTargets c.shop c.id cores)
          .next ((s.writeParts (s.multiPieces c.shop src soff doff len ts) c (multiParts doff len ts) bits).endCmd c 0 (some code.toNat))
      | _ => .next (s.endCmd c 0 (some code.toNat))

end Sys2Proof.Machine
end

