-- ==== Sys2Proof/Machine/Special.lean ====
section
/-!
DEFINITION. The special functions of R241 to R243 on binary32. The faithful ones (R242) are evaluated in fixed point with
640 bits after the point, far below the distance of any inexact result to a binary32 value; which of the two enclosing
values comes out is `Config.faithfulUp`, an uninterpreted function of the input (log entry 1).
-/

namespace Sys2Proof.Machine

/-- Bits after the point of the fixed-point numbers here. -/
def fxBits : Nat := 640

/-- One, in fixed point. -/
def fxOne : Nat := 2 ^ fxBits

/-- The sum of `n` alternating or same-sign terms of an arctangent series: t, t/(3·q), t/(5·q²) …; `alt` alternates. -/
def fxArc (q : Nat) (alt : Bool) : Nat → Nat → Nat → Bool → Int → Int
  | 0, _, _, _, acc => acc
  | n + 1, t, k, neg, acc =>
    fxArc q alt n (t / q) (k + 2) (if alt then !neg else neg) (if neg then acc - (t / k : Nat) else acc + (t / k : Nat))

/-- π by Machin's formula. -/
def fxPi : Nat :=
  (16 * fxArc 25 true 300 (fxOne / 5) 1 false 0 - 4 * fxArc 57121 true 100 (fxOne / 239) 1 false 0).toNat

/-- ln 2 = 2 artanh(1/3). -/
def fxLn2 : Nat := (2 * fxArc 9 false 220 (fxOne / 3) 1 false 0).toNat

/-- Taylor terms of exp: t, t·y/k, … -/
def fxExpSum (y : Nat) : Nat → Nat → Nat → Nat → Nat
  | 0, _, _, acc => acc
  | n + 1, t, k, acc => fxExpSum y n (t * y / fxOne / k) (k + 1) (acc + t)

/-- exp of a fixed-point number in [0, 1). -/
def fxExp (y : Nat) : Nat := fxExpSum y 160 fxOne 1 0

/-- Taylor terms of sine or cosine: t, then -t·y²/(k·(k+1)), … -/
def fxTrigSum (y2 : Nat) : Nat → Nat → Nat → Bool → Int → Int
  | 0, _, _, _, acc => acc
  | n + 1, t, k, neg, acc =>
    fxTrigSum y2 n (t * y2 / fxOne / (k * (k + 1))) (k + 2) (!neg) (if neg then acc - (t : Int) else acc + (t : Int))

/-- sin of a fixed-point number in [0, 2). -/
def fxSin (y : Nat) : Nat := (fxTrigSum (y * y / fxOne) 90 y 2 false 0).toNat

/-- cos of a fixed-point number in [0, 2). -/
def fxCos (y : Nat) : Nat := (fxTrigSum (y * y / fxOne) 90 fxOne 1 false 0).toNat

/-- The first `n` binary digits after the point of log2 x, for x in [1, 2), by repeated squaring. -/
def fxLogBits : Nat → Nat → Nat → Nat
  | 0, _, acc => acc
  | n + 1, x, acc =>
    let y := x * x / fxOne
    if 2 * fxOne ≤ y then fxLogBits n (y / 2) (2 * acc + 1) else fxLogBits n y (2 * acc)

/-- The fixed-point number of a positive finite value with exponent at least -640, else truncated. -/
def Exact.toFx (x : Exact) : Nat := shiftNat x.m (x.e + fxBits)

/-- The bits of a faithful result: the magnitude lies strictly between the value of a code and that of the next
one, and `up` takes the next one. -/
def faithfulBits (fn : Nat) (input : W32) (neg : Bool) (mag : Exact) (ftz : Bool) : Nat :=
  let code := (FloatFmt.b32.truncate mag).1
  FloatFmt.b32.flush ftz (FloatFmt.b32.pack neg (code + if Config.faithfulUp fn input then 1 else 0))

/-- 2^x for a finite x that is no integer from -149 to 127 (R242): +inf above the largest finite value, +0 below
2^-150. -/
def exp2Finite (input : W32) (x : Exact) (ftz : Bool) : Nat :=
  let i : Int := if x.neg then -((shiftNat x.m x.e : Nat) : Int) - (if (dropped x.m x.e).1 = 0 then 0 else 1) else (shiftNat x.m x.e : Nat)
  if 127 < i then 0x7F800000
  else if i < -150 then 0
  else
    let f : Nat := if x.neg then (((-i).toNat * fxOne) - x.toFx) else (x.toFx - i.toNat * fxOne)
    let m := fxExp (f * fxLn2 / fxOne)
    let mag : Exact := ⟨false, m, i - fxBits, true⟩
    if FloatFmt.b32.maxCode ≤ (FloatFmt.b32.truncate mag).1 then 0x7F800000
    else faithfulBits 0 input false mag ftz

/-- FEXP2 (R241 to R243). -/
def fexp2 (input : W32) (ftz : Bool) : Nat :=
  match FloatFmt.b32.decode (FloatFmt.b32.flush ftz input.toNat) with
  | .nan => 0x7FC00000
  | .inf neg => if neg then 0 else 0x7F800000
  | .fin x =>
    if x.m = 0 then 0x3F800000
    else if (dropped x.m x.e).1 = 0 then
      let i : Int := if x.neg then -((shiftNat x.m x.e : Nat) : Int) else (shiftNat x.m x.e : Nat)
      if 127 < i then 0x7F800000
      else if -149 ≤ i then FloatFmt.b32.result .rne 0 ftz (.num false 1 i)
      else if i = -150 then faithfulBits 0 input false ⟨false, 1, -150, false⟩ ftz
      else 0
    else exp2Finite input x ftz

/-- FLOG2 (R241 to R243). -/
def flog2 (input : W32) (ftz : Bool) : Nat :=
  match FloatFmt.b32.decode (FloatFmt.b32.flush ftz input.toNat) with
  | .nan => 0x7FC00000
  | .inf neg => if neg then 0x7FC00000 else 0x7F800000
  | .fin x =>
    if x.m = 0 then 0xFF800000
    else if x.neg then 0x7FC00000
    else
      let n : Int := Nat.log2 x.m + x.e
      if x.m = 2 ^ Nat.log2 x.m then FloatFmt.b32.result .rne 0 ftz (.ofInt n)
      else
        let z : Int := n * 2 ^ 200 + fxLogBits 200 (shiftNat x.m (fxBits - Nat.log2 x.m)) 0
        let mag : Exact := if z < 0 then ⟨true, (-z - 1).toNat, -200, true⟩ else ⟨false, z.toNat, -200, true⟩
        faithfulBits 1 input (z < 0) mag ftz

/-- sin(π·x) (`quarter` 0) or cos(π·x) (`quarter` 1) of a finite x that is no multiple of 0.5, sign and magnitude: x is
taken modulo 2 and split into quarter turns. -/
def sinPi (x : Exact) (quarter : Nat) : Bool × Exact :=
  let t := x.toFx % (2 * fxOne)
  let u := if quarter = 0 then t else t + fxOne / 2
  let q := u / (fxOne / 2) % 4
  let r := u % (fxOne / 2)
  let y := r * fxPi / fxOne
  let m := if q % 2 = 0 then fxSin y else fxCos y
  ((decide (2 ≤ q)) != (x.neg && quarter = 0), ⟨false, m, -fxBits, true⟩)

/-- FSIN and FCOS (R241 to R243): exact at the multiples of 0.5. -/
def fsincos (quarter : Nat) (input : W32) (ftz : Bool) : Nat :=
  match FloatFmt.b32.decode (FloatFmt.b32.flush ftz input.toNat) with
  | .nan => 0x7FC00000
  | .inf _ => 0x7FC00000
  | .fin x =>
    if (dropped x.m (x.e + 1)).1 = 0 then
      let h := (shiftNat x.m (x.e + 1) + if quarter = 0 then 0 else 1) % 4
      let one := FloatFmt.b32.pack ((decide (h = 3)) != (x.neg && quarter = 0)) 0x3F800000
      if h % 2 = 1 then one else if quarter = 0 then FloatFmt.b32.pack x.neg 0 else 0
    else
      let r := sinPi x quarter
      faithfulBits (2 + quarter) input r.1 r.2 ftz

/-- tanh of a positive finite value below 64, truncated: (E - 1) / (E + 1) with E = e^(2x). -/
def tanhMag (x : Exact) : Exact :=
  let y := 2 * x.toFx
  let i := y / fxLn2
  let big := fxExp (y % fxLn2) * 2 ^ i
  ⟨false, (big - fxOne) * fxOne / (big + fxOne), -fxBits, true⟩

/-- FTANH (R241 to R243). -/
def ftanh (input : W32) (ftz : Bool) : Nat :=
  match FloatFmt.b32.decode (FloatFmt.b32.flush ftz input.toNat) with
  | .nan => 0x7FC00000
  | .inf neg => if neg then 0xBF800000 else 0x3F800000
  | .fin x =>
    if x.m = 0 then FloatFmt.b32.pack x.neg 0
    else if 64 ≤ shiftNat x.m x.e then faithfulBits 4 input x.neg ⟨false, 2 ^ 100 - 1, -100, true⟩ ftz
    else faithfulBits 4 input x.neg (tanhMag x) ftz

/-- FRCP: 1 / a, correctly rounded (R241, R243). -/
def frcp (rnd : Rnd) (g : Nat) (ftz : Bool) (x : Nat) : Nat :=
  FloatFmt.b32.result rnd g ftz (FVal.div (.num false 1 0) (FloatFmt.b32.decode (FloatFmt.b32.flush ftz x)))

/-- FSQRT: √a, correctly rounded (R241, R243). -/
def fsqrt (rnd : Rnd) (g : Nat) (ftz : Bool) (x : Nat) : Nat :=
  match FloatFmt.b32.decode (FloatFmt.b32.flush ftz x) with
  | .nan => 0x7FC00000
  | .inf neg => if neg then 0x7FC00000 else 0x7F800000
  | .fin a =>
    if a.m = 0 then FloatFmt.b32.pack a.neg 0
    else if a.neg then 0x7FC00000
    else FloatFmt.b32.result rnd g ftz (.fin a.sqrt)

/-- FRSQ: 1 / √a, correctly rounded (R241, R243). -/
def frsq (rnd : Rnd) (g : Nat) (ftz : Bool) (x : Nat) : Nat :=
  match FloatFmt.b32.decode (FloatFmt.b32.flush ftz x) with
  | .nan => 0x7FC00000
  | .inf neg => if neg then 0x7FC00000 else 0
  | .fin a =>
    if a.m = 0 then (if a.neg then 0xFF800000 else 0x7F800000)
    else if a.neg then 0x7FC00000
    else FloatFmt.b32.result rnd g ftz (.fin a.rsqrt)

end Sys2Proof.Machine
end

