-- ==== Sys2Proof/Machine/Float.lean ====
section
/-!
DEFINITION. Floating-point arithmetic and special functions (R232 to R243), with the literal forms of FADD, FMUL and FMA
(R211).
-/

namespace Sys2Proof.Machine

/-! ### One element (R233, R234, R240) -/

/-- The value of an input under FTZ (R39). -/
def FloatFmt.input (F : FloatFmt) (e : RndEnv) (x : Nat) : FVal := F.decode (F.flush e.ftz x)

/-- A result rounded in the environment of its lane, for element `j`. -/
def FloatFmt.rounded (F : FloatFmt) (e : RndEnv) (j : Nat) (v : FVal) : Nat := F.result e.rnd (e.word j) e.ftz v

/-- a + b. -/
def fadd (F : FloatFmt) (e : RndEnv) (j _d a b : Nat) : Nat := F.rounded e j ((F.input e a).add e.rnd (F.input e b))
/-- a - b. -/
def fsub (F : FloatFmt) (e : RndEnv) (j _d a b : Nat) : Nat := F.rounded e j ((F.input e a).add e.rnd (F.input e b).neg)
/-- a × b. -/
def fmul (F : FloatFmt) (e : RndEnv) (j _d a b : Nat) : Nat := F.rounded e j ((F.input e a).mul (F.input e b))
/-- a × b + d. -/
def ffma (F : FloatFmt) (e : RndEnv) (j d a b : Nat) : Nat :=
  F.rounded e j (((F.input e a).mul (F.input e b)).add e.rnd (F.input e d))
/-- a / b. -/
def fdiv (F : FloatFmt) (e : RndEnv) (j _d a b : Nat) : Nat := F.rounded e j ((F.input e a).div (F.input e b))
/-- FRND. -/
def frnd (F : FloatFmt) (e : RndEnv) (j a : Nat) : Nat := F.rounded e j ((F.input e a).integral e.rnd (e.word j))
/-- FSCALE: b is an integer of the element's width. -/
def fscale (F : FloatFmt) (e : RndEnv) (j _d a b : Nat) : Nat := F.rounded e j ((F.input e a).scale (toSigned F.width b))

/-- FMAL of one lane (R235). -/
def fmal (F : FloatFmt) (e : RndEnv) (d a b : Nat) : Nat :=
  let p (j : Nat) : FVal := (F.input e (elemOf 16 a j)).mul (F.input e (elemOf 16 b j))
  let dv := FloatFmt.b32.input e d
  let s := (p 0).add e.rnd (p 1)
  FloatFmt.b32.rounded e 0 (match s, dv with
    | .fin x, .fin y =>
      -- the exact sum of three terms is zero with one sign only when all three terms have it
      let r := x.add e.rnd y
      if r.m = 0 ∧ x.m = 0 ∧ y.m = 0 then
        match p 0, p 1 with
        | .fin u, .fin w => if u.neg = w.neg ∧ w.neg = y.neg then .fin { r with neg := y.neg } else .fin { r with neg := decide (e.rnd = .rdn) }
        | _, _ => .fin r
      else .fin r
    | s, dv => s.add e.rnd dv)

/-! ### Words -/

/-- A guarded float word on one source with one rounding per element. -/
def fltUn (i : Instr) (p : Ty → Bool) (d a : BitVec 8) (g : FloatFmt → RndEnv → Nat → Nat → Nat) : State → Host.Outcome State Fault Refusal :=
  fltOp i p d a (.v a) fun F e j _ x _ => g F e j x

/-- FADD (R234). -/
def execFadd (d a b : BitVec 8) : State → Host.Outcome State Fault Refusal := fltOp (.fadd d a b) Ty.isFlt d a (.v b) fadd
/-- FADD with a literal (R211). -/
def execFaddLit (d a : BitVec 8) (h : BitVec 4) (lit : W32) : State → Host.Outcome State Fault Refusal :=
  fltOp (.faddLit d a h lit) Ty.isFlt d a (.lit lit) fadd
/-- FSUB. -/
def execFsub (d a b : BitVec 8) : State → Host.Outcome State Fault Refusal := fltOp (.fsub d a b) Ty.isFlt d a (.v b) fsub
/-- FMUL. -/
def execFmul (d a b : BitVec 8) : State → Host.Outcome State Fault Refusal := fltOp (.fmul d a b) Ty.isFlt d a (.v b) fmul
/-- FMUL with a literal. -/
def execFmulLit (d a : BitVec 8) (h : BitVec 4) (lit : W32) : State → Host.Outcome State Fault Refusal :=
  fltOp (.fmulLit d a h lit) Ty.isFlt d a (.lit lit) fmul
/-- FMA: one rounding, d read before the write. -/
def execFma (d a b : BitVec 8) : State → Host.Outcome State Fault Refusal := fltOp (.fma d a b) Ty.isFlt d a (.v b) ffma
/-- FMA with a literal multiplier. -/
def execFmaLit (d a : BitVec 8) (h : BitVec 4) (lit : W32) : State → Host.Outcome State Fault Refusal :=
  fltOp (.fmaLit d a h lit) Ty.isFlt d a (.lit lit) ffma
/-- FDIVS. -/
def execFdivs (d a b : BitVec 8) : State → Host.Outcome State Fault Refusal := fltOp (.fdivs d a b) Ty.isFs d a (.v b) fdiv
/-- FRND (R240). -/
def execFrnd (d a : BitVec 8) (h : BitVec 4) : State → Host.Outcome State Fault Refusal := fltUn (.frnd d a h) Ty.isFlt d a frnd
/-- FSCALE (R240). -/
def execFscale (d a b : BitVec 8) : State → Host.Outcome State Fault Refusal := fltOp (.fscale d a b) Ty.isFs d a (.v b) fscale

/-- The packed 16-bit float TYPEs. -/
def Ty.isF16 (t : Ty) : Bool := t = .bf16x2 || t = .f16x2

/-- FMAL (R235). -/
def execFmal (d a b : BitVec 8) : State → Host.Outcome State Fault Refusal :=
  vecStep (.fmal d a b) Ty.isF16 (fun x _ => both (needV x false d.toNat) (both (needV x false a.toNat) (needV x false b.toNat)))
    fun x ty l t =>
      let e := x.t.env true l 1
      (t.wrV l d.toNat (BitVec.ofNat 32 (fmal ty.flt e.1 (x.t.rdV l d.toNat).toNat (x.t.rdV l a.toNat).toNat (x.t.rdV l b.toNat).toNat))).wrGen l e.2

/-- FMIN, FMAX, FMINN and FMAXN (R236). -/
def minMaxOp (i : Instr) (d a b : BitVec 8) (isMax number : Bool) (s : State) : Host.Outcome State Fault Refusal :=
  vecStep i Ty.isFlt (fun x ty => both (needV x ty.wide d.toNat) (both (needV x ty.wide a.toNat) (needV x ty.wide b.toNat)))
    (fun x ty l t => t.wrW ty.wide l d.toNat (onBits ty (fun _ u w =>
      ty.flt.minMax isMax number (ty.flt.flush x.t.ftz u) (ty.flt.flush x.t.ftz w)) (x.t.rdW ty.wide l a.toNat) (x.t.rdW ty.wide l b.toNat))) s

/-- FMIN. -/
def execFmin (d a b : BitVec 8) : State → Host.Outcome State Fault Refusal := minMaxOp (.fmin d a b) d a b false false
/-- FMAX. -/
def execFmax (d a b : BitVec 8) : State → Host.Outcome State Fault Refusal := minMaxOp (.fmax d a b) d a b true false
/-- FMINN. -/
def execFminn (d a b : BitVec 8) : State → Host.Outcome State Fault Refusal := minMaxOp (.fminn d a b) d a b false true
/-- FMAXN. -/
def execFmaxn (d a b : BitVec 8) : State → Host.Outcome State Fault Refusal := minMaxOp (.fmaxn d a b) d a b true true

/-- FABS: the sign bit cleared (R237). -/
def execFabs (d a : BitVec 8) (h : BitVec 4) : State → Host.Outcome State Fault Refusal :=
  vecUn (.fabs d a h) Ty.isFlt d a fun ty x => onBits ty (fun w u _ => u % 2 ^ (w - 1)) x 0
/-- FNEG: the sign bit inverted (R237). -/
def execFneg (d a : BitVec 8) (h : BitVec 4) : State → Host.Outcome State Fault Refusal :=
  vecUn (.fneg d a h) Ty.isFlt d a fun ty x => onBits ty (fun w u _ => (u + 2 ^ (w - 1)) % 2 ^ w) x 0

/-- FCMP (R238). -/
def execFcmp (c d : BitVec 3) (a b : BitVec 8) : State → Host.Outcome State Fault Refusal :=
  predStep (.fcmp c d a b) Ty.isFs d a (.v b) fun x ty u w => fcmpCond c ty.flt (ty.flt.flush x.t.ftz u) (ty.flt.flush x.t.ftz w)

/-- FCLASS (R239). -/
def execFclass (d a : BitVec 8) (h : BitVec 4) : State → Host.Outcome State Fault Refusal :=
  vecUn (.fclass d a h) Ty.isFlt d a classMask

/-- The TYPE f32. -/
def isF32 (t : Ty) : Bool := t = .f32

/-- FRCP (R241). -/
def execFrcp (d a : BitVec 8) (h : BitVec 4) : State → Host.Outcome State Fault Refusal :=
  fltUn (.frcp d a h) isF32 d a fun _ e j x => frcp e.rnd (e.word j) e.ftz x
/-- FRSQ. -/
def execFrsq (d a : BitVec 8) (h : BitVec 4) : State → Host.Outcome State Fault Refusal :=
  fltUn (.frsq d a h) isF32 d a fun _ e j x => frsq e.rnd (e.word j) e.ftz x
/-- FSQRT. -/
def execFsqrt (d a : BitVec 8) (h : BitVec 4) : State → Host.Outcome State Fault Refusal :=
  fltUn (.fsqrt d a h) isF32 d a fun _ e j x => fsqrt e.rnd (e.word j) e.ftz x

/-- A faithful function: a result by the input's bits and FTZ, and no draw (R242). -/
def faithfulOp (i : Instr) (d a : BitVec 8) (g : W32 → Bool → Nat) : State → Host.Outcome State Fault Refusal :=
  vecStep i isF32 (fun x _ => both (needV x false d.toNat) (needV x false a.toNat))
    fun x _ l t => t.wrV l d.toNat (BitVec.ofNat 32 (g (x.t.rdV l a.toNat) x.t.ftz))

/-- FEXP2. -/
def execFexp2 (d a : BitVec 8) (h : BitVec 4) : State → Host.Outcome State Fault Refusal := faithfulOp (.fexp2 d a h) d a fexp2
/-- FLOG2. -/
def execFlog2 (d a : BitVec 8) (h : BitVec 4) : State → Host.Outcome State Fault Refusal := faithfulOp (.flog2 d a h) d a flog2
/-- FSIN. -/
def execFsin (d a : BitVec 8) (h : BitVec 4) : State → Host.Outcome State Fault Refusal := faithfulOp (.fsin d a h) d a (fsincos 0)
/-- FCOS. -/
def execFcos (d a : BitVec 8) (h : BitVec 4) : State → Host.Outcome State Fault Refusal := faithfulOp (.fcos d a h) d a (fsincos 1)
/-- FTANH. -/
def execFtanh (d a : BitVec 8) (h : BitVec 4) : State → Host.Outcome State Fault Refusal := faithfulOp (.ftanh d a h) d a ftanh

end Sys2Proof.Machine
end

