-- ==== Sys2Proof/Machine/Integer.lean ====
section
/-!
DEFINITION. Integer arithmetic, logic, moves, compare, select and bit operations (R226 to R231, R248, R249), with their
literal forms (R211).
-/

namespace Sys2Proof.Machine

/-- The set ANY (R222). -/
def anyTy (_ : Ty) : Bool := true

/-- Signed integer TYPEs, which ABS accepts (R226). -/
def signedTy (t : Ty) : Bool := t.isInt && t.signed

/-- The integer words of R227 on three operands. -/
def intOp (i : Instr) (d a : BitVec 8) (b : VSrc) (g : Nat → Int → Int → Int → Int) : State → Host.Outcome State Fault Refusal :=
  vecOp i Ty.isInt d a b fun ty => onInts ty (g ty.width)

/-- x + y (R227). -/
def intAdd (_ : Nat) (_ x y : Int) : Int := x + y
/-- x - y. -/
def intSub (_ : Nat) (_ x y : Int) : Int := x - y
/-- x × y. -/
def intMul (_ : Nat) (_ x y : Int) : Int := x * y
/-- (x × y) div 2^w, floor division. -/
def intMulh (w : Nat) (_ x y : Int) : Int := (x * y).fdiv (2 ^ w : Nat)
/-- x × y + d. -/
def intMad (_ : Nat) (d x y : Int) : Int := x * y + d
/-- The smaller. -/
def intMin (_ : Nat) (_ x y : Int) : Int := if x ≤ y then x else y
/-- The larger. -/
def intMax (_ : Nat) (_ x y : Int) : Int := if y ≤ x then x else y

/-- Shift left by c mod w (R228). -/
def shlBits (w x c : Nat) : Nat := x * 2 ^ (c % w) % 2 ^ w
/-- Shift right, zeros enter. -/
def shrBits (w x c : Nat) : Nat := x / 2 ^ (c % w)
/-- Shift right, copies of bit w - 1 enter. -/
def shaBits (w x c : Nat) : Nat := wrapInt w (toSigned w x / (2 ^ (c % w) : Nat))
/-- Rotate left. -/
def rotBits (w x c : Nat) : Nat := (x * 2 ^ (c % w) + x / 2 ^ (w - c % w)) % 2 ^ w

/-- The bit width of the whole group operand: 32 or 64. -/
def Ty.groupBits (t : Ty) : Nat := if t.wide then 64 else 32

/-- ADD (R227). -/
def execAdd (d a b : BitVec 8) : State → Host.Outcome State Fault Refusal := intOp (.add d a b) d a (.v b) intAdd
/-- ADDS: element j of sb, or of its low 32 bits (R227). -/
def execAdds (d a : BitVec 8) (b : BitVec 6) : State → Host.Outcome State Fault Refusal := intOp (.adds d a b) d a (.s b) intAdd
/-- SUB (R227). -/
def execSub (d a b : BitVec 8) : State → Host.Outcome State Fault Refusal := intOp (.sub d a b) d a (.v b) intSub
/-- MUL (R227). -/
def execMul (d a b : BitVec 8) : State → Host.Outcome State Fault Refusal := intOp (.mul d a b) d a (.v b) intMul
/-- MULH (R227). -/
def execMulh (d a b : BitVec 8) : State → Host.Outcome State Fault Refusal := intOp (.mulh d a b) d a (.v b) intMulh
/-- MAD (R227). -/
def execMad (d a b : BitVec 8) : State → Host.Outcome State Fault Refusal := intOp (.mad d a b) d a (.v b) intMad
/-- MIN (R227). -/
def execMin (d a b : BitVec 8) : State → Host.Outcome State Fault Refusal := intOp (.min d a b) d a (.v b) intMin
/-- MAX (R227). -/
def execMax (d a b : BitVec 8) : State → Host.Outcome State Fault Refusal := intOp (.max d a b) d a (.v b) intMax
/-- ABS (R227). -/
def execAbs (d a : BitVec 8) (h : BitVec 4) : State → Host.Outcome State Fault Refusal :=
  vecUn (.abs d a h) signedTy d a fun ty x => onInts ty (fun _ v _ => if v < 0 then -v else v) 0 x 0
/-- NEG (R227). -/
def execNeg (d a : BitVec 8) (h : BitVec 4) : State → Host.Outcome State Fault Refusal :=
  vecUn (.neg d a h) Ty.isInt d a fun ty x => onInts ty (fun _ v _ => -v) 0 x 0
/-- AND (R229). -/
def execAnd (d a b : BitVec 8) : State → Host.Outcome State Fault Refusal := vecOp (.and d a b) anyTy d a (.v b) fun _ _ x y => x &&& y
/-- OR (R229). -/
def execOr (d a b : BitVec 8) : State → Host.Outcome State Fault Refusal := vecOp (.or d a b) anyTy d a (.v b) fun _ _ x y => x ||| y
/-- XOR (R229). -/
def execXor (d a b : BitVec 8) : State → Host.Outcome State Fault Refusal := vecOp (.xor d a b) anyTy d a (.v b) fun _ _ x y => x ^^^ y
/-- ANDN: a AND (NOT b) (R229). -/
def execAndn (d a b : BitVec 8) : State → Host.Outcome State Fault Refusal :=
  vecOp (.andn d a b) anyTy d a (.v b) fun ty _ x y => x &&& ((2 ^ ty.groupBits - 1) ^^^ y)
/-- NOT (R229). -/
def execNot (d a : BitVec 8) (h : BitVec 4) : State → Host.Outcome State Fault Refusal :=
  vecUn (.not d a h) anyTy d a fun ty x => (2 ^ ty.groupBits - 1) ^^^ x
/-- SHL (R228). -/
def execShl (d a b : BitVec 8) : State → Host.Outcome State Fault Refusal := vecOp (.shl d a b) Ty.isBits d a (.v b) fun ty _ => onBits ty shlBits
/-- SHR (R228). -/
def execShr (d a b : BitVec 8) : State → Host.Outcome State Fault Refusal := vecOp (.shr d a b) Ty.isBits d a (.v b) fun ty _ => onBits ty shrBits
/-- SHA (R228). -/
def execSha (d a b : BitVec 8) : State → Host.Outcome State Fault Refusal := vecOp (.sha d a b) Ty.isBits d a (.v b) fun ty _ => onBits ty shaBits
/-- ROT (R228). -/
def execRot (d a b : BitVec 8) : State → Host.Outcome State Fault Refusal := vecOp (.rot d a b) Ty.isBits d a (.v b) fun ty _ => onBits ty rotBits
/-- MOV (R229). -/
def execMov (d a : BitVec 8) (h : BitVec 4) : State → Host.Outcome State Fault Refusal := vecUn (.mov d a h) anyTy d a fun _ x => x
/-- MOVL: the literal in every lane of the execution mask (R211, R229). -/
def execMovl (d : BitVec 8) (h : BitVec 4) (lit : W32) : State → Host.Outcome State Fault Refusal :=
  vecStep (.movl d h lit) anyTy (fun x ty => needV x ty.wide d.toNat) fun _ ty l t => t.wrW ty.wide l d.toNat (litValue ty lit)

/-- ADD with a literal (R211, R227). -/
def execAddLit (d a : BitVec 8) (h : BitVec 4) (lit : W32) : State → Host.Outcome State Fault Refusal := intOp (.addLit d a h lit) d a (.lit lit) intAdd
/-- SUB with a literal. -/
def execSubLit (d a : BitVec 8) (h : BitVec 4) (lit : W32) : State → Host.Outcome State Fault Refusal := intOp (.subLit d a h lit) d a (.lit lit) intSub
/-- MUL with a literal. -/
def execMulLit (d a : BitVec 8) (h : BitVec 4) (lit : W32) : State → Host.Outcome State Fault Refusal := intOp (.mulLit d a h lit) d a (.lit lit) intMul
/-- MIN with a literal. -/
def execMinLit (d a : BitVec 8) (h : BitVec 4) (lit : W32) : State → Host.Outcome State Fault Refusal := intOp (.minLit d a h lit) d a (.lit lit) intMin
/-- MAX with a literal. -/
def execMaxLit (d a : BitVec 8) (h : BitVec 4) (lit : W32) : State → Host.Outcome State Fault Refusal := intOp (.maxLit d a h lit) d a (.lit lit) intMax
/-- AND with a literal. -/
def execAndLit (d a : BitVec 8) (h : BitVec 4) (lit : W32) : State → Host.Outcome State Fault Refusal :=
  vecOp (.andLit d a h lit) anyTy d a (.lit lit) fun _ _ x y => x &&& y
/-- OR with a literal. -/
def execOrLit (d a : BitVec 8) (h : BitVec 4) (lit : W32) : State → Host.Outcome State Fault Refusal :=
  vecOp (.orLit d a h lit) anyTy d a (.lit lit) fun _ _ x y => x ||| y
/-- XOR with a literal. -/
def execXorLit (d a : BitVec 8) (h : BitVec 4) (lit : W32) : State → Host.Outcome State Fault Refusal :=
  vecOp (.xorLit d a h lit) anyTy d a (.lit lit) fun _ _ x y => x ^^^ y
/-- SHL with a literal. -/
def execShlLit (d a : BitVec 8) (h : BitVec 4) (lit : W32) : State → Host.Outcome State Fault Refusal :=
  vecOp (.shlLit d a h lit) Ty.isBits d a (.lit lit) fun ty _ => onBits ty shlBits
/-- SHR with a literal. -/
def execShrLit (d a : BitVec 8) (h : BitVec 4) (lit : W32) : State → Host.Outcome State Fault Refusal :=
  vecOp (.shrLit d a h lit) Ty.isBits d a (.lit lit) fun ty _ => onBits ty shrBits
/-- SHA with a literal. -/
def execShaLit (d a : BitVec 8) (h : BitVec 4) (lit : W32) : State → Host.Outcome State Fault Refusal :=
  vecOp (.shaLit d a h lit) Ty.isBits d a (.lit lit) fun ty _ => onBits ty shaBits

/-- The comparison of CMP in a lane, by the signedness of TYPE (R230). -/
def cmpLane (c : BitVec 3) (ty : Ty) (a b : Nat) : Bool :=
  cmpCond c (intValue ty.signed ty.width a) (intValue ty.signed ty.width b)

/-- CMP (R230). -/
def execCmp (c d : BitVec 3) (a b : BitVec 8) : State → Host.Outcome State Fault Refusal :=
  predStep (.cmp c d a b) Ty.isWide d a (.v b) fun _ ty => cmpLane c ty
/-- CMP with a literal (R230). -/
def execCmpLit (c d : BitVec 3) (a : BitVec 8) (h : BitVec 4) (lit : W32) : State → Host.Outcome State Fault Refusal :=
  predStep (.cmpLit c d a h lit) Ty.isWide d a (.lit lit) fun _ ty => cmpLane c ty

/-- SEL: every live lane, whatever the guard (R231). -/
def execSel (d a b : BitVec 8) (s : State) : Host.Outcome State Fault Refusal :=
  teamStep (.sel d a b) (fun x => match needTy x anyTy with
    | .error e => .error e
    | .ok ty => match both (needV x ty.wide d.toNat) (both (needV x ty.wide a.toNat) (needV x ty.wide b.toNat)) with
      | .error e => .error e
      | .ok () => .ok (forLanes (fun l t => t.wrW ty.wide l d.toNat
          (if x.exec.getLsbD l then x.t.rdW ty.wide l a.toNat else x.t.rdW ty.wide l b.toNat)) (lanesOf (x.t.rdK 0) x.sh.lanes) x.t)) s

/-! ### Bit operations (R248, R249) -/

/-- Number of set bits among the low `n`. -/
def popcount (x : Nat) : Nat → Nat
  | 0 => 0
  | n + 1 => popcount x n + x / 2 ^ n % 2

/-- Leading zeros of `w` bits. -/
def clzBits (w x : Nat) : Nat := if x = 0 then w else w - 1 - Nat.log2 x

/-- Trailing zeros, scanning `n` bits from position `i`. -/
def ctzScan (x : Nat) : Nat → Nat → Nat
  | 0, i => i
  | n + 1, i => if x / 2 ^ i % 2 = 1 then i else ctzScan x n (i + 1)

/-- Position of set bit number `k`, scanning `n` bits from position `i`; all ones when there is none. -/
def fnsScan (x : Nat) : Nat → Nat → Nat → Nat
  | 0, _, _ => 0xFFFFFFFF
  | n + 1, i, k => if x / 2 ^ i % 2 = 1 then (if k = 0 then i else fnsScan x n (i + 1) (k - 1)) else fnsScan x n (i + 1) k

/-- The low `w` bits reversed. -/
def brevBits (w x : Nat) : Nat := joinElems 1 (fun j => x / 2 ^ (w - 1 - j) % 2) w

/-- Length of the field of BFX and BFI (R249). -/
def fieldLen (w b : Nat) : Nat := if w ≤ b % 2 ^ 8 then 0 else min (b / 2 ^ 8 % 2 ^ 8) (w - b % 2 ^ 8)

/-- BFX of one operand (R249). -/
def bfxBits (ty : Ty) (a b : Nat) : Nat :=
  let n := fieldLen ty.width b
  let f := a / 2 ^ (b % 2 ^ 8) % 2 ^ n
  if n = 0 then 0 else if ty.signed then wrapInt ty.width (toSigned n f) else f

/-- BFI of one operand (R249). -/
def bfiBits (ty : Ty) (d a b : Nat) : Nat :=
  let n := fieldLen ty.width b
  let p := b % 2 ^ 8
  if n = 0 then d else d - d / 2 ^ p % 2 ^ n * 2 ^ p + a % 2 ^ n * 2 ^ p

/-- POPC (R248). -/
def execPopc (d a : BitVec 8) (h : BitVec 4) : State → Host.Outcome State Fault Refusal :=
  vecUn (.popc d a h) Ty.isWide d a fun ty x => popcount x ty.width
/-- CLZ (R248). -/
def execClz (d a : BitVec 8) (h : BitVec 4) : State → Host.Outcome State Fault Refusal :=
  vecUn (.clz d a h) Ty.isWide d a fun ty x => clzBits ty.width x
/-- CTZ (R248). -/
def execCtz (d a : BitVec 8) (h : BitVec 4) : State → Host.Outcome State Fault Refusal :=
  vecUn (.ctz d a h) Ty.isWide d a fun ty x => ctzScan x ty.width 0
/-- FNS: b is the low register, as n32 (R248). -/
def execFns (d a b : BitVec 8) : State → Host.Outcome State Fault Refusal :=
  vecOp (.fns d a b) Ty.isWide d a (.v b) fun ty _ x y => fnsScan x ty.width 0 (y % 2 ^ 32)
/-- BREV (R248). -/
def execBrev (d a : BitVec 8) (h : BitVec 4) : State → Host.Outcome State Fault Refusal :=
  vecUn (.brev d a h) Ty.isWide d a fun ty x => brevBits ty.width x
/-- BFX (R249). -/
def execBfx (d a b : BitVec 8) : State → Host.Outcome State Fault Refusal :=
  vecOp (.bfx d a b) Ty.isWide d a (.v b) fun ty _ x y => bfxBits ty x y
/-- BFI (R249). -/
def execBfi (d a b : BitVec 8) : State → Host.Outcome State Fault Refusal :=
  vecOp (.bfi d a b) Ty.isWide d a (.v b) fun ty => bfiBits ty

end Sys2Proof.Machine
end

