-- ==== Sys2Proof/Machine/Cross.lean ====
section
/-!
DEFINITION. Cross-lane words (R254 to R258): shuffles, votes, ballots, reductions, the scan, and moves between lanes and
uniform registers. A span is S lanes (R90).
-/

namespace Sys2Proof.Machine

/-- First lane of the span of a lane. -/
def Ctx.spanBase (x : Ctx) (l : Nat) : Nat := l / x.sh.span * x.sh.span

/-- The value that a shuffle reads from a lane: zero at or above L (R91, R255). -/
def Ctx.laneVal (x : Ctx) (wide : Bool) (src r : Nat) : Nat := if src < x.sh.lanes then x.t.rdW wide src r else 0

/-- The shuffles with an immediate; `g` gives the place in the span from the lane's own place. -/
def shflOp (i : Instr) (d a : BitVec 8) (g : Nat → Nat → Nat) : State → Host.Outcome State Fault Refusal :=
  vecStep i anyTy (fun x ty => both (needV x ty.wide d.toNat) (needV x ty.wide a.toNat))
    fun x ty l t => t.wrW ty.wide l d.toNat (x.laneVal ty.wide (x.spanBase l + g x.sh.span (l % x.sh.span) % x.sh.span) a.toNat)

/-- SHFL.IDX: b is read as n32 (R255). -/
def execShflIdx (d a b : BitVec 8) : State → Host.Outcome State Fault Refusal :=
  vecStep (.shflIdx d a b) anyTy (fun x ty => both (needV x ty.wide d.toNat) (both (needV x ty.wide a.toNat) (needV x ty.wide b.toNat)))
    fun x ty l t => t.wrW ty.wide l d.toNat
      (x.laneVal ty.wide (x.spanBase l + (x.t.rdV l b.toNat).toNat % x.sh.span) a.toNat)
/-- SHFL.UP. -/
def execShflUp (d a : BitVec 8) (i : BitVec 6) : State → Host.Outcome State Fault Refusal :=
  shflOp (.shflUp d a i) d a fun s p => p + 64 * s - i.toNat
/-- SHFL.DN. -/
def execShflDn (d a : BitVec 8) (i : BitVec 6) : State → Host.Outcome State Fault Refusal :=
  shflOp (.shflDn d a i) d a fun _ p => p + i.toNat
/-- SHFL.XOR. -/
def execShflXor (d a : BitVec 8) (i : BitVec 6) : State → Host.Outcome State Fault Refusal :=
  shflOp (.shflXor d a i) d a fun _ p => p ^^^ i.toNat

/-- The lanes of the span that starts at `base`. -/
def Ctx.spanLanes (x : Ctx) (base : Nat) : List Nat := ((List.range x.sh.span).map fun j => base + j).filter fun l => l < x.sh.lanes

/-- The counted lanes m of a span for the member mask kb, ascending (R92). -/
def Ctx.counted (x : Ctx) (b : BitVec 3) (base : Nat) : List Nat :=
  (x.spanLanes base).filter fun l => (x.t.rdK b.toNat).getLsbD l && x.exec.getLsbD l

/-- VOTE (R256): one bit for every lane of the execution mask. -/
def voteOp (i : Instr) (d a b : BitVec 3) (all : Bool) (s : State) : Host.Outcome State Fault Refusal :=
  teamStep i (fun x =>
    let res (l : Nat) : Bool :=
      let m := x.counted b (x.spanBase l)
      if all then m.all fun j => (x.t.rdK a.toNat).getLsbD j else m.any fun j => (x.t.rdK a.toNat).getLsbD j
    .ok (x.t.wrK x.sh.lanes d.toNat ((maskOf res x.sh.lanes &&& x.exec) ||| (x.t.rdK d.toNat &&& ~~~x.exec)))) s

/-- VOTE.ANY. -/
def execVoteAny (d a b : BitVec 3) : State → Host.Outcome State Fault Refusal := voteOp (.voteAny d a b) d a b false
/-- VOTE.ALL. -/
def execVoteAll (d a b : BitVec 3) : State → Host.Outcome State Fault Refusal := voteOp (.voteAll d a b) d a b true

/-- BALLOT (R256): bit j for lane base + j; a pair under S = 64. -/
def execBallot (d : BitVec 8) (a b : BitVec 3) : State → Host.Outcome State Fault Refusal :=
  laneStep (.ballot d a b) (fun x => needV x (x.sh.span = 64) d.toNat) fun x l t =>
    let base := x.spanBase l
    let m := x.counted b base
    t.wrW (x.sh.span = 64) l d.toNat
      (joinElems 1 (fun j => if m.contains (base + j) && (x.t.rdK a.toNat).getLsbD (base + j) then 1 else 0) x.sh.span)

/-! ### Reductions (R257) -/

/-- What a fold computes. -/
inductive Fold where
  /-- RSUM and SCAN.ADD. -/
  | sum
  /-- RMIN. -/
  | least
  /-- RMAX. -/
  | most
deriving DecidableEq, Repr

/-- The TYPEs of the reductions. -/
def foldTy (t : Ty) : Bool := t.isInt || t.isFs

/-- One step of a fold, with the generator that stochastic additions draw from. -/
def foldStep (t : Team) (f : Fold) (ty : Ty) (gen : W32) (acc v : Nat) : Nat × W32 :=
  if ty.isInt then
    (onInts ty (fun _ x y => match f with
      | .sum => x + y
      | .least => if x ≤ y then x else y
      | .most => if y ≤ x then x else y) 0 acc v, gen)
  else match f with
    | .sum =>
      if t.rnd = .sto then
        let g := genDraw gen
        (fadd ty.flt ⟨.sto, t.ftz, t.sat, [g.2]⟩ 0 0 acc v, g.1)
      else (fadd ty.flt ⟨t.rnd, t.ftz, t.sat, []⟩ 0 0 acc v, gen)
    | .least => (ty.flt.minMax false false (ty.flt.flush t.ftz acc) (ty.flt.flush t.ftz v), gen)
    | .most => (ty.flt.minMax true false (ty.flt.flush t.ftz acc) (ty.flt.flush t.ftz v), gen)

/-- The partial values of a fold over the counted lanes, each with its lane, and the generator after. -/
def foldParts (x : Ctx) (f : Fold) (ty : Ty) (r : Nat) : W32 → Option Nat → List Nat → List (Nat × Nat) × W32
  | gen, _, [] => ([], gen)
  | gen, acc, l :: ls =>
    let v := x.t.rdW ty.wide l r
    let s := match acc with
      | none => (v, gen)
      | some a => foldStep x.t f ty gen a v
    let rest := foldParts x f ty r s.2 (some s.1) ls
    ((l, s.1) :: rest.1, rest.2)

/-- The identity of a fold over no lane. -/
def foldIdentity (f : Fold) (ty : Ty) : Nat :=
  match f with
  | .sum => 0
  | .least =>
    if ty.isInt then joinElems ty.width (fun _ => wrapInt ty.width (intHi ty.signed ty.width)) ty.count
    else ty.flt.infBits false false
  | .most =>
    if ty.isInt then joinElems ty.width (fun _ => wrapInt ty.width (intLo ty.signed ty.width)) ty.count
    else ty.flt.infBits false true

/-- The last partial value at or below a lane. -/
def partAt (parts : List (Nat × Nat)) (l : Nat) : Option Nat := ((parts.filter fun p => p.1 ≤ l).getLast?).map Prod.snd

/-- One span of a reduction or scan: its lanes of the execution mask are written, and the generator of the lowest of them
moves on. -/
def foldSpan (x : Ctx) (f : Fold) (scan : Bool) (ty : Ty) (d a : BitVec 8) (b : BitVec 3) (base : Nat) (t : Team) : Team :=
  match (x.spanLanes base).filter fun l => x.exec.getLsbD l with
  | [] => t
  | low :: rest =>
    let r := foldParts x f ty a.toNat (x.t.rdGen low) none (x.counted b base)
    let val (l : Nat) : Nat := if scan then (partAt r.1 l).getD 0 else ((r.1.getLast?).map Prod.snd).getD (foldIdentity f ty)
    (forLanes (fun l t => t.wrW ty.wide l d.toNat (val l)) (low :: rest) t).wrGen low r.2

/-- RSUM, RMIN, RMAX and SCAN.ADD. -/
def foldOp (i : Instr) (f : Fold) (scan : Bool) (d a : BitVec 8) (b : BitVec 3) (s : State) : Host.Outcome State Fault Refusal :=
  teamStep i (fun x => match needTy x foldTy with
    | .error e => .error e
    | .ok ty => match both (needV x ty.wide d.toNat) (needV x ty.wide a.toNat) with
      | .error e => .error e
      | .ok () => .ok (((List.range (x.sh.lanes / x.sh.span + 1)).map fun j => j * x.sh.span).foldl
          (fun t base => foldSpan x f scan ty d a b base t) x.t)) s

/-- RSUM. -/
def execRsum (d a : BitVec 8) (b : BitVec 3) : State → Host.Outcome State Fault Refusal := foldOp (.rsum d a b) .sum false d a b
/-- RMIN. -/
def execRmin (d a : BitVec 8) (b : BitVec 3) : State → Host.Outcome State Fault Refusal := foldOp (.rmin d a b) .least false d a b
/-- RMAX. -/
def execRmax (d a : BitVec 8) (b : BitVec 3) : State → Host.Outcome State Fault Refusal := foldOp (.rmax d a b) .most false d a b
/-- SCAN.ADD. -/
def execScanAdd (d a : BitVec 8) (b : BitVec 3) : State → Host.Outcome State Fault Refusal := foldOp (.scanAdd d a b) .sum true d a b

/-! ### Moves (R258) -/

/-- BCAST: not guarded. -/
def execBcast (d : BitVec 6) (a : BitVec 8) (b : BitVec 6) (s : State) : Host.Outcome State Fault Refusal :=
  teamStep (.bcast d a b) (fun x => match needTy x anyTy with
    | .error e => .error e
    | .ok ty => match needV x ty.wide a.toNat with
      | .error e => .error e
      | .ok () =>
        let l := (x.t.rdS b.toNat).toNat % x.sh.lanes
        let v := x.t.rdW ty.wide l a.toNat
        .ok (x.t.wrS d.toNat (if ty = .i32 then (BitVec.ofNat 32 v).signExtend 64 else BitVec.ofNat 64 v))) s

/-- LANEID. -/
def execLaneid (d : BitVec 8) (h : BitVec 4) : State → Host.Outcome State Fault Refusal :=
  laneStep (.laneid d h) (fun x => needV x false d.toNat) fun _ l t => t.wrV l d.toNat (BitVec.ofNat 32 l)

/-- MOVS. -/
def execMovs (d : BitVec 8) (a : BitVec 6) (h : BitVec 4) : State → Host.Outcome State Fault Refusal :=
  vecStep (.movs d a h) anyTy (fun x ty => needV x ty.wide d.toNat) fun x ty l t => t.wrW ty.wide l d.toNat (x.t.src ty l (.s a))

end Sys2Proof.Machine
end

