-- ==== Sys2Proof/Machine/Port.lean ====
section
/-!
DEFINITION. The ingress port of a device (R67, R136, R354): the checks of a request, and how an accepted one is performed.
-/

namespace Sys2Proof.Machine

/-- The maximal runs of set bits of a byte mask, as (position, length). -/
def maskRuns (m : BitVec 128) : List (Nat × Nat) :=
  (List.range 128).foldr (fun j rs =>
    if m.getLsbD j then
      (match rs with
       | (p, n) :: rest => if p = j + 1 then (j, n + 1) :: rest else (j, 1) :: rs
       | [] => [(j, 1)])
    else rs) []

/-- The KINDs that accept an operation. -/
def flitKinds : FlitOp → List (BitVec 4)
  | .load => [kData, kCode, kLayout]
  | .groupLoad => [kData]
  | .loadCap => [kData, kCode, kLayout]
  | .go _ => [kCommand]
  | _ => [kData]

/-- The permissions that it needs. -/
def flitPerm : FlitOp → BitVec 12
  | .load => pLD
  | .loadCap => pLD
  | .store => pST
  | .storeCap => pST
  | .atomic _ _ _ _ => pLD ||| pST ||| pAT
  | .go _ => pGO
  | .groupLoad => pLD
  | .groupStore => pST

/-- Whether it writes. -/
def flitWrites : FlitOp → Bool
  | .store => true
  | .storeCap => true
  | .atomic _ _ _ _ => true
  | .groupStore => true
  | _ => false

/-- The offset in the capability of byte `j` of a flit's line. -/
def flitOff (f : Flit) (j : Nat) : Nat := (f.off + BitVec.ofNat 64 j).toNat

/-- The checks of a port, in order: the step that fails and its fault (R67; for the MMIO window PERM and ALIGN also, R136, log entry
89). -/
def State.portFails (s : State) (f : Flit) : Option (BitVec 4 × FaultCode) :=
  let c := Cap.ofNat f.cap.toNat f.capTag
  let runs := maskRuns f.mask
  let inner : Cap := { c with kind := c.inner }
  let mmio := runs.any fun r => touchesMmio (c.localAt (flitOff f r.1)) r.2
  if s.excluded.contains f.src.toNat then some (1, .remoteAbsent)
  else if !c.tag then some (2, .tag)
  else if c.kind ≠ kSealed then some (3, .kind)
  else if c.target ≠ f.src.toNat then some (4, .sealed)
  else if f.band ≠ 0 ∧ c.band ≠ f.band then some (5, .band)
  else if c.inner ∉ flitKinds f.op then some (6, .kind)
  else if !inner.has (flitPerm f.op) ∨ (mmio ∧ f.band ≠ 0) then some (7, .perm)
  else if (s.quarHit c).isSome then some (8, .quarantine)
  else if runs.any fun r => c.len < flitOff f r.1 + r.2 then some (9, .bounds)
  else if mmio ∧ runs.any (fun r => touchesMmio (c.localAt (flitOff f r.1)) r.2 &&
      !((r.2 = 4 || r.2 = 8) && decide (c.localAt (flitOff f r.1) % r.2 = 0))) then some (9, .align)
  else if flitWrites f.op ∧ c.has pCW then some (10, .cow)
  else none

/-- Bits of a flit's payload, as bytes of a run. -/
def flitBytes (f : Flit) (r : Nat × Nat) : List Byte := (List.range r.2).map fun j => BitVec.ofNat 8 (f.payload.toNat / 2 ^ (8 * (r.1 + j)))

/-- Whether the halves that a flit touches are held (R155). -/
def State.flitReady (s : State) (f : Flit) : Bool :=
  let c := Cap.ofNat f.cap.toNat f.capTag
  (maskRuns f.mask).all fun r => s.rowReady 0 { c with kind := kData } (flitOff f r.1) r.2 (flitWrites f.op)

/-- A flit's loads: the line with the bytes asked for, tags and poison. -/
def State.flitLoad (s : State) (f : Flit) (c : Cap) : Answer :=
  let runs := maskRuns f.mask
  let d : Cap := { c with kind := kData }
  let rows := runs.map fun r => (r.1, (s.readRow 0 d (flitOff f r.1) r.2 []).1)
  let at_ {α : Type} (get : Row → List α) (z : α) (j : Nat) : α :=
    match rows.find? fun q => decide (q.1 ≤ j) && decide (j < q.1 + q.2.data.length) with
    | some q => (get q.2).getD (j - q.1) z
    | none => z
  { step := 0, code := 0, timeout := false, pass := 0, data := (List.range 128).map (at_ Row.data 0)
    tags := (List.range 8).map fun g => f.op = .loadCap && c.has pLDC && at_ Row.tags false (16 * g) && !s.struck (Cap.ofNat
      (bytesNat ((List.range 16).map fun k => at_ Row.data 0 (16 * g + k))) true)
    poison := (List.range 8).map fun g => (List.range 16).any fun k => at_ Row.poison false (16 * g + k) }

/-- A flit's stores: bytes, the tags of whole granules that a capability store carries, and poison. -/
def State.flitStore (s : State) (f : Flit) (c : Cap) : State :=
  let d : Cap := { c with kind := kData }
  (maskRuns f.mask).foldl (fun (a : State) r =>
    let bs := flitBytes f r
    let row : Row := ⟨bs, List.replicate r.2 false, (List.range r.2).map fun j => f.poison.getLsbD ((r.1 + j) / 16)⟩
    a.writeRow 0 f.band d (flitOff f r.1) row fun j => f.op = .storeCap && c.has pSTC && f.tags.getLsbD ((r.1 + j) / 16) &&
      !a.struck (Cap.ofNat (bytesNat ((bs.drop j).take 16)) true)) s

/-- A flit's atomic on its one run of bytes: the state, and the old value in its place in the line; a reserved range gives
poison (R136). -/
def State.flitAtomic (s : State) (f : Flit) (c : Cap) (op : BitVec 4) (ty : BitVec 5) (x y : W64) : State × Answer :=
  match maskRuns f.mask with
  | r :: _ =>
    let a := c.localAt (flitOff f r.1)
    let bad : Bool := (s.poisonAt a r.2).isSome
    let line (bs : List Byte) : List Byte := List.replicate r.1 0 ++ bs ++ List.replicate (128 - r.1 - bs.length) 0
    if bad then (s, { Answer.plain (line []) with poison := List.replicate 8 true })
    else
      let q := s.accessHome a r.2 (.atomic op.toNat ty.toNat x.toNat y.toNat) c.isSy
      (q.1, .plain (line q.2.data))
  | [] => (s, .plain (List.replicate 128 0))

/-- An SY access puts the lines it touches in update mode (R149). -/
def State.flitSy (s : State) (f : Flit) (c : Cap) : State :=
  s.markRows { c with kind := kData } ((maskRuns f.mask).map fun r => (flitOff f r.1, r.2))

/-- The rejection of a request: step and code of R67, and the lehr pass of a QUARANTINE (R181). -/
def State.portReply (s : State) (f : Flit) (step : BitVec 4) (code : FaultCode) : Answer :=
  .refusal step code.code (if code = .quarantine then (s.quarHit (Cap.ofNat f.cap.toNat f.capTag)).getD 0 else 0)

end Sys2Proof.Machine
end

