-- ==== Sys2Proof/Machine/Fabric.lean ====
section
/-!
DEFINITION. Address groups (R359 to R361), multicast load-and-reduce and multicast store (R362 to R367), gateway rings
(R368, R403), and the ports' own events (R352).
-/

namespace Sys2Proof.Machine

/-! ### Group records (R359) -/

/-- Bytes of a group record of `n` members. -/
def groupLen (n : Nat) : Nat := 1216 + 16 * n

/-- Part of a group record, as the device reads it. -/
def State.groupRow (s : State) (shop : Nat) (g : Cap) (off n : Nat) : Row := (s.readRow shop g off n []).1

/-- COUNT. -/
def State.groupCount (s : State) (shop : Nat) (g : Cap) : Nat := (s.groupRow shop g 0 2).num 0 2

/-- STATE. -/
def State.groupState (s : State) (shop : Nat) (g : Cap) : Nat := (s.groupRow shop g 2 1).num 0 1

/-- Member `i`. -/
def State.groupMember (s : State) (shop : Nat) (g : Cap) (i : Nat) : Cap := s.moved ((s.groupRow shop g (1216 + 16 * i) 16).capAt 0)

/-- Whether the halves of a record in the host window are held for reading all of it and writing its first 1,216 bytes. -/
def State.groupReady (s : State) (shop : Nat) (g : Cap) : Bool :=
  s.rowReady shop g 0 1216 true && s.rowReady shop g 0 (groupLen (s.groupCount shop g)) false

/-- Write bytes of a record. -/
def State.groupWrite (s : State) (shop : Nat) (g : Cap) (off : Nat) (bs : List Byte) : State := s.writePlain shop g.band g off bs

/-- POISON for an engine's read at issue of a record or block, at an offset of a capability: FAUX is the first poisoned granule (R181). -/
def recordPoison (c : Cap) (off : Nat) (r : Row) : Trap :=
  ⟨.poison, 0, 0, 0, 0, false, off, wrapAddr (c.addr + off), wrapAddr (c.addr + off + r.poison.findIdx id) / 16 * 16⟩

/-- The fault of member `i` (R360 step 3). -/
def State.memberTrap (s : State) (x : Ctx) (g : Cap) (i : Nat) : Option Trap :=
  let bad (code : FaultCode) : Option Trap := some ⟨code, 0, 0, 3, 0, false, 1216 + 16 * i, wrapAddr (g.addr + 1216 + 16 * i), i⟩
  let m := s.groupMember (shopOf x.n) g i
  if (s.groupRow (shopOf x.n) g (1216 + 16 * i) 16).poison.any id then bad .poison
  else if !m.tag then bad .tag
  else if m.kind ≠ kSealed ∨ m.inner ≠ kData then bad .kind
  else if m.target ≠ s.devId.toNat then bad .sealed
  else if m.band ≠ x.sh.band then bad .band
  else none

/-- The first failing member of a list. -/
def State.memberTraps (s : State) (x : Ctx) (g : Cap) : List Nat → Option Trap
  | [] => none
  | i :: is => (s.memberTrap x g i).orElse fun _ => s.memberTraps x g is

/-- The capability that GRPMK writes into cD. -/
def groupCap (c : Cap) : Cap :=
  { c with kind := kGroup, fmt := 0, perm := c.perm &&& (pLD ||| pGO ||| pSEAL ||| pEXPORT ||| pDERIVE) }

/-- GRPMK. -/
def execGrpmk (d a : BitVec 5) (h : BitVec 4) : State → Host.Outcome State Fault Refusal :=
  wordStep (.grpmk d a h) fun x s =>
    let c := x.t.rdC a.toNat
    let sh := shopOf x.n
    -- a misaligned base fails at step 8, before the COW of step 9
    let judged := if c.addr % 64 = 0 then c else { c with perm := c.perm &&& ~~~pCW }
    match x.place s ⟨[kData], false, pLD ||| pST ||| pLDC ||| pDERIVE, false, true⟩ judged 0 1 a.toNat 0 16 16 with
    | .error e => .error e
    | .ok (_, addr) =>
      let n := s.groupCount sh c
      if c.addr % 64 ≠ 0 then .error ⟨.align, 0, 8, 1, a.toNat, false, 0, addr, 0⟩
      else if !s.rowReady sh c 0 16 true then s.block x (.grpmk d a h) false
      else if (s.groupRow sh c 0 2).poison.any id then .error (recordPoison c 0 (s.groupRow sh c 0 2))
      else if n < 2 ∨ 9216 < n then .error { engineBad with aux := 0xFFFF }
      else if c.len < groupLen n then .error ⟨.bounds, 0, 7, 1, a.toNat, false, 0, addr, 0⟩
      else if !s.groupReady sh c then s.block x (.grpmk d a h) false
      else match s.memberTraps x c (List.range n) with
        | some e => .error e
        | none =>
          let s1 := (s.groupWrite sh c 2 [4]).markSy c 0 (groupLen n)
          let s2 := s1.setTeam x.n (x.awake.wrC d.toNat (groupCap c))
          .ok (s2.issueCmd x 5 (.groupSetup (groupCap c)) .none 0, .next)

/-- GROUP_SETUP_COMPLETE (R360): every switch has confirmed and the group has this id, or a table was full. -/
def execGroupSetupComplete (id : Nat) (gid : Option (BitVec 16)) (s : State) : Host.Outcome State Fault Refusal :=
  match s.turn? id with
  | none => .fault .notEnabled
  | some c =>
    match c.body with
    | .groupSetup g =>
      if !s.rowReady c.shop g 0 1216 true || !s.portsOpen then .fault .notEnabled
      else match gid with
        | some v =>
          let s1 := s.groupWrite c.shop g 6 (natBytes 2 v.toNat)
          let s2 := s1.groupWrite c.shop g 64 (List.replicate 1152 0)
          let s3 := s2.groupWrite c.shop g 2 [1]
          .next (({ s3 with groups := s3.groups ++ [⟨g.localAt 0, v⟩] } : State).endCmd c 0 none)
        | none => .next ((s.groupWrite c.shop g 2 [2]).endCmd c 0 none)
    | _ => .fault .notEnabled

/-- Whether earlier commands of a team keep a new one of the fabric queue waiting. -/
def State.fabricBusy (s : State) (n : Nat) : Bool :=
  s.cmds.any fun c => c.team = some n && match c.body with
    | .fence q => q.getLsbD 5
    | _ => c.queue = 5

/-- GRPQ: a read of STATE and COUNT or of ABSENT bits; 0xFF releases the group once the team's earlier fabric commands are
done. -/
def execGrpq (d : BitVec 6) (a : BitVec 5) (sel : BitVec 8) : State → Host.Outcome State Fault Refusal :=
  wordStep (.grpq d a sel) fun x s =>
    let g := x.t.rdC a.toNat
    let sh := shopOf x.n
    let release : Bool := sel = 0xFF
    let off := if sel = 0 ∨ release then 0 else 64 + 8 * (sel.toNat - 1)
    match x.needScope s x.t.scope with
    | .error e => .error e
    | .ok () => match x.place s ⟨[kGroup], false, if release then pLD ||| pGO else pLD, !release, false⟩ g 0 1 a.toNat off 8 8 with
      | .error e => .error e
      | .ok _ =>
        if release then
          (if s.fabricBusy x.n || !s.rowReady sh g 2 1 true then s.block x (.grpq d a sel) false
           else
             let s1 := s.groupWrite sh g 2 [3]
             .ok (({ s1 with groups := s1.groups.filter fun r => r.record ≠ g.localAt 0 } : State).setTeam x.n (x.awake.wrS d.toNat 0), .next))
        else if !s.rowReady sh g off 8 false then s.block x (.grpq d a sel) false
        else
          let r := s.groupRow sh g off 8
          if r.poison.any id then .error (recordPoison g off r)
          else .ok ((s.markSy g off 8).setTeam x.n (x.awake.wrS d.toNat (BitVec.ofNat 64 (r.num 0 8))), .next)

/-! ### MLRED and MSTM at issue (R362) -/

/-- What a group command names. -/
structure GroupArgs where
  /-- Group. -/
  grp : Cap
  /-- Local buffer. -/
  buf : Cap
  /-- SRC and register of the group operand. -/
  gref : Nat × Nat
  /-- SRC and register of the buffer operand. -/
  bref : Nat × Nat
  /-- SOFF. -/
  soff : Nat
  /-- DOFF. -/
  doff : Nat
  /-- LEN. -/
  len : Nat
  /-- MSTM. -/
  store : Bool
  /-- bfloat16 output. -/
  bf16 : Bool
  /-- Rounding code. -/
  rnd : Nat
  /-- SAT. -/
  sat : Bool
deriving DecidableEq, Repr

/-- The KINDs of the local buffer, unsealed. -/
def bufUse (store : Bool) : Use := ⟨copyKinds, false, if store then pLD else pST, store, !store⟩

/-- Bytes that the local buffer of a group command takes. -/
def GroupArgs.out (g : GroupArgs) : Nat := if g.store then g.len else if g.bf16 then g.len else 2 * g.len

/-- The checks of a group command before its completion (R362): cG, the ranges and the control word, the local buffer. -/
def Ctx.groupCheck (x : Ctx) (s : State) (g : GroupArgs) (ctl : Bool) : Except Trap Unit :=
  let most := if g.store then 65536 else 4096
  match x.place s ⟨[kGroup], false, pLD ||| pGO, false, false⟩ g.grp 0 g.gref.1 g.gref.2 0 8 8 with
  | .error e => .error e
  | .ok _ =>
    -- the record is read as more than 8 bytes (R136)
    if inMmio g.grp.addr then .error ⟨.align, 0, 8, g.gref.1, g.gref.2, false, 0, wrapAddr g.grp.addr, 0⟩
    else if !ctl ∨ g.len < 128 ∨ most < g.len ∨ g.len % 128 ≠ 0 ∨ (if g.store then g.doff else g.soff) % 128 ≠ 0 then .error engineBad
    else s.engineCheck x.sh.band (bufUse g.store) g.buf g.bref.1 g.bref.2 [(if g.store then g.soff else g.doff, g.out)]

/-- A group command that has passed its checks: its body and the bytes that it writes (R311). -/
def State.groupBody (s : State) (shop : Nat) (g : GroupArgs) : CmdBody × Nat :=
  if g.store then (.mstm g.grp g.buf g.soff g.doff g.len, g.len * s.groupCount shop g.grp)
  else (.mlred g.grp g.buf g.soff g.doff g.len g.bf16 g.rnd g.sat, g.out)

/-- Issue a group command from a word. -/
def groupStep (i : Instr) (g : BitVec 3) (ty : Ctx → Except Trap Unit) (args : Ctx → Group8 → GroupArgs) :
    State → Host.Outcome State Fault Refusal :=
  wordStep i fun x s =>
    let gr := x.group8 g
    match both (ty x) (x.groupCheck s (args x gr) (gr.ctlOk 0)) with
    | .error e => .error e
    | .ok () =>
      if !s.groupReady (shopOf x.n) (args x gr).grp then s.block x i false
      else match x.completion s gr (s.groupBody (shopOf x.n) (args x gr)).2 with
        | .error e => .error e
        | .ok done => .ok ((s.setTeam x.n x.awake).issueCmd x 5 (s.groupBody (shopOf x.n) (args x gr)).1 done 0, .next)

/-- MLRED. -/
def execMlred (d a : BitVec 5) (g : BitVec 3) : State → Host.Outcome State Fault Refusal :=
  groupStep (.mlred d a g) g (fun x => (needTy x fun t => t = .f32 || t = .bf16x2).map fun _ => ()) fun x gr =>
    { grp := x.t.rdC a.toNat, buf := x.t.rdC d.toNat, gref := (1, a.toNat), bref := (1, d.toNat), soff := gr.soff, doff := gr.doff
      len := gr.len, store := false, bf16 := x.t.ty? = some .bf16x2, rnd := x.t.modeBits 15 3, sat := x.t.sat }

/-- MSTM. -/
def execMstm (d a : BitVec 5) (g : BitVec 3) : State → Host.Outcome State Fault Refusal :=
  groupStep (.mstm d a g) g (fun _ => .ok ()) fun x gr =>
    { grp := x.t.rdC d.toNat, buf := x.t.rdC a.toNat, gref := (1, d.toNat), bref := (1, a.toNat), soff := gr.soff, doff := gr.doff
      len := gr.len, store := true, bf16 := false, rnd := 0, sat := false }

/-- What the group block of a GO names (R367). -/
def State.groupBlockArgs (s : State) (c : Cap) (r : Row) : GroupArgs :=
    { grp := s.blockCap c r 16, buf := s.blockCap c r 32, gref := (3, 0), bref := (3, 0), soff := r.num 48 8, doff := r.num 56 8
      len := r.num 64 8, store := r.num 1 1 = 1, bf16 := r.num 72 1 = 1, rnd := 0, sat := false }

/-- The checks of the group block of a GO (R367): OUT, whose values 2 and more are refused in both forms (log entry 193), and the zero bytes
first, then R362's. -/
def Ctx.groupBlock (x : Ctx) (s : State) (c : Cap) (r : Row) : Except Trap (CmdBody × Nat) :=
  if 1 < r.num 72 1 ∨ r.num 73 55 ≠ 0 then .error engineBad
  else (x.groupCheck s (s.groupBlockArgs c r) true).map fun _ => s.groupBody (shopOf x.n) (s.groupBlockArgs c r)

/-- Whether a GO of a group block has passed these checks and waits for the halves of its record (R155). -/
def Ctx.groupWaits (x : Ctx) (s : State) (c : Cap) (r : Row) : Bool :=
  (x.groupBlock s c r).isOk && !s.groupReady (shopOf x.n) (s.groupBlockArgs c r).grp

/-! ### MLRED and MSTM performed (R363 to R365) -/

/-- rne32 (R363). -/
def rne32 (v : FVal) : FVal := FloatFmt.b32.decode (FloatFmt.b32.encode .rne 0 false v)

/-- A fold from the first of a list on: none for an empty one. -/
def leafFold : List FVal → Option FVal
  | [] => none
  | v :: vs => some (vs.foldl (fun a b => rne32 (FVal.add .rne a b)) v)

/-- The parts of each leaf in ascending leaf index: members are (leaf, element) in ascending member index. -/
def leafParts (ms : List (Nat × FVal)) : List FVal :=
  let top := (ms.map Prod.fst).foldl max 0
  (List.range (top + 1)).filterMap fun l => leafFold ((ms.filter fun m => m.1 = l).map Prod.snd)

/-- Element `i` of the reduction, from each member's leaves by line and its bytes. -/
def reduceElem (ans : List (List Nat × Answer)) (i : Nat) : FVal :=
  (leafFold (leafParts (ans.map fun a =>
    (a.1.getD (2 * i / 128) 0, FloatFmt.bf16.decode (bytesNat ((a.2.data.drop (2 * i)).take 2)))))).getD (FVal.num false 0 0)

/-- The bytes of MLRED's result. -/
def reduceBytes (ans : List (List Nat × Answer)) (len : Nat) (bf16 : Bool) (rnd : Rnd) (sat : Bool) : List Byte :=
  (List.range (len / 2)).flatMap fun i =>
    if bf16 then natBytes 2 (FloatFmt.bf16.encode rnd 0 sat (reduceElem ans i))
    else natBytes 4 (FloatFmt.b32.encode .rne 0 false (reduceElem ans i))

/-- A member has answered. -/
def hasAnswered (a : Answer) : Bool := !a.timeout && a.step = 0

/-- The indices of the members that are absent or rejected, with their answers. -/
def absentOf (ans : List Answer) : List (Answer × Nat) := ans.zipIdx.filter fun p => !hasAnswered p.1

/-- REJ: the code of the lowest-indexed member that its port rejected, or 0. -/
def rejOf (ans : List Answer) : Byte :=
  match (absentOf ans).find? fun p => !p.1.timeout with
  | some p => p.1.code
  | none => 0

/-- Set the ABSENT bits of members. -/
def State.setAbsent (s : State) (shop : Nat) (g : Cap) : List Nat → State
  | [] => s
  | i :: is =>
    let b := (s.groupRow shop g (64 + i / 8) 1).num 0 1
    (s.groupWrite shop g (64 + i / 8) [BitVec.ofNat 8 b ||| 1#8 <<< (i % 8)]).setAbsent shop g is

/-- What a group command leaves in its record, which it has read whole, before its completion: ABSENT, LASTST, and REJ when it changes. -/
def State.groupEnd (s : State) (c : Cmd) (g : Cap) (ans : List Answer) (code : Nat) (rej : Bool) (bytes : Nat) : State :=
  let s1 := (s.markSy g 0 (groupLen (s.groupCount c.shop g))).setAbsent c.shop g ((absentOf ans).map Prod.snd)
  let s2 := s1.groupWrite c.shop g 3 (BitVec.ofNat 8 code :: if rej then [rejOf ans] else [])
  s2.endCmd c bytes (if code = 0 then none else some code)

/-- The members of a group. -/
def State.groupMembers (s : State) (shop : Nat) (g : Cap) : List Cap := (List.range (s.groupCount shop g)).map fun i => s.groupMember shop g i

/-- A group command that is not LIVE when performed, or whose record holds poison: its code (log entry 108). -/
def State.groupRefused (s : State) (c : Cmd) (g : Cap) : Option Nat :=
  if (s.groupRow c.shop g 0 (groupLen (s.groupCount c.shop g))).poison.any id then some 0x80
  else if s.groupState c.shop g ≠ 1 then some 0x86
  else none

/-- Whether a group command can be ended now. -/
def State.groupCanEnd (s : State) (c : Cmd) (g : Cap) : Bool := s.groupReady c.shop g && s.reportReady c

/-- A refused group command ends: LASTST holds its code, and REJ is 0 where no member was asked (R359). -/
def State.groupRefuse (s : State) (c : Cmd) (g : Cap) (code : Nat) : State := s.groupEnd c g [] code (code = 0x86) 0

/-- The request that a switch sends a member for a line at an offset of its buffer, with the group's building device as SRC (R363). -/
def State.memberFlit (s : State) (band : BitVec 8) (m : Cap) (off : Nat) (op : FlitOp) (line : Row) : Flit :=
  { src := s.devId, band := band, op := op, cap := BitVec.ofNat 128 m.toNat, capTag := m.tag, off := BitVec.ofNat 64 off
    mask := BitVec.allOnes 128, payload := BitVec.ofNat 1024 (bytesNat line.data), tags := 0
    poison := BitVec.ofNat 8 (joinElems 1 (fun g => ((List.range 16).any fun j => line.poison.getD (16 * g + j) false).toNat) 8), lane := 0, seq := 0 }

/-- Bytes of a row from `o` on, `n` of them. -/
def Row.line (r : Row) (o n : Nat) : Row := ⟨(r.data.drop o).take n, (r.tags.drop o).take n, (r.poison.drop o).take n⟩

/-- The requests for `len` bytes of a member from `off` on; `r` holds the bytes that a store writes. -/
def State.memberFlits (s : State) (band : BitVec 8) (m : Cap) (off len : Nat) (op : FlitOp) (r : Row) : List Flit :=
  (List.range (len / 128)).map fun j => s.memberFlit band m (off + 128 * j) op (r.line (128 * j) 128)

/-- What the port of this device answers the requests at a member that is this device (R360): the first rejection, or an acceptance. -/
def State.memberVerdict (s : State) (fs : List Flit) : Answer :=
  match fs.findSome? fun f => (s.portFails f).map fun p => s.portReply f p.1 p.2 with
  | some a => a
  | none => .plain []

/-- MLRED's read of a member that is this device. -/
def State.memberRead (s : State) (band : BitVec 8) (m : Cap) (off len : Nat) : Answer :=
  let fs := s.memberFlits band m off len .groupLoad (Row.plain [])
  let v := s.memberVerdict fs
  if v.step ≠ 0 then v
  else
    let as := fs.map fun f => s.flitLoad f m
    { v with data := as.flatMap Answer.data, poison := as.flatMap Answer.poison }

/-- MSTM's write of a member that is this device: the requests that its port accepts. -/
def State.memberWrite (s : State) (band : BitVec 8) (m : Cap) (off : Nat) (r : Row) : State :=
  (s.memberFlits band m off r.data.length .groupStore r).foldl (fun (a : State) f =>
    if (a.portFails f).isNone then (a.flitStore f m).flitSy f m else a) s

/-- Whether a member is this device. -/
def State.isHere (s : State) (m : Cap) : Bool := m.dev = s.devId.toNat

/-- Whether the host-window halves under the members that are this device are held, and peers can have answered (R155, R352, R402). -/
def State.membersReady (s : State) (band : BitVec 8) (off len : Nat) (op : FlitOp) (ms : List Cap) (ans : List Answer) : Bool :=
  (ms.zip ans).all fun p =>
    if s.isHere p.1 then (s.memberFlits band p.1 off len op (Row.plain [])).all s.flitReady else p.2.timeout || s.portsOpen

/-- The answers of the members: those of peers come from outside, those of this device are its own. -/
def State.readAnswers (s : State) (band : BitVec 8) (off len : Nat) (ms : List Cap) (ans : List (List Nat × Answer)) : List (List Nat × Answer) :=
  (ms.zip ans).map fun p => if s.isHere p.1 then (p.2.1, s.memberRead band p.1 off len) else p.2

/-- MLRED_COMPLETE (R363, R364): `ans` holds, for each member, the leaves that carry its lines and, for a peer, its answer; it is empty
for a refused command. -/
def execMlredComplete (id : Nat) (ans : List (List Nat × Answer)) (s : State) : Host.Outcome State Fault Refusal :=
  match s.turn? id with
  | none => .fault .notEnabled
  | some c =>
    match c.body with
    | .mlred g dst soff doff len bf16 rnd sat =>
      let out := if bf16 then len else 2 * len
      let ms := s.groupMembers c.shop g
      let all := s.readAnswers c.band soff len ms ans
      let as := all.map Prod.snd
      if !s.groupCanEnd c g || !s.rowReady c.shop dst doff out true then .fault .notEnabled
      else match s.groupRefused c g with
        | some code => if ans = [] then .next (s.groupRefuse c g code) else .fault .notEnabled
        | none =>
          if ans.length ≠ ms.length ∨ as.any (fun a => hasAnswered a && a.data.length ≠ len) ∨
              !s.membersReady c.band soff len .groupLoad ms (ans.map Prod.snd) then .fault .notEnabled
          else if absentOf as ≠ [] then .next (s.groupEnd c g as 0x85 true 0)
          else if as.any Answer.soiled then .next (s.groupEnd c g as 0x80 false 0)
          else if s.rowReserved c.shop dst doff out then .next (s.groupEnd c g as 0x82 true 0)
          else
            let s1 := s.writePlain c.shop c.band dst doff (reduceBytes all len bf16 (Rnd.ofCode rnd).noDraw sat)
            .next ((s.lessParts s1 c.wrote).groupEnd c g as 0 true out)
    | _ => .fault .notEnabled

/-- A part of MLRED's result is written before its completion (R172). -/
def State.mlredProgress (s : State) (id : Nat) (ans : List (List Nat × Answer)) (bits : Nat) : State :=
  match s.turn? id with
  | none => s
  | some c =>
    match c.body with
    | .mlred g dst soff doff len bf16 rnd sat =>
      let out := if bf16 then len else 2 * len
      let ms := s.groupMembers c.shop g
      let all := s.readAnswers c.band soff len ms ans
      let as := all.map Prod.snd
      if (s.groupRefused c g).isSome ∨ ans.length ≠ ms.length ∨ as.any (fun a => !hasAnswered a || a.data.length ≠ len || a.soiled) ∨
          !s.membersReady c.band soff len .groupLoad ms (ans.map Prod.snd) ∨ s.rowReserved c.shop dst doff out ∨
          !s.rowReady c.shop dst doff out true ∨ !s.groupReady c.shop g then s
      else s.writeParts (s.writePlain c.shop c.band dst doff (reduceBytes all len bf16 (Rnd.ofCode rnd).noDraw sat)) c
        (rowParts c.shop dst doff out) bits
    | _ => s

/-- The writes that MSTM sends to its members, and their answers: poison travels, tags do not (R365). A member that is this device is
written through its port. -/
def State.multicast (s : State) (shop : Nat) (band : BitVec 8) (r : Row) (doff : Nat) : List (Cap × Answer) → State × List Answer
  | [] => (s, [])
  | (m, a) :: ms =>
    let here := s.isHere m
    let v := if here then s.memberVerdict (s.memberFlits band m doff r.data.length .groupStore r) else a
    let s1 := if here then s.memberWrite band m doff r else s.writeRow shop band m doff r fun _ => false
    let rest := s1.multicast shop band r doff ms
    (rest.1, v :: rest.2)

/-- MSTM_COMPLETE (R365): `ans` holds each peer member's answer, in its place. -/
def execMstmComplete (id : Nat) (ans : List Answer) (s : State) : Host.Outcome State Fault Refusal :=
  match s.turn? id with
  | none => .fault .notEnabled
  | some c =>
    match c.body with
    | .mstm g src soff doff len =>
      if !s.groupCanEnd c g || !s.rowReady c.shop src soff len false then .fault .notEnabled
      else match s.groupRefused c g with
        | some code => if ans = [] then .next (s.groupRefuse c g code) else .fault .notEnabled
        | none =>
          let ms := s.groupMembers c.shop g
          if s.rowReserved c.shop src soff len then
            (if ans = [] then .next (s.groupEnd c g [] 0x82 true 0) else .fault .notEnabled)
          else if ans.length ≠ ms.length ∨ !s.membersReady c.band doff len .groupStore ms ans then .fault .notEnabled
          else
            let r := (s.markSy src soff len).multicast c.shop c.band (s.readRow c.shop src soff len []).1 doff (ms.zip ans)
            .next ((s.lessParts r.1 c.wrote).groupEnd c g r.2 (if absentOf r.2 = [] then 0 else 0x85) true (len * r.2.length))
    | _ => .fault .notEnabled

/-- The granules that MSTM writes at a member: this device's, or a peer's. -/
def State.memberParts (s : State) (off len : Nat) (m : Cap) : List (Nat × Nat) :=
  if s.isHere m then (granules (m.localAt off) len).map fun g => (0, g) else (granules (wrapAddr (m.addr + off)) len).map fun g => (1, g)

/-- A part of what MSTM multicasts is written before its completion (R172). -/
def State.mstmProgress (s : State) (id : Nat) (ans : List Answer) (bits : Nat) : State :=
  match s.turn? id with
  | none => s
  | some c =>
    match c.body with
    | .mstm g src soff doff len =>
      let ms := s.groupMembers c.shop g
      if (s.groupRefused c g).isSome ∨ s.rowReserved c.shop src soff len ∨ !s.rowReady c.shop src soff len false ∨ ans.length ≠ ms.length ∨
          !s.membersReady c.band doff len .groupStore ms ans ∨ !s.groupReady c.shop g then s
      else s.writeParts (s.multicast c.shop c.band (s.readRow c.shop src soff len []).1 doff (ms.zip ans)).1 c (ms.flatMap (s.memberParts doff len)) bits
    | _ => s

/-! ### Gateways (R368, R403) -/

/-- The gateway block of a GO: its own fields, then its source. -/
def State.gatewayBlock (s : State) (band : BitVec 8) (c : Cap) (r : Row) : Except Trap (CmdBody × Nat) :=
  let src := s.blockCap c r 16
  let len := r.num 40 8
  if len < 16 ∨ 4096 < len ∨ len % 16 ≠ 0 ∨ 31 < r.num 48 1 ∨ r.num 49 1 ≠ 0 ∨ 2 ^ 14 ≤ r.num 50 2 ∨ r.num 54 10 ≠ 0 then .error engineBad
  else match s.engineCheck band (.load copyKinds) src 3 0 [(r.num 32 8, len)] with
    | .error e => .error e
    | .ok () => .ok (.gateway src (r.num 32 8) len (r.num 48 1) (r.num 50 2) (r.num 52 2), len)

/-- A ring's slots and base, when it exists (R368, R403): enabled, and its span below HBMTOP. -/
def State.ring? (s : State) (n : Nat) : Option (Nat × Nat × BitVec 8) :=
  let ctl := (Sparse.get (0 : W64) s.rings (2 * n)).toNat
  let base := (Sparse.get (0 : W64) s.rings (2 * n + 1)).toNat
  let slots := ctl / 2 ^ 16 % 2 ^ 16
  if n < 256 ∧ ctl / 2 ^ 63 = 1 ∧ base + 128 + 4224 * slots ≤ hbmTop then some (base, slots, BitVec.ofNat 8 ctl) else none

/-- A word of memory. -/
def State.word64 (s : State) (a : Nat) : W64 := BitVec.ofNat 64 (bytesNat (s.mem.read a 8))

/-- GATEWAY_MESSAGE: a message arriving here is written into the tail slot of its ring, with its poison (R186) and without tags, and the tail
word incremented; or it is refused with 0x87. -/
def execGatewayMessage (m : GatewayMsg) (s : State) : Host.Outcome State Fault Refusal :=
  let n := m.payload.length
  let answer (s : State) (code : BitVec 8) : Host.Outcome State Fault Refusal :=
    .next { s with out := .gatewayAck m.domain.toNat m.device.toNat code :: s.out }
  if !s.portsOpen || n < 16 || 4096 < n || n % 16 ≠ 0 then .fault .notEnabled
  else match s.ring? m.ring.toNat with
    | none => answer s 0x87
    | some (base, slots, band) =>
      let tail := s.word64 base
      if band ≠ m.band ∨ slots ≤ (tail - s.word64 (base + 8)).toNat then answer s 0x87
      else
        let slot := base + 128 + 4224 * (tail.toNat % slots)
        let head := (List.range 16).map fun i => Config.gatewayHeader i m.domain.toNat m.device.toNat m.band.toNat n
        let row : Row := ⟨m.payload, [], m.poison⟩
        let s1 := s.writeHbm slot (head ++ m.payload)
        let s2 := { s1 with mem := { s1.mem with poison := setGranules true (row.soils (slot + 16)) s1.mem.poison } }
        answer (s2.writeHbm base (natBytes 8 (tail + 1).toNat)) 0

/-! ### Ports (R352) -/

/-- FLIT_REPLAY: a flit that fails its CRC is sent again and delivered once. The port counts consecutive replays: after a flit that has
arrived in good order (`fresh`) the count begins anew (log entry 177). -/
def execFlitReplay (r : Replay) (s : State) : Host.Outcome State Fault Refusal :=
  if s.devSet ∧ r.port < 18 ∧ !s.portdn.getLsbD r.port then
    .next { s with out := .replay r.port :: s.out, replays := Sparse.set 0 s.replays r.port (if r.fresh then 1 else Sparse.get 0 s.replays r.port + 1) }
  else .fault .notEnabled

/-- PORT_DOWN: a port whose link has failed 16 consecutive replays is marked down, and carries no traffic (R352). -/
def execPortDown (port : Nat) (s : State) : Host.Outcome State Fault Refusal :=
  if port < 18 ∧ !s.portdn.getLsbD port ∧ 16 ≤ Sparse.get 0 s.replays port then
    .next { s with portdn := s.portdn ||| 1#18 <<< port, replays := Sparse.set 0 s.replays port 0 }
  else .fault .notEnabled

/-- PORT_RETRAIN: a port that was down carries traffic again, and what waited for one leaves. -/
def execPortRetrain (port : Nat) (s : State) : Host.Outcome State Fault Refusal :=
  if port < 18 ∧ s.portdn.getLsbD port then .next ({ s with portdn := s.portdn &&& ~~~(1#18 <<< port) } : State).sendGos else .fault .notEnabled

end Sys2Proof.Machine
end

