-- ==== Sys2Proof/Machine/Fetch.lean ====
section
/-!
DEFINITION. What comes before a word executes: breakpoints and single-step (R190), the deadline (R106, R108), the fetch
through the code capability (R197, R198, R186) and the faults of decoding (R204), in the order of R179.
-/

namespace Sys2Proof.Machine

/-- Address of a word in the code image. -/
def Ctx.codeAt (x : Ctx) (off : Nat) : Nat := localOf (wrapAddr (x.sh.code.addr + off))

/-- A word of the code image as memory holds it. -/
def State.newWord (s : State) (x : Ctx) (off : Nat) : W32 := BitVec.ofNat 32 (bytesNat (s.readAt (x.codeAt off) 4))

/-- A word of the code image as it stood when its node became resident. -/
def Ctx.oldWord (x : Ctx) (off : Nat) : W32 := BitVec.ofNat 32 (bytesNat (Sparse.getList 0 x.sh.image (x.codeAt off) 4))

/-- Whether a word of the image has been overwritten while its node is resident (R199). -/
def State.overwritten (s : State) (x : Ctx) (off : Nat) : Bool := s.newWord x off ≠ x.oldWord off

/-- A word of the code image, 0 where the code capability does not reach: of an overwritten one the old or the new, by a free
choice (R199). -/
def State.codeWord (s : State) (x : Ctx) (off : Nat) : W32 :=
  if x.sh.code.len < off + 4 then 0
  else if s.overwritten x off && Config.freeChoice (s.fresh + off / 4 % 2) % 2 = 0 then x.oldWord off
  else s.newWord x off

/-- The word at PC and its literal word, as a fault record shows them (R181). -/
def State.rawWord (s : State) (x : Ctx) : W32 × Option W32 :=
  let w := s.codeWord x x.t.pc.toNat
  (w, if isLiteralOp (w.toNat / 2 ^ 24) && decide (x.t.pc.toNat + 8 ≤ x.sh.code.len) then some (s.codeWord x (x.t.pc.toNat + 4)) else none)

/-- An instruction fetch (R52, R55, R197). -/
def Use.fetch : Use := ⟨[kCode], false, pEX, true, false⟩

/-- The checks of a fetch of `n` bytes at PC: steps 1 to 7 of R65, then poison. -/
def State.fetchCheck (s : State) (x : Ctx) (n : Nat) : Except Trap Unit :=
  let c := x.sh.code
  let off := x.t.pc.toNat
  let addr := wrapAddr (c.addr + off)
  let bad (code : FaultCode) (step aux : Nat) : Except Trap Unit := .error ⟨code, 0, step, 0, 0, false, off, addr, aux⟩
  match s.capFails x.sh.band Use.fetch c (inMmio addr) with
  | some f => bad f.code f.step f.aux
  | none =>
    if c.len < off + n then bad .bounds 7 0
    else match s.region (localOf addr) with
      | .hbm => match s.mem.firstPoison (localOf addr) n with
        | some g => bad .poison 0 (addr - localOf addr + g)
        | none => .ok ()
      | .reserved => bad .poison 0 (addr / 16 * 16)
      | _ => .ok ()

/-- The fault of a word that does not decode (R204). -/
def DecodeError.code : DecodeError → FaultCode
  | .opcode => .illegalOpcode
  | .field => .illegalField
  | .short => .bounds

/-- The eight bytes at PC, as they are fetched. -/
def State.codeBytes (s : State) (x : Ctx) : List Byte :=
  let pc := x.t.pc.toNat
  if s.overwritten x pc || s.overwritten x (pc + 4) then natBytes 4 (s.codeWord x pc).toNat ++ natBytes 4 (s.codeWord x (pc + 4)).toNat
  else s.readAt (x.codeAt pc) 8

/-- Fetch and decode at PC: the instruction, or the fault at it; a matrix word on a V-core is ILLEGAL_OPCODE whatever its fields
(R10, R204). -/
def State.fetch (s : State) (x : Ctx) : Except Trap Instr :=
  match s.fetchCheck x 4 with
  | .error e => .error e
  | .ok () =>
    let w := s.codeWord x x.t.pc.toNat
    match s.fetchCheck x (if isLiteralOp (w.toNat / 2 ^ 24) then 8 else 4) with
    | .error e => .error e
    | .ok () => match decodeBytes (s.codeBytes x) with
      | .ok r => .ok r.1
      | .error e => .error (.plain (if x.sh.onV && isMatrixOp (w.toNat / 2 ^ 24) then .illegalOpcode else DecodeError.code e))

/-! ### Breakpoints (R189, R190) -/

/-- Whether a loop's body holds PC. -/
def bodyHolds (start stop pc : W64) : Bool := decide (start.toNat ≤ pc.toNat) && decide (pc.toNat < stop.toNat)

/-- FAUX bits [62], [61] and [31..0] of a BREAK at PC. -/
def Team.breakBody (t : Team) : Nat :=
  let rep := match t.loop.rep with
    | some r => if bodyHolds r.start r.stop t.pc then some r.done.toNat else none
    | none => none
  let lb := match t.loop.lb with
    | some b => if bodyHolds b.start b.stop t.pc then some b.done.toNat else none
    | none => none
  rep.isSome.toNat * 2 ^ 62 + lb.isSome.toNat * 2 ^ 61 + (rep.getD (lb.getD 0)) % 2 ^ 32

/-- The lowest enabled breakpoint register that matches PC. -/
def Team.breakHit (t : Team) : Option Nat :=
  (List.range 4).find? fun n =>
    let b := Sparse.get (0 : W64) t.bkpc n
    b.getLsbD 0 && decide (b.toNat / 4 = t.pc.toNat / 4)

/-- The BREAK before a word, and the team with HIT set (R190); none in the handler or right after ERET (R183). -/
def Team.breakBefore (t : Team) : Option (Team × Trap) :=
  if t.inHandler || t.noBreak then none
  else match t.breakHit with
    | some n => some ({ t with bkctl := t.bkctl ||| BitVec.ofNat 5 (2 ^ n) },
        { Trap.plain .brk with aux := 2 ^ 63 + n * 2 ^ 32 + t.breakBody })
    | none => if t.bkctl.getLsbD 4 then some (t, { Trap.plain .brk with aux := t.breakBody }) else none

/-! ### The deadline and aging (R105, R106, R108) -/

/-- DEADLINE: the issuing team meets DLLEFT = 0 before a word; its node ends. -/
def execDeadline (s : State) : Host.Outcome State Fault Refusal :=
  match s.cur with
  | none => .fault .noTeam
  | some n => match s.ctx? n with
    | none => .fault .noTeam
    | some x =>
      if x.t.dlleft = 0 ∧ !x.t.ended ∧ x.t.wait = .none then .next (s.takeFault n (.plain .deadline) (s.rawWord x).1 (s.rawWord x).2)
      else .fault .notEnabled

/-- AGING_BOOST: a ready team passed over 4,096 times issues its next word at PRI 15. -/
def execAgingBoost (n : Nat) (s : State) : Host.Outcome State Fault Refusal :=
  match s.team? n with
  | some t =>
    if !t.ended ∧ t.wait = .none ∧ 4096 ≤ t.aging ∧ !t.aged then .next (s.setTeam n { t with aged := true }) else .fault .notEnabled
  | none => .fault .notEnabled

end Sys2Proof.Machine
end

