-- ==== Sys2Proof/Machine/Reshard.lean ====
section
/-!
DEFINITION. The re-sharding engine (R369 to R382): tensor layout records, block-cyclic placement, the plan and its progress
record, RSQ.
-/

namespace Sys2Proof.Machine

/-! ### Tensor layout records (R370, R371) -/

/-- MDIM of an unmapped dimension. -/
def unmapped : Nat := 0xFF

/-- Numbers of `n` bytes each from an offset of a row. -/
def Row.nums (r : Row) (o n k : Nat) : List Nat := (List.range k).map fun i => r.num (o + n * i) n

/-- A TLR as it stands in memory; the tag of DEVTAB counts only when `ldc`. -/
def State.readTlr (s : State) (c : Cap) (r : Row) : Tlr :=
  { rank := r.num 0 1, mrank := r.num 1 1, esize := r.num 2 1, repl := r.num 3 1, devn := r.num 4 4, ext := r.nums 8 8 6
    mdim := r.nums 56 1 6, blk := r.nums 64 8 6, mext := r.nums 112 2 4, devtab := s.blockCap c r 128 }

/-- A product of numbers. -/
def prodOf (l : List Nat) : Nat := l.foldl (· * ·) 1

/-- Dimension `d` of a TLR lies in its ranges. -/
def Tlr.dimOk (t : Tlr) (d : Nat) : Bool :=
  let e := t.ext.getD d 0
  let m := t.mdim.getD d 0
  let b := t.blk.getD d 0
  if d < t.rank then
    decide (1 ≤ e) && decide (e < 2 ^ 48) && (if m = unmapped then decide (b = 0) else decide (m < t.mrank) && decide (1 ≤ b) && decide (b ≤ e))
  else e = 0 && m = unmapped && b = 0

/-- Mesh dimension `m` of a TLR lies in its range. -/
def Tlr.meshOk (t : Tlr) (m : Nat) : Bool :=
  let e := t.mext.getD m 0
  if m < t.mrank then decide (1 ≤ e) && decide (e ≤ 9216) else e = 0

/-- No mesh dimension is named twice. -/
def Tlr.meshOnce (t : Tlr) : Bool := (List.range t.mrank).all fun m => decide ((t.mdim.filter fun x => x = m).length ≤ 1)

/-- The device table of a TLR can be read by the engine of device `own`. -/
def Tlr.tableOk (t : Tlr) (own : Nat) : Bool :=
  t.devtab.tag && t.devtab.kind = kData && t.devtab.dev = own && t.devtab.has (pLD ||| pLDC) && decide (32 * t.devn ≤ t.devtab.len)

/-- A TLR is valid (R371): `r` is its 256 bytes. -/
def Tlr.valid (t : Tlr) (r : Row) (own : Nat) : Bool :=
  decide (1 ≤ t.rank) && decide (t.rank ≤ 6) && decide (1 ≤ t.mrank) && decide (t.mrank ≤ 4) && decide (t.esize ≤ 3) && decide (1 ≤ t.repl) &&
    decide (t.repl ≤ 16) && (List.range 6).all t.dimOk && (List.range 4).all t.meshOk && t.meshOnce &&
    t.devn = t.repl * prodOf (t.mext.take t.mrank) && decide (t.devn ≤ 9216) && r.num 62 2 = 0 && r.num 120 8 = 0 && r.num 144 112 = 0 &&
    t.tableOk own

/-! ### Block-cyclic placement (R373) -/

/-- The mesh extent of a mapped dimension. -/
def Tlr.meshOf (t : Tlr) (d : Nat) : Nat := t.mext.getD (t.mdim.getD d 0) 1

/-- The coordinate along the mesh dimension of a mapped dimension. -/
def Tlr.qOf (t : Tlr) (q : List Nat) (d : Nat) : Nat := q.getD (t.mdim.getD d 0) 0

/-- Local index of a global index along `d`. -/
def Tlr.localIx (t : Tlr) (d x : Nat) : Nat :=
  if t.mdim.getD d 0 = unmapped then x
  else x / (t.blk.getD d 1 * t.meshOf d) * t.blk.getD d 1 + x % t.blk.getD d 1

/-- Local extent along `d` at a coordinate. -/
def Tlr.le (t : Tlr) (q : List Nat) (d : Nat) : Nat :=
  let e := t.ext.getD d 0
  if t.mdim.getD d 0 = unmapped then e
  else
    let b := t.blk.getD d 1
    e / (b * t.meshOf d) * b + min (e % (b * t.meshOf d) - t.qOf q d * b) b

/-- Elements between neighbours along `d`. -/
def Tlr.strideOf (t : Tlr) (q : List Nat) (d : Nat) : Nat := prodOf ((List.range t.rank).map fun j => if d < j then t.le q j else 1)

/-- Bytes of a shard. -/
def Tlr.shardLen (t : Tlr) (q : List Nat) : Nat := 2 ^ t.esize * prodOf ((List.range t.rank).map (t.le q))

/-- Byte offset of the element with these global indices in its shard. -/
def Tlr.byteOff (t : Tlr) (q xs : List Nat) : Nat :=
  2 ^ t.esize * ((List.range t.rank).map fun d => t.localIx d (xs.getD d 0) * t.strideOf q d).sum

/-- The mesh coordinate of a table entry (R372). -/
def Tlr.coordOf (t : Tlr) (e : Nat) : List Nat :=
  (List.range t.mrank).map fun m => e / t.repl / prodOf ((t.mext.take t.mrank).drop (m + 1)) % t.mext.getD m 1

/-- The table entry of a coordinate and replica. -/
def Tlr.entryIx (t : Tlr) (q : List Nat) (rep : Nat) : Nat :=
  ((List.range t.mrank).map fun m => q.getD m 0 * prodOf ((t.mext.take t.mrank).drop (m + 1))).sum * t.repl + rep

/-! ### Blocks, pieces and rows (R376) -/

/-- Destination intervals along `d`. -/
def PlanCmd.intervalN (p : PlanCmd) (d : Nat) : Nat :=
  let t := p.dst
  if t.mdim.getD d 0 = unmapped then 1
  else
    let n := (t.ext.getD d 0 + t.blk.getD d 1 - 1) / t.blk.getD d 1
    (n - t.qOf p.coord d + t.meshOf d - 1) / t.meshOf d

/-- Interval `k` along `d`. -/
def PlanCmd.interval (p : PlanCmd) (d k : Nat) : Nat × Nat :=
  let t := p.dst
  if t.mdim.getD d 0 = unmapped then (0, t.ext.getD d 0)
  else
    let j := t.qOf p.coord d + k * t.meshOf d
    (j * t.blk.getD d 1, min ((j + 1) * t.blk.getD d 1) (t.ext.getD d 0))

/-- The plan's block count. -/
def PlanCmd.count (p : PlanCmd) : Nat := prodOf ((List.range p.dst.rank).map p.intervalN)

/-- The intervals of a block, slowest dimension first. -/
def PlanCmd.block (p : PlanCmd) (b : Nat) : List (Nat × Nat) :=
  (List.range p.dst.rank).map fun d =>
    p.interval d (b / prodOf ((List.range p.dst.rank).map fun j => if d < j then p.intervalN j else 1) % p.intervalN d)

/-- Elements of a box. -/
def boxSize (iv : List (Nat × Nat)) : Nat := prodOf (iv.map fun i => i.2 - i.1)

/-- Bytes of the blocks before `n`. -/
def PlanCmd.bytesBefore (p : PlanCmd) (n : Nat) : Nat := ((List.range n).map fun b => 2 ^ p.dst.esize * boxSize (p.block b)).sum

/-- An interval cut at the multiples of `b`; 0 cuts nothing. -/
def cutAt (b : Nat) (iv : Nat × Nat) : List (Nat × Nat) :=
  if b = 0 then [iv]
  else (List.range ((iv.2 + b - 1) / b - iv.1 / b)).map fun j => (max iv.1 ((iv.1 / b + j) * b), min iv.2 ((iv.1 / b + j + 1) * b))

/-- Every choice of one element of each list, row-major. -/
def choices {α : Type} : List (List α) → List (List α)
  | [] => [[]]
  | l :: ls => l.flatMap fun x => (choices ls).map fun r => x :: r

/-- The pieces of a block. -/
def PlanCmd.pieces (p : PlanCmd) (b : Nat) : List (List (Nat × Nat)) :=
  choices ((p.block b).zipIdx.map fun iv => cutAt (if p.src.mdim.getD iv.2 0 = unmapped then 0 else p.src.blk.getD iv.2 0) iv.1)

/-- The first indices of the rows of a piece. -/
def pieceRows (piece : List (Nat × Nat)) : List (List Nat) :=
  match piece.reverse with
  | [] => []
  | last :: outer => (choices (outer.reverse.map fun i => (List.range (i.2 - i.1)).map fun k => i.1 + k)).map fun xs => xs ++ [last.1]

/-- Bytes of a row of a piece. -/
def PlanCmd.rowLen (p : PlanCmd) (piece : List (Nat × Nat)) : Nat :=
  match piece.getLast? with
  | some i => 2 ^ p.dst.esize * (i.2 - i.1)
  | none => 0

/-- The candidates of a piece, ascending. -/
def PlanCmd.candidates (p : PlanCmd) (piece : List (Nat × Nat)) : List Nat :=
  (List.range p.src.devn).filter fun e =>
    let q := p.src.coordOf e
    piece.zipIdx.all fun iv => p.src.mdim.getD iv.2 0 = unmapped ||
      decide (iv.1.1 / p.src.blk.getD iv.2 1 % p.src.meshOf iv.2 = p.src.qOf q iv.2)

/-! ### GO of a re-shard block (R375) -/

/-- The KINDs of PROG and STAMP. -/
def progUse (st : Bool) : Use := ⟨copyKinds, true, if st then pST else pLD ||| pST, false, true⟩

/-- ENGINE with FAUX. -/
def engineAux (n : Nat) : Trap := { engineBad with aux := n }

/-- One of the two TLRs of a block: POISON, or what it holds. -/
def State.tlrOf (s : State) (shop : Nat) (c : Cap) (aux : Nat) : Except Trap Tlr :=
  let r := (s.readRow shop c 0 256 []).1
  if r.poison.any id then .error (recordPoison c 0 r)
  else
    let t := s.readTlr c r
    if t.valid r s.devId.toNat then .ok t else .error (engineAux aux)

/-- Steps 1, 2, 3 of R375 over the block read through `c`. -/
def Ctx.planCaps (x : Ctx) (s : State) (c : Cap) (r : Row) : Except Trap Unit :=
  let lay : Use := ⟨[kLayout], false, pLD ||| pLDC, true, false⟩
  both ((x.place s lay (s.blockCap c r 16) 0 3 0 0 256 1).map fun _ => ())
    (both ((x.place s lay (s.blockCap c r 32) 0 3 0 0 256 1).map fun _ => ())
      (both ((x.place s (progUse false) (s.blockCap c r 48) 0 3 0 (r.num 80 8) 32 32).map fun _ => ())
        ((x.place s (progUse true) (s.blockCap c r 64) 0 3 0 (r.num 88 8) 8 8).map fun _ => ())))

/-- Whether the host-window halves that the GO of a re-shard block reads are held. -/
def State.planReady (s : State) (shop : Nat) (c : Cap) (r : Row) : Bool :=
  let sl := s.blockCap c r 16
  let dl := s.blockCap c r 32
  let tab := (s.readTlr dl (s.readRow shop dl 0 256 []).1).devtab
  s.rowReady shop sl 0 256 false && s.rowReady shop dl 0 256 false && s.rowReady shop tab 0 tab.len false

/-- Steps 4 to 6 of R375: the command. -/
def Ctx.planOf (x : Ctx) (s : State) (c : Cap) (r : Row) : Except Trap PlanCmd :=
  let sh := shopOf x.n
  match s.tlrOf sh (s.blockCap c r 16) 1 with
  | .error e => .error e
  | .ok src => match s.tlrOf sh (s.blockCap c r 32) 2 with
    | .error e => .error e
    | .ok dst =>
      let q := r.nums 104 2 4
      let rep := r.num 112 1
      let ix := dst.entryIx q rep
      let row := (s.readRow sh dst.devtab (32 * ix) 32 []).1
      let buf := s.moved (row.capAt 0)
      if src.rank ≠ dst.rank ∨ src.esize ≠ dst.esize ∨ src.ext ≠ dst.ext then .error (engineAux 3)
      else if (List.range 4).any (fun m => if m < dst.mrank then decide (dst.mext.getD m 0 ≤ q.getD m 0) else q.getD m 0 ≠ 0) ∨
          dst.repl ≤ rep ∨ r.num 96 8 / 2 ^ 8 = 2 ^ 56 - 1 ∨ r.num 113 15 ≠ 0 then .error engineBad
      else if row.poison.any id then .error (recordPoison dst.devtab (32 * ix) row)
      else match s.engineCheck x.sh.band ⟨[kData], false, pST, false, true⟩ buf 3 0 [(0, dst.shardLen q)] with
        | .error e => .error e
        | .ok () =>
          if row.num 16 2 % 2 ^ 14 ≠ s.devId.toNat then .error engineBad
          else .ok { src := src, dst := dst, buf := buf, coord := q, prog := s.blockCap c r 48, progOff := r.num 80 8
                     stamp := s.blockCap c r 64, stOff := r.num 88 8, seq := r.num 96 8, die := dieOf x.sh.core }

/-- The read of a progress record through a capability as one access (R382); at a peer it takes two requests where a line ends inside the record,
since a flit names the bytes of one line (R351, R353). -/
def Ctx.recordReads (x : Ctx) (s : State) (c : Cap) (src creg off : Nat) : Except Trap (List Access) :=
  match x.place s ⟨copyKinds, true, pLD, true, false⟩ c 0 src creg off 32 32 with
  | .error e => .error e
  | .ok (p, addr) =>
    let acc (o a n : Nat) : Access := ⟨0, p, n, .read, c, src, creg, o, a⟩
    if c.kind = kSealed ∧ addr % 128 = 112 then .ok [acc off addr 16, acc (off + 16) (addr + 16) 16]
    else .ok [acc off addr 32]

/-- Step 7 of R375 once the record has been read: a NEXT beyond the block count raises ENGINE; else the command enters the
fabric queue. -/
def State.planIssue (s : State) (x : Ctx) (p : PlanCmd) (record : List Byte) : Effect :=
  if p.count < bytesNat (record.take 8) then .error engineBad
  else
    let s1 := (s.updTeam x.n fun t => { t with wait := .none }).issueCmd x 5 (.reshard p) .none 0
    .ok ({ s1 with rseQueue := rseReached s1.rseQueue s1.cmds }, .next)

/-- The reads of step 7 have returned, or a fault. -/
def State.planRead (s : State) (x : Ctx) (accs : List Access) (p : PlanCmd) : Effect :=
  match s.returnFaults accs with
  | some e => .error e
  | none =>
    let r := s.performAll accs
    (r.1.dropReqs accs).planIssue x p (r.2.flatMap fun q => q.2.data)

/-- A GO of a re-shard block (R375). -/
def Ctx.goReshard (x : Ctx) (s : State) (i : Instr) (c : Cap) (r : Row) (compk : Nat) : Effect :=
  if compk ≠ 0 then .error engineBad
  else match x.planCaps s c r with
    | .error e => .error e
    | .ok () =>
      if !s.planReady (shopOf x.n) c r then s.block x i false
      else match x.planOf s c r with
        | .error e => .error e
        | .ok p => match x.recordReads s p.prog 3 0 p.progOff with
          | .error e => .error e
          | .ok accs =>
            if accs.any Access.unsent then
              let q := s.sendReqs x accs
              .ok (q.1.updTeam x.n fun t => { t with wait := .planRead i q.2 p }, .stay)
            else if accs.all s.accessReady then s.planRead x accs p
            else .ok (s.updTeam x.n fun t => { t with wait := .planRead i accs p }, .stay)

/-! ### The plan performed (R377 to R380) -/

/-- The progress record as 32 bytes (R378). -/
def recordBytes (next bytes runs status code srcix : Nat) : List Byte :=
  natBytes 8 next ++ natBytes 8 bytes ++ natBytes 4 runs ++ natBytes 1 status ++ natBytes 1 code ++ natBytes 2 0 ++ natBytes 4 srcix ++ natBytes 4 0

/-- Whether PROG still passes its checks at performance (R380, log entry 117). -/
def State.recordOk (s : State) (c : Cmd) (p : PlanCmd) : Bool := (s.engineCheck c.band (progUse false) p.prog 3 0 [(p.progOff, 32)]).isOk

/-- Write the record. -/
def State.putRecord (s : State) (shop : Nat) (band : BitVec 8) (p : PlanCmd) (r : RsePlan) (status code srcix : Nat) : State :=
  s.writePlain shop band p.prog p.progOff (recordBytes r.next r.bytes r.runs status code srcix)

/-- The completion stamp of a plan; one whose capability fails at performance is lost (R380). -/
def State.planStamp (s : State) (c : Cmd) (p : PlanCmd) (v : Nat) : State :=
  if (s.engineCheck c.band (progUse true) p.stamp 3 0 [(p.stOff, 8)]).isOk then s.stampWrite c.shop c.band p.stamp p.stOff v else s

/-- The plan of a die ends: record, unless `lost`, completion stamp, and the command leaves its queue (R380). -/
def State.endPlan (s : State) (die : Nat) (c : Cmd) (p : PlanCmd) (r : RsePlan) (status code srcix : Nat) (lost : Bool) : State :=
  let s1 := if lost || !s.recordOk c p then s else s.putRecord c.shop c.band p r status code srcix
  let v := if status = 1 then p.seq else errorStamp (if status = 2 then 0x88 else code)
  let s2 := (s1.planStamp c p v).dropCmd c.id
  { s2 with rse := Sparse.erase s2.rse die }

/-- A plan ends in its midst: its record cannot be read or written, and it has no end to report (R380, log entry 117). -/
def State.losePlan (s : State) (die : Nat) (c : Cmd) : State :=
  { s.dropCmd c.id with rse := Sparse.erase s.rse die }

/-- Entry `e` of the source table. -/
def State.srcEntry (s : State) (shop : Nat) (table : Cap) (e : Nat) : SrcEntry :=
  let r := (s.readRow shop table (32 * e) 32 []).1
  ⟨s.moved (r.capAt 0), r.num 16 2 % 2 ^ 14, r.num 18 1 % 2 = 1, r.poison.any id, false⟩

/-- The re-shard command that the RSE of a die takes next: of those of its die that have reached it, the first that did (R369). -/
def State.nextPlan (s : State) (die : Nat) : Option (Cmd × PlanCmd) :=
  s.rseQueue.findSome? fun id => match s.turn? id with
    | some c => match c.body with
      | .reshard p => if p.die = die then some (c, p) else none
      | _ => none
    | none => none

/-- A record or stamp of this device can be written now (R155). -/
def State.planWritable (s : State) (c : Cmd) (p : PlanCmd) : Bool :=
  s.rowReady c.shop p.prog p.progOff 32 true && s.rowReady c.shop p.stamp p.stOff 8 true

/-- The verdict of a peer on a record: accepted, and clean. -/
def recordAnswered (a : Answer) : Bool := hasAnswered a && !a.soiled

/-- RESHARD_PLAN_START (R379): the RSE of a die takes a plan and reads its record and tables. `ans` holds a peer's answers:
to the read of the record, and, unless it reads STATUS 1 or the read fails, to its write. -/
def execReshardPlanStart (die : Nat) (ans : List Answer) (s : State) : Host.Outcome State Fault Refusal :=
  match s.nextPlan die, Sparse.look s.rse die with
  | some (c, p), none =>
    let far : Bool := p.prog.kind = kSealed
    let first := ans.headD .missing
    let row := if far then Row.plain ((first.data ++ List.replicate 32 0).take 32) else (s.readRow c.shop p.prog p.progOff 32 []).1
    let fails : Bool := !s.recordOk c p || (if far then !recordAnswered first else row.poison.any id)
    let once : Bool := fails || row.num 20 1 = 1
    if ans.length ≠ (if far then (if once then 1 else 2) else 0) ∨ !s.planWritable c p ∨ !s.rowReady c.shop p.src.devtab 0 p.src.devtab.len false ∨
        (ans.any hasAnswered ∧ !s.portsOpen) then .fault .notEnabled
    else if fails then .next (s.losePlan die c)
    else
      if row.num 20 1 = 1 then .next ((s.planStamp c p p.seq).dropCmd c.id)
      else if ans.any fun a => !hasAnswered a then .next (s.losePlan die c)
      else
        let next := row.num 0 8
        let r : RsePlan :=
          { cmd := c.id, entries := (List.range p.src.devn).map (s.srcEntry c.shop p.src.devtab), next := next
            bytes := p.bytesBefore (min next p.count), runs := (row.num 16 4 + 1) % 2 ^ 32
            piece := 0, cand := 0, row := 0, counted := 0, written := 0, code := 0 }
        let s1 := (s.putRecord c.shop c.band p r 0 0 0).markSy p.src.devtab 0 p.src.devtab.len
        if p.count ≤ next then .next (s1.endPlan die c p { r with next := p.count } 1 0 0 false)
        else .next { s1 with rse := Sparse.insert s1.rse die r }
  | _, _ => .fault .notEnabled

/-- How a stretch of a plan ends. -/
inductive PlanStop where
  /-- The block is complete. -/
  | block
  /-- A further 64 KiB has been written. -/
  | mark
  /-- The plan stops: STATUS, CODE, SRCIX. -/
  | stop (status code srcix : Nat)
  /-- It cannot go on: an answer or a half is missing. -/
  | stuck
deriving DecidableEq, Repr

/-- What reading a row from a candidate gives: its bytes, the CODE of a failure, or nothing yet. -/
inductive RowRead where
  /-- Bytes. -/
  | ok (bs : List Byte)
  /-- A failure. -/
  | failed (code : Nat)
  /-- Not yet. -/
  | later
deriving DecidableEq, Repr

/-- Read one row from a candidate (R377); a peer's row takes one answer, and the rest are returned. One whose BUF a pass has revoked since the
table was read is rejected with QUARANTINE (R76). -/
def State.candidateRow (s : State) (c : Cmd) (e : SrcEntry) (off n : Nat) (ans : List Answer) : RowRead × List Answer :=
  if e.poison then (.failed 0x13, ans)
  else if e.dev ≠ e.buf.dev then (.failed 0x15, ans)
  else if e.revoked then (.failed 0x07, ans)
  else match s.engineCheck c.band (.load [kData]) e.buf 3 0 [(off, n)] with
    | .error t => (.failed t.code.code.toNat, ans)
    | .ok () =>
      if e.buf.kind = kSealed then
        match ans with
        | [] => (.later, [])
        | a :: as =>
          if a.timeout then (.failed 0x14, as)
          else if a.step ≠ 0 then (.failed a.code.toNat, as)
          else if a.soiled then (.failed 0x13, as)
          else (.ok ((a.data ++ List.replicate n 0).take n), as)
      else if s.rowReserved c.shop e.buf off n then (.failed 0x13, ans)
      else if !s.rowReady c.shop e.buf off n false then (.later, ans)
      else
        let r := (s.readRow c.shop e.buf off n []).1
        if r.poison.any id then (.failed 0x13, ans) else (.ok r.data, ans)

/-- Perform rows of block NEXT until a record is due. `left` counts the rows that come before a destination write meets an
uncorrectable error. -/
def State.planRows (s : State) (c : Cmd) (p : PlanCmd) (left : Option Nat) : Nat → RsePlan → List Answer → State × RsePlan × List Answer × PlanStop
  | 0, r, ans => (s, r, ans, .stuck)
  | fuel + 1, r, ans =>
    match (p.pieces r.next)[r.piece]? with
    | none => (s, r, ans, .block)
    | some piece =>
      let all := p.candidates piece
      let usable := all.filter fun e => !(r.entries[e]?.map SrcEntry.skip).getD true
      match usable[r.cand]?.bind fun e => r.entries[e]?.map fun x => (e, x) with
      | none =>
        let ix := if usable = [] then all.getLastD 0 else usable.getLastD 0
        (s, r, ans, .stop 2 (if usable = [] then 0 else r.code) ix)
      | some (e, entry) =>
        match (pieceRows piece)[r.row]? with
        | none => s.planRows c p left fuel { r with piece := r.piece + 1, cand := 0, row := 0, counted := 0 } ans
        | some xs =>
          let n := p.rowLen piece
          let dst := p.dst.byteOff p.coord xs
          match s.candidateRow c entry (p.src.byteOff (p.src.coordOf e) xs) n ans with
          | (.later, as) => (s, r, as, .stuck)
          | (.failed code, as) => s.planRows c p left fuel { r with cand := r.cand + 1, row := 0, code := code } as
          | (.ok bs, as) =>
            if left = some 0 then (s, r, as, .stop 3 0x80 0)
            else if s.rowReserved c.shop p.buf dst n then (s, r, as, .stop 3 0x82 0)
            else if !s.rowReady c.shop p.buf dst n true then (s, r, as, .stuck)
            else
              let s1 := (s.writePlain c.shop c.band p.buf dst bs).markSy entry.buf (p.src.byteOff (p.src.coordOf e) xs) n
              let isNew := r.counted ≤ r.row
              let r1 := { r with row := r.row + 1, counted := max r.counted (r.row + 1), bytes := if isNew then r.bytes + n else r.bytes
                                 written := r.written + n }
              if r.written / 65536 < r1.written / 65536 then (s1, r1, as, .mark)
              else s1.planRows c p (left.map fun k => k - 1) fuel r1 as

/-- Steps that block NEXT can take at most. -/
def PlanCmd.fuel (p : PlanCmd) (b : Nat) : Nat := (((p.pieces b).map fun q => (pieceRows q).length + 2).sum + 2) * (p.src.devn + 2)

/-- Every row of a block in the destination. -/
def PlanCmd.blockRows (p : PlanCmd) (b : Nat) : List (Nat × Nat) :=
  (p.pieces b).flatMap fun piece => (pieceRows piece).map fun xs => (p.dst.byteOff p.coord xs, p.rowLen piece)

/-- After a stop the bytes of block NEXT are unspecified (R380). -/
def State.freeBlock (s : State) (shop : Nat) (band : BitVec 8) (p : PlanCmd) (b : Nat) : State :=
  let rows := (p.blockRows b).filter fun r => !s.rowReserved shop p.buf r.1 r.2 && s.rowReady shop p.buf r.1 r.2 true
  s.freeAt shop band p.buf (rows.flatMap fun r => (List.range r.2).map fun k => r.1 + k)

/-- The record while the plan goes on; a plan whose record cannot be written ends with that write lost. -/
def State.keepPlan (s : State) (die : Nat) (c : Cmd) (p : PlanCmd) (r : RsePlan) (lost : Bool) : State :=
  if lost || !s.recordOk c p then s.losePlan die c else { s.putRecord c.shop c.band p r 0 0 0 with rse := Sparse.insert s.rse die r }

/-- The record after a stretch of the plan, or the plan's end; `lost`: a peer has not taken the record. -/
def State.planStretch (s : State) (die : Nat) (c : Cmd) (p : PlanCmd) (r : RsePlan) (lost : Bool) : PlanStop → Option State
  | .stuck => none
  | .mark => some (s.keepPlan die c p r lost)
  | .stop status code srcix => some ((s.freeBlock c.shop c.band p r.next).endPlan die c p r status code srcix lost)
  | .block =>
    let r1 := { r with next := r.next + 1, piece := 0, cand := 0, row := 0, counted := 0, written := 0, code := 0 }
    if p.count ≤ r1.next then some (s.endPlan die c p r1 1 0 0 lost)
    else some (s.keepPlan die c p r1 lost)

/-- RESHARD_BLOCK_COMPLETE (R376 to R380): the RSE of a die goes on to the end of the block, the next 64 KiB, or the plan's
stop. `ans` holds peers' answers, one for each row read, and last, for a record at a peer, the answer to its write; with
`err`, a destination write meets an uncorrectable error after that many rows. -/
def execReshardBlockComplete (die : Nat) (ans : List Answer) (err : Option Nat) (s : State) : Host.Outcome State Fault Refusal :=
  match Sparse.look s.rse die with
  | none => .fault .notEnabled
  | some r =>
    match s.cmd? r.cmd with
    | none => .fault .notEnabled
    | some c =>
      match c.body with
      | .reshard p =>
        let far : Bool := p.prog.kind = kSealed
        let verdict := if far then ans.getLast? else none
        let rows := if far then ans.dropLast else ans
        if !s.planWritable c p then .fault .notEnabled
        else
          let q := s.planRows c p err (p.fuel r.next) r rows
          if q.2.2.1 ≠ [] ∨ (far ∧ verdict = none) ∨ (err ≠ none ∧ q.2.2.2 ≠ .stop 3 0x80 0) ∨ (ans.any hasAnswered ∧ !s.portsOpen) then
            .fault .notEnabled
          else match q.1.planStretch die c p q.2.1 (verdict.any fun a => !hasAnswered a) q.2.2.2 with
            | some s1 => .next s1
            | none => .fault .notEnabled
      | _ => .fault .notEnabled

/-! ### RSQ (R382) -/

/-- RSQ. -/
def execRsq (d : BitVec 6) (a : BitVec 5) (b : BitVec 6) : State → Host.Outcome State Fault Refusal :=
  memStep (.rsq d a b) fun x s =>
    match x.needScope s x.t.scope with
    | .error e => .error e
    | .ok () => x.recordReads s (x.t.rdC a.toNat) 1 a.toNat (x.t.rdS b.toNat).toNat

end Sys2Proof.Machine
end

