-- ==== Sys2Proof/Machine/Go.lean ====
section
/-!
DEFINITION. GO (R324, R325), the requests of peers (R354), and what comes back from peers (R355, R356).
-/

namespace Sys2Proof.Machine

/-! ### GO -/

/-- The use that GO makes of a command capability: R65 steps 1 to 6. -/
def goUse : Use := ⟨[kCommand], true, pGO, false, false⟩

/-- BOUNDS for a command capability shorter than its block. -/
def shortBlock (creg : Nat) (c : Cap) (n : Nat) : Trap := ⟨.bounds, 0, 7, 1, creg, false, n, wrapAddr (c.addr + n), 0⟩

/-- Bytes of a block, by CKIND. -/
def blockLen (kind : Nat) : Nat := if kind = 4 then 64 else 128

/-- The queue and body of a block whose form a team runs here, with the bytes that it writes. -/
def Ctx.blockBody (x : Ctx) (s : State) (c : Cap) (r : Row) (copyQueue : Nat) : Except Trap (Nat × CmdBody × Nat) :=
  match r.num 0 1 with
  | 1 => (s.copyBlock x.sh.band c r).map fun p => (copyQueue, .copy p.1 p.2.1 p.2.2 true, movesLen p.2.2)
  | 2 => (x.groupBlock s c r).map fun p => (5, p.1, p.2)
  | _ => (s.gatewayBlock x.sh.band c r).map fun p => (5, p.1, p.2)

/-- A GO whose block lies on this device: header, length, the block's own checks, completion, queue. -/
def Ctx.goHere (x : Ctx) (s : State) (i : Instr) (creg : Nat) (c : Cap) (g : Group8) : Effect :=
  let sh := shopOf x.n
  if c.len < 16 then .error (shortBlock creg c 16)
  -- a block is read as more than 8 bytes (R136)
  else if inMmio c.addr then .error ⟨.align, 0, 8, 1, creg, false, 0, wrapAddr c.addr, 0⟩
  else if !s.rowReady sh c 0 16 false then s.block x i false
  else
    let head := (s.readRow sh c 0 16 []).1
    let n := blockLen (head.num 0 1)
    if head.poison.any id then .error (recordPoison c 0 head)
    else if !headerOk head then .error engineBad
    else if c.len < n then .error (shortBlock creg c n)
    else if !s.rowReady sh c 0 n false then s.block x i false
    else
      let r := (s.readRow sh c 0 n []).1
      if r.poison.any id then .error (recordPoison c 0 r)
      else if head.num 0 1 = 3 then ({ x with t := x.awake } : Ctx).goReshard (s.setTeam x.n x.awake) i c r (g.field 12 2)
      else if head.num 0 1 = 2 ∧ x.groupWaits s c r then s.block x i false
      else match x.blockBody s c r g.queue with
        | .error e => .error e
        | .ok (queue, body, bytes) => match x.completion s g bytes with
          | .error e => .error e
          | .ok done =>
            let s1 := (s.setTeam x.n x.awake).markSy c 0 n
            match body with
            | .copy _ _ _ _ => .ok (s1.issueMoves x queue body done bytes, .next)
            | _ => .ok (s1.issueCmd x queue body done 0, .next)

/-- GO: a remote one is sent to its owner when its turn in its queue has come (R168). -/
def execGo (a : BitVec 5) (g : BitVec 3) : State → Host.Outcome State Fault Refusal :=
  wordStep (.go a g) fun x s =>
    let gr := x.group8 g
    let c := x.t.rdC a.toNat
    if !gr.ctlGo then .error engineBad
    else match s.capFails x.sh.band goUse c (isGlobal c.kind && inMmio c.addr) with
      | some f => .error (f.trap 0 1 a.toNat 0 (wrapAddr c.addr))
      | none =>
        if c.kind = kSealed then
          (if !s.devSet then .error ⟨.remoteAbsent, 0, 0, 1, a.toNat, false, 0, wrapAddr c.addr, 0⟩
           else match x.completion s gr 0 with
            | .error e => .error e
            | .ok done =>
              .ok (((s.setTeam x.n x.awake).issueCmd x gr.queue (.remoteGo c false) done 0).sendGos, .next))
        else x.goHere s (.go a g) a.toNat c gr

/-! ### Requests of peers (R354) -/

/-- The copy of a peer's GO: the owner performs steps 2 to 4 of R324 with the packet's band, and refuses other kinds. -/
def State.ownerGo (s : State) (f : Flit) (c : Cap) (barrier : Bool) : Except Trap CmdBody :=
  let d : Cap := { c with kind := kCommand }
  let head := (s.readRow 0 d 0 16 []).1
  if head.poison.any id ∨ !headerOk head ∨ head.num 0 1 ≠ 1 ∨ c.len < 128 then .error engineBad
  else
    let r := (s.readRow 0 d 0 128 []).1
    if r.poison.any id then .error engineBad
    else match s.copyBlock f.band d r with
      | .error e => .error e
      | .ok (src, dst, ms) =>
        if barrier ∧ 2 ^ 27 - 1 < movesLen ms then .error engineBad
        else .ok (.ownerGo src dst ms true f.src.toNat (flitSeq f))

/-- Whether a request is an SO or SY access of a lane: by its capability, or in the MMIO or host window of this device (R136, R154, R160,
R173); a group operation and a GO are no lane's accesses (R325, R366). -/
def flitSo (f : Flit) : Bool :=
  let c := Cap.ofNat f.cap.toNat f.capTag
  match f.op with
  | .go _ => false
  | .groupLoad => false
  | .groupStore => false
  | _ => c.isSo || (maskRuns f.mask).any fun r => soWindow (wrapAddr (c.addr + flitOff f r.1))

/-- The lane of a peer that made a request. -/
def flitLane (f : Flit) : Nat := f.src.toNat * 2 ^ 24 + f.lane.toNat

/-- Whether a request comes in its turn: the port performs a lane's SO and SY accesses in the lane's program order (R173, R357). -/
def State.inTurn (s : State) (f : Flit) : Bool := !flitSo f || decide (Sparse.get 0 s.portSeen (flitLane f) ≤ f.seq.toNat)

/-- The port has performed an SO or SY request: only higher numbers of its lane follow. -/
def State.seen (s : State) (f : Flit) : State :=
  if flitSo f then { s with portSeen := Sparse.set 0 s.portSeen (flitLane f) (f.seq.toNat + 1) } else s

/-- INBOUND_REQUEST (R354): the port judges a request; an accepted one is performed here, and the verdict goes back with its SEQ. -/
def execInboundRequest (f : Flit) (s : State) : Host.Outcome State Fault Refusal :=
  let c := Cap.ofNat f.cap.toNat f.capTag
  let reply (s : State) (ans : Answer) : Host.Outcome State Fault Refusal :=
    .next { s with out := .response f.src.toNat (flitSeq f) ans :: s.out, fresh := s.fresh + 1 }
  let read : Host.Outcome State Fault Refusal := if s.flitReady f then reply ((s.seen f).flitSy f c) (s.flitLoad f c) else .fault .notEnabled
  let write : Host.Outcome State Fault Refusal :=
    if s.flitReady f then reply (((s.seen f).flitStore f c).flitSy f c) (.plain []) else .fault .notEnabled
  if !s.portsOpen ∨ c.dev ≠ s.devId.toNat ∨ !s.inTurn f then .fault .notEnabled
  else match s.portFails f with
    | some (step, code) => reply s (s.portReply f step code)
    | none =>
      match f.op with
      | .go barrier =>
        let d : Cap := { c with kind := kCommand }
        if !s.rowReady 0 d 0 (min 128 c.len) false then .fault .notEnabled
        else
          let s1 := s.markSy d 0 (min 128 c.len)
          match s.ownerGo f c barrier with
          | .error _ => reply s1 (.refusal 0 0x83 0)
          | .ok body =>
            .next { s1 with nextId := s.nextId + 1
                            cmds := s.cmds ++ [⟨s.nextId + 1, none, 0, 0, f.band, body, .none, 0, false, s.postPass - 1, []⟩] }
      | .load => read
      | .loadCap => read
      | .groupLoad => read
      | .store => write
      | .storeCap => write
      | .groupStore => write
      | .atomic op ty x y =>
        if s.flitReady f then
          let q := (s.seen f).flitAtomic f c op ty x y
          reply q.1 q.2
        else .fault .notEnabled

/-! ### Answers (R354 to R356) -/

/-- Go on with a waiting team whose accesses can all be performed now: its word, or a re-shard GO's read (R375). -/
def State.resume (s : State) (n : Nat) : Option State :=
  match s.ctx? n with
  | none => none
  | some x =>
    match x.t.wait with
    | .planRead i accs p =>
      if accs.all s.accessReady then
        match s.planRead x accs p with
        | .ok (s1, f) => some (s1.settle n x.sh.lanes i f)
        | .error e => some ((s.dropReqs accs).takeFault n e (BitVec.ofNat 32 (encodeNat i)) (literalOf i))
      else none
    | .access _ _ => s.resumeAccess n
    | _ => none

/-- The request that a response answers: it carries the request's SEQ (R357). -/
def State.reqOf (s : State) (seq : Nat) : Option Nat := (s.reqs.find? fun e => flitSeq e.2.flit = seq).map Prod.fst

/-- A capability as it comes in at a port: without its tag when it is affected (R63). -/
def State.atIngress (s : State) (ans : Answer) : Answer := Answer.mapCaps s.moved ans

/-- An answer is matched by SEQ to its request (R357); a team whose answers are all there goes on. -/
def State.takeAnswer (s : State) (seq : Nat) (ans : Answer) : Host.Outcome State Fault Refusal :=
  match (s.reqOf seq).bind fun k => (Sparse.look s.reqs k).map fun r => (k, r) with
  | none => .fault .notEnabled
  | some (k, r) =>
    if r.answer.isSome then .fault .notEnabled
    else
      let s1 := { s with reqs := Sparse.insert s.reqs k { r with answer := some (s.atIngress ans) } }
      match r.team with
      | none => .next s1
      | some n => .next ((s1.resume n).getD s1)

/-- RESPONSE. A response is a verdict; the missing verdict is FABRIC_TIMEOUT. -/
def execResponse (seq : Nat) (ans : Answer) (s : State) : Host.Outcome State Fault Refusal :=
  if s.portsOpen then s.takeAnswer seq { ans with timeout := false } else .fault .notEnabled

/-- FABRIC_TIMEOUT (R356): no verdict within FABTO: REMOTE_ABSENT at a team's word; an engine command ends with 0x81, an
unspecified part of it written. A request is named by its SEQ, a command by its number. -/
def execFabricTimeout (seq : Nat) (s : State) : Host.Outcome State Fault Refusal :=
  match s.reqOf seq with
  | some _ => s.takeAnswer seq .missing
  | none => execCopyError seq 0x81 (Config.freeChoice s.fresh) { s with fresh := s.fresh + 1 }

end Sys2Proof.Machine
end

