-- ==== Sys2Proof/Machine/Lehr.lean ====
section
/-!
DEFINITION. The lehr (R76 to R81): passes over this device, remote passes of other owners, exclusion and rejoining.
-/

namespace Sys2Proof.Machine

/-- Number of the pass that runs. -/
def State.passNow (s : State) : Nat := s.lehrDone + 1

/-- The ranges of the pass that runs. -/
def State.passRanges (s : State) : List (Nat × Nat) := (s.quar.filter fun q => q.pass = s.passNow).map fun q => (q.base, q.top)

/-- Whether an RSE is inside a block of a command. -/
def State.midBlock (s : State) (id : Nat) : Bool :=
  s.rse.any fun e => e.2.cmd = id && decide (0 < e.2.piece + e.2.cand + e.2.row + e.2.written)

/-- Affected by one of several ranges. -/
def Cap.hitBy (c : Cap) (rs : List (Nat × Nat)) : Bool := rs.any fun r => c.affected r.1 r.2

/-- Whether a pass waits for a command (R76 step 1): every engine operation issued before the pass started. A plan holds it inside a block, and
as a whole when the pass affects its destination, or the table that it has yet to read; the sources that it revokes are rejected from the next
block on (R377). A fence does not hold it. -/
def State.holdsPass (s : State) (c : Cmd) : Bool :=
  decide (c.before < s.passNow) && match c.body with
    | .fence _ => false
    | .reshard p => s.midBlock c.id || p.buf.hitBy s.passRanges ||
      (p.src.devtab.hitBy s.passRanges && !(s.rse.any fun e => e.2.cmd = c.id))
    | _ => true

/-- A capability without its tag when `p` says so. -/
def Cap.clearIf (p : Cap → Bool) (c : Cap) : Cap := if p c then { c with tag := false } else c

/-- Clear the tag of every capability that `p` strikes, in every place that R76 step 2 lists, and of the code capabilities
of launches and shops (R384). -/
def State.sweep (s : State) (p : Cap → Bool) : State := s.mapCaps (Cap.clearIf p)

/-- The peers that a remote pass goes to: the export set without the excluded. -/
def State.passPeers (s : State) : List Nat := ((s.expset.filter fun e => e.2).map Prod.fst).filter fun d => !s.excluded.contains d

/-- LEHR_SWEEP (R76 steps 1 to 3): once the operations issued before are done, the tags of affected capabilities clear and
remote passes go out. -/
def execLehrSweep (s : State) : Host.Outcome State Fault Refusal :=
  if s.lehr ≠ .waiting ∨ s.cmds.any s.holdsPass then .fault .notEnabled
  else
    let rs := s.passRanges
    let peers := s.passPeers
    let s1 := s.sweep fun c => c.hitBy rs
    .next { s1 with lehr := .remote peers, out := (peers.map fun d => Output.lehr d s.passNow rs).reverse ++ s1.out }

/-- LEHR_PASS_COMPLETE (R76 step 4): the pass's entries leave the filter; a pass that was posted meanwhile starts. Images that waited for
room in the filter are freed (R384). -/
def execLehrPassComplete (s : State) : Host.Outcome State Fault Refusal :=
  if s.lehr = .remote [] then
    let rest := s.quar.filter fun q => q.pass ≠ s.passNow
    .next ({ s with lehrDone := s.passNow, quar := rest, lehr := if rest = [] then .idle else .waiting } : State).freeImages
  else .fault .notEnabled

/-- A peer's share of the remote pass is done. -/
def State.peerDone (s : State) (peer : Nat) (next : State → State) : Host.Outcome State Fault Refusal :=
  match s.lehr with
  | .remote ps => if ps.contains peer then .next (next { s with lehr := .remote (ps.filter fun d => d ≠ peer) }) else .fault .notEnabled
  | _ => .fault .notEnabled

/-- REMOTE_PASS_ACK. -/
def execRemotePassAck (peer : BitVec 14) (s : State) : Host.Outcome State Fault Refusal := 
  if s.portsOpen then s.peerDone peer.toNat id else .fault .notEnabled

/-- LEHR_REMOTE_TIMEOUT (R80): the peer is excluded. -/
def execLehrRemoteTimeout (peer : BitVec 14) (s : State) : Host.Outcome State Fault Refusal :=
  s.peerDone peer.toNat fun s => { s with excluded := if s.excluded.contains peer.toNat then s.excluded else s.excluded ++ [peer.toNat] }

/-- REMOTE_PASS_RECEIVE (R79): the ranges enter the table of 256 entries, the tags they strike clear, the owner gets its
acknowledgement and the entries are freed. -/
def execRemotePassReceive (owner : BitVec 14) (ranges : List (Nat × Nat)) (s : State) : Host.Outcome State Fault Refusal :=
  if !s.portsOpen ∨ owner = s.devId ∨ 256 < s.remoteRanges.length + ranges.length then .fault .notEnabled
  else
    let s1 := { s with remoteRanges := s.remoteRanges ++ ranges.map (fun (r : Nat × Nat) => (⟨owner.toNat, r.1, r.2⟩ : RemoteRange)) }
    let s2 := s1.sweep fun c => s1.remoteRanges.any fun r => decide (r.owner = c.dev) && c.affected r.base r.top
    .next { s2 with remoteRanges := s.remoteRanges, out := .lehrAck owner.toNat :: s2.out }

/-- FULL_CLEARANCE (R81): this device, excluded by an owner, clears the tag of every capability whose address lies there and
sends its rejoin notice. -/
def execFullClearance (owner : BitVec 14) (s : State) : Host.Outcome State Fault Refusal :=
  if !s.portsOpen ∨ owner = s.devId then .fault .notEnabled
  else
    let s1 := s.sweep fun c => c.kind ≠ kLocal && decide (c.dev = owner.toNat)
    .next { s1 with out := .rejoin owner.toNat :: s1.out }

/-- REJOIN_NOTICE (R81): the owner takes the peer from its excluded set, and its lanes number their requests anew. -/
def execRejoinNotice (peer : BitVec 14) (s : State) : Host.Outcome State Fault Refusal :=
  if !s.portsOpen then .fault .notEnabled
  else .next { s with excluded := s.excluded.filter fun d => d ≠ peer.toNat, portSeen := s.portSeen.filter fun e => e.1 / 2 ^ 24 ≠ peer.toNat }

end Sys2Proof.Machine
end

