-- ==== Sys2Proof/Machine/Launch.lean ====
section
/-!
DEFINITION. Launches: reading and checking a launch record and its graph (R116 to R122), refusal and acceptance (R118, R119,
R188), NSPAWN (R129, R349), nodes that become ready and complete, and the end of a launch (R124, R127, R128).
-/

namespace Sys2Proof.Machine

/-- `n` bits of a record from bit `lo`. -/
def recBits (x lo n : Nat) : Nat := x / 2 ^ lo % 2 ^ n

/-- Bytes that the gaffer reads through a data capability of this device, as a number; poison in them has no stated outcome, and they are
taken as clean (log entry 198). -/
def State.gread (s : State) (c : Cap) (off n : Nat) : Nat := bytesNat (s.readAt (c.localAt off) n)

/-- Steps 1 to 7 of R65 over a range of KIND data, for the gaffer and the loader. -/
def State.rangeOk (s : State) (band : BitVec 8) (perm : BitVec 12) (writes : Bool) (c : Cap) (off n : Nat) : Bool :=
  (s.capFails band ⟨[kData], false, perm, !writes, writes⟩ c (touchesMmio (c.localAt off) n)).isNone && decide (off + n ≤ c.len)

/-- The least element of a list above `k`, else the least of all: the next in turn (R103, R116). -/
def nextAbove (k : Nat) (xs : List Nat) : Option Nat :=
  match (xs.filter fun x => decide (k < x)).min? with
  | some x => some x
  | none => xs.min?

/-! ### Graphs (R120 to R122) -/

/-- Whether an entry's image runs under memory-model revision 2 (R393). -/
def CodeEntry.rev2 (e : CodeEntry) : Bool := e.note.getD 2 0 = 2

/-- Why a node record is refused: the codes of R118 that its own fields give. -/
structure NodeIn where
  /-- The record. -/
  x : Nat
  /-- Its index. -/
  ix : Nat
  /-- Successor indices that it names. -/
  succ : List Nat
  /-- Its role entries as numbers; none where the role table lies outside the code capability. -/
  roles : List Nat
deriving DecidableEq, Repr

/-- NKIND of a node record. -/
def nodeKind (x : Nat) : Nat := recBits x 279 2

/-- L of a node record. -/
def nodeLanes (x : Nat) : Nat := 32 * (recBits x 272 5 + 1)

/-- TEAMS of a node record: teams per shop less one. -/
def nodeTeams (x : Nat) : Nat := recBits x 266 6

/-- PPW fields of a node record: VREG, SPAD, ACC, L1F, PRIV. -/
def ppwFields (p : Nat) : Nat × Nat × Nat × Nat × Nat := (recBits p 24 8, recBits p 16 8, recBits p 10 6, recBits p 6 4, recBits p 0 6)

/-- A PPW that a function's partition limits refuse (R138). -/
def ppwBad (part ppw kind lanes : Nat) : Bool :=
  let (v, sp, acc, l1, priv) := ppwFields ppw
  let sum := v + sp + acc + l1
  decide (recBits part 48 8 < v) || decide (recBits part 40 8 < sp) || decide (recBits part 34 6 < acc) || decide (recBits part 26 4 < l1) ||
    decide (recBits part 20 6 < priv) || decide (l1 < recBits part 30 4) || decide (recBits part 56 8 < sum) || (acc ≠ 0 && kind ≠ 0) ||
    decide ((if kind = 1 then 160 else 128) < sum) || (lenFields (32 * priv * lanes)).isNone

/-- ALLOT of a role entry, in registers. -/
def roleAllot (r : Nat) : Nat := 8 * (recBits r 59 5 + 1)

/-- The codes that a node record gives, in the limits of its function; `clen` is the length of the code capability. A join is exempt
from INST by R118, and from LR_REGS since it has no teams whose allotments R101 could add up (log entry 172). -/
def nodeCodes (f : Func) (succTot opTot nodes : Nat) (clen : Option Nat) (n : NodeIn) : List Nat :=
  let x := n.x
  let join : Bool := nodeKind x = 3
  let hen : Bool := recBits x 287 1 = 1
  let handler := recBits x 288 32
  let far (e : Nat) : Bool := match clen with
    | some l => decide (l < e)
    | none => false
  let roles := n.roles
  let when (b : Bool) (c : Nat) : List Nat := if b then [c] else []
  when (recBits x 0 246 ≠ 0 || recBits x 277 2 = 3 || decide (31 < nodeTeams x) || (decide (15 < nodeTeams x) && nodeKind x = 0) ||
      recBits x 320 32 % 8 ≠ 0 || (hen && handler % 4 ≠ 0) || roles.any (fun r => recBits r 32 19 ≠ 0 || recBits r 0 32 % 4 ≠ 0)) 1 ++
    when (decide (succTot < recBits x 480 32 + recBits x 464 16) || decide (opTot < recBits x 384 32 + recBits x 416 16) ||
      (!join && recBits x 432 16 = 0) || recBits x 254 12 = 0 || n.succ.any (fun k => decide (nodes ≤ k)) ||
      roles.any (fun r => decide (recBits r 51 4 < recBits r 55 4))) 4 ++
    when (far (recBits x 320 32 + 8 * (recBits x 284 3 + 1)) || (hen && far (handler + 4)) || roles.any (fun r => far (recBits r 0 32 + 4))) 5 ++
    when (decide (f.limit.toNat / 2 ^ 24 % 8 < recBits x 281 3)) 6 ++
    when (ppwBad f.part.toNat (recBits x 352 32) (nodeKind x) (nodeLanes x)) 7 ++
    when (decide (nodeLanes x < 16 * 2 ^ recBits x 277 2)) 8 ++
    when (!join && decide ((recBits x 376 8) * 16384 < (nodeTeams x + 1) * roleAllot (n.roles.headD 0) * nodeLanes x * 4)) 9

/-- A role entry. -/
def roleOf (r : Nat) : RoleEntry := ⟨roleAllot r, BitVec.ofNat 4 (recBits r 55 4), BitVec.ofNat 4 (recBits r 51 4), BitVec.ofNat 32 r⟩

/-- A node as the gaffer holds it; `ops` is the offset of the operand array from the graph header. -/
def nodeOf (ops : Nat) (n : NodeIn) : Node :=
  let x := n.x
  { succ := n.succ, preds := recBits x 448 16, inst := if nodeKind x = 3 then 1 else recBits x 432 16
    opOff := ops + 64 * recBits x 384 32, opn := recBits x 416 16, ppw := BitVec.ofNat 32 (recBits x 352 32), roles := n.roles.map roleOf
    handler := if recBits x 287 1 = 1 then some (BitVec.ofNat 32 (recBits x 288 32)) else none
    pclass := recBits x 281 3, nkind := BitVec.ofNat 2 (nodeKind x), span := 16 * 2 ^ recBits x 277 2, lanes := nodeLanes x
    teams := nodeTeams x + 1, deadline := BitVec.ofNat 16 (16 * recBits x 254 12), dlscale := BitVec.ofNat 8 (recBits x 246 8)
    dispatched := 0, finished := 0, failed := false }

/-- Remove nodes without predecessors one after another: how many can be removed. -/
def removable (succ : Nat → List Nat) : Nat → List Nat → List Nat → Nat
  | 0, _, _ => 0
  | _, [], _ => 0
  | fuel + 1, k :: todo, left =>
    let left1 := (succ k).foldl (fun l j => updNth (fun c => c - 1) l j) left
    let ready := (succ k).eraseDups.filter fun j => left.getD j 0 ≠ 0 && left1.getD j 0 = 0
    1 + removable succ fuel (todo ++ ready) left1

/-- PREDS agrees with the appearances in successor lists, and there is no cycle (R118). -/
def graphLinked (ns : List NodeIn) : Bool :=
  let preds := ns.map fun n => recBits n.x 448 16
  let named := ns.flatMap fun n => n.succ
  let starts := (List.range ns.length).filter fun k => preds.getD k 0 = 0
  ns.all (fun n => recBits n.x 448 16 = (named.filter fun k => k = n.ix).length) &&
    removable (fun k => (ns[k]?.map NodeIn.succ).getD []) ns.length starts preds = ns.length

/-- What reading a graph gives. -/
structure GraphIn where
  /-- The codes of R118 that it fails with. -/
  codes : List Nat
  /-- Nodes. -/
  nodes : List Node
  /-- Code table entry. -/
  code : Option CodeEntry
  /-- SSEQ. -/
  sseq : Nat
deriving DecidableEq, Repr

/-- Read and check a graph at an offset of a capability (R118): every check whose bytes can be read is made, so that the first code
of the table is found. -/
def State.readGraph (s : State) (fn : Nat) (band : BitVec 8) (c : Cap) (off : Nat) (spawn : Bool) : GraphIn :=
  let ok (o n : Nat) : Bool := s.rangeOk band pLD false c (off + o) n
  let h := s.gread c off 64
  let nodes := recBits h 448 16
  let succTot := recBits h 416 32
  let opTot := recBits h 384 32
  let nodeOff := recBits h 320 64
  let succOff := recBits h 256 64
  let opOff := recBits h 192 64
  let sseq := recBits h 128 64
  if !ok 0 64 then ⟨[3], [], none, sseq⟩
  else
    let field : List Nat := if recBits h 0 128 ≠ 0 ∨ nodeOff % 64 ≠ 0 ∨ succOff % 4 ≠ 0 ∨ opOff % 64 ≠ 0 ∨
      (spawn ∧ sseq / 2 ^ 8 = 2 ^ 56 - 1) then [1] else []
    let inNodes := ok nodeOff (64 * nodes)
    let inSucc := ok succOff (4 * succTot)
    let outside : List Nat := if !inNodes || !inSucc || !ok opOff (64 * opTot) then [3] else []
    let header : List Nat := if recBits h 480 32 ≠ 0x4E475248 ∨ recBits h 472 8 ≠ 1 ∨ nodes = 0 then [4] else []
    let code := Sparse.look s.codes (band.toNat * 256 + recBits h 464 8)
    let clen := code.map fun e => e.cap.len
    let nodeAt (k : Nat) : NodeIn :=
      let x := s.gread c (off + nodeOff + 64 * k) 64
      let six := recBits x 480 32
      { x := x, ix := k
        succ := if inSucc then (List.range (min (recBits x 464 16) (succTot - six))).map fun j => s.gread c (off + succOff + 4 * (six + j)) 4
          else []
        roles := match code with
          | some e =>
            let tab := 8 * (recBits x 284 3 + 1)
            if e.cap.len < recBits x 320 32 + tab then [] else (List.range (tab / 8)).map fun j => s.gread e.cap (recBits x 320 32 + 8 * j) 8
          | none => [] }
    let ns := if inNodes then (List.range nodes).map nodeAt else []
    let f := s.func fn
    ⟨field ++ outside ++ header ++ (if code = none then [5] else []) ++ (if f.limit.toNat % 2 ^ 16 < nodes then [6] else []) ++
        ns.flatMap (nodeCodes f succTot opTot nodes clen) ++ (if graphLinked ns then [] else [4]),
      ns.map (nodeOf opOff), code, sseq⟩

/-- Reading a graph at an offset of an SY capability puts its lines in update mode (R149): header, node records, successor array. -/
def State.markGraph (s : State) (band : BitVec 8) (c : Cap) (off : Nat) : State :=
  let h := s.gread c off 64
  let rows := [(off, 64), (off + recBits h 320 64, 64 * recBits h 448 16), (off + recBits h 256 64, 4 * recBits h 416 32)]
  if s.rangeOk band pLD false c off 64 then s.markRows c (rows.filter fun r => s.rangeOk band pLD false c r.1 r.2) else s

/-- The code that refuses: the first in the order of R118's table. -/
def firstCode : List Nat → Option Nat
  | [] => none
  | c :: cs => match firstCode cs with
    | some d => some (min c d)
    | none => some c

/-! ### Nodes and launches that end (R124, R127, R128) -/

/-- Nothing of a launch is resident, saved or ready. -/
def State.launchQuiet (s : State) (ln : Nat) : Bool :=
  !(s.shops.any fun e => e.2.launch = some ln) && !(s.ready.any fun r => r.launch = some ln)

/-- Whether the completion stamp of a launch can be written now, after its error record (R128, R155). -/
def State.stampReady (s : State) (ln : Nat) : Bool :=
  match Sparse.look s.launches ln with
  | some l => s.rowReady 0 l.stamp l.stampOff 8 true && !(s.records.any fun r => r.1 = l.fn && l.queue = some r.2.1)
  | none => true

/-- A launch completes once no node of it is resident, ready or draining (R128): its stamp, then its interrupt. -/
def State.endLaunch (s : State) (ln : Nat) : State :=
  match Sparse.look s.launches ln with
  | none => s
  | some l =>
    if l.done || !s.launchQuiet ln then s
    else
      let s1 := s.writePlain 0 l.band l.stamp l.stampOff (natBytes 8 (if l.failed then errorStamp 11 else l.seq))
      let s2 := { s1 with launches := Sparse.insert s1.launches ln { l with done := true } }
      match l.vector with
      | some v => s2.interrupt l.fn v
      | none => s2

/-- Nodes of a launch become ready (R124): a join completes at once and releases its successors. -/
def State.readyNodes (s : State) (ln : Nat) : Nat → List Nat → State
  | 0, _ => s
  | _, [] => s
  | fuel + 1, k :: ks =>
    match Sparse.look s.launches ln with
    | none => s
    | some l =>
      match l.nodes[k]? with
      | none => s.readyNodes ln fuel ks
      | some nd =>
        if nd.nkind = 3 then
          let nodes := nd.succ.foldl (fun ns j => updNth (fun m => { m with preds := m.preds - 1 }) ns j) l.nodes
          let nodes1 := updNth (fun m => { m with dispatched := 1, finished := 1 }) nodes k
          let more := nd.succ.eraseDups.filter fun j => match l.nodes[j]?, nodes1[j]? with
            | some a, some b => a.preds ≠ 0 && b.preds = 0
            | _, _ => false
          ({ s with launches := Sparse.insert s.launches ln { l with nodes := nodes1 } } : State).readyNodes ln fuel (ks ++ more)
        else ({ s with ready := s.ready ++ [⟨some ln, k, nd.pclass, none, false, false⟩] } : State).readyNodes ln fuel ks

/-- A node completes: its successors' predecessor counts fall (R127). -/
def State.nodeComplete (s : State) (ln k : Nat) : State :=
  match Sparse.look s.launches ln with
  | none => s
  | some l =>
    match l.nodes[k]? with
    | none => s
    | some nd =>
      let nodes := nd.succ.foldl (fun ns j => updNth (fun m => { m with preds := m.preds - 1 }) ns j) l.nodes
      let more := nd.succ.eraseDups.filter fun j => match l.nodes[j]?, nodes[j]? with
        | some a, some b => a.preds ≠ 0 && b.preds = 0
        | _, _ => false
      ({ s with launches := Sparse.insert s.launches ln { l with nodes := nodes } } : State).readyNodes ln (l.nodes.length + 1) more

/-! ### Acceptance (R118, R119) -/

/-- Enter an accepted launch: its nodes without predecessors become ready. -/
def State.enterLaunch (s : State) (l : Launch) : State :=
  let ln := s.nextLaunch
  let s1 := { s with nextLaunch := ln + 1, launches := Sparse.insert s.launches ln l }
  let first := (List.range l.nodes.length).filter fun k => (l.nodes[k]?.map Node.preds) = some 0
  (s1.readyNodes ln (l.nodes.length + 1) first).endLaunch ln

/-- Write one queue of a function. -/
def Func.setQueue (f : Func) (q : Nat) (x : LQueue) : Func := { f with queues := Sparse.insert f.queues q x }

/-- A queue of a function. -/
def Func.queue (f : Func) (q : Nat) : LQueue := (Sparse.look f.queues q).getD LQueue.zero

/-- The bits of ROOTMASK, ascending. -/
def maskRoots (mask : Nat) : List Nat := (List.range 16).filter fun i => mask.testBit i

/-- Write the roots of ROOTMASK, tagged, into the argument block (R119). -/
def State.writeRoots (s : State) (fn : Nat) (arg : Cap) : Nat → List Nat → State
  | _, [] => s
  | j, i :: is => (s.accessHome (arg.localAt (16 * j)) 16 (.writeCap (s.root fn i)) arg.isSy).1.writeRoots fn arg (j + 1) is

/-- PERM of an argument capability. -/
def argPerm : BitVec 12 := pLD ||| pST ||| pLDC ||| pSTC ||| pAT ||| pDERIVE

/-- A launch record as read. -/
structure LaunchIn where
  /-- The 512 bits. -/
  x : Nat
deriving DecidableEq, Repr

/-- Fields of a launch record (R117). -/
def LaunchIn.bits (r : LaunchIn) (lo n : Nat) : Nat := recBits r.x lo n

/-- The codes that the record itself gives, roots included. -/
def State.recordCodes (s : State) (fn : Nat) (r : LaunchIn) : List Nat :=
  let f := s.func fn
  let mask := r.bits 208 16
  let g := s.root fn (r.bits 204 4)
  let a := s.root fn (r.bits 200 4)
  let st := s.root fn (r.bits 196 4)
  let when (b : Bool) (c : Nat) : List Nat := if b then [c] else []
  when (r.bits 192 2 ≠ 0 || r.bits 0 180 ≠ 0 || r.bits 384 64 % 8 ≠ 0 || r.bits 320 64 % 16 ≠ 0 || r.bits 224 64 % 64 ≠ 0 ||
      r.bits 288 32 % 16 ≠ 0 || decide (r.bits 288 32 < 16 * (maskRoots mask).length) || decide (64 ≤ r.bits 180 12)) 1 ++
    when (!g.tag || !a.tag || !st.tag || (maskRoots mask).any fun i => !(s.root fn i).tag) 2 ++
    when ((st.tag && !s.rangeOk f.band pST true st (r.bits 384 64) 8) || (a.tag && (!s.rangeOk f.band 0 false a (r.bits 320 64) (r.bits 288 32) ||
      (match boundCap 32 a (r.bits 320 64) (r.bits 288 32) with
        | .ok _ => false
        | .error _ => true)))) 3

/-- A valid place for the error stamp of a refused launch (R118). -/
def State.stampPlace (s : State) (fn : Nat) (r : LaunchIn) : Option (Cap × Nat) :=
  let st := s.root fn (r.bits 196 4)
  if st.tag && r.bits 384 64 % 8 = 0 && s.rangeOk (s.func fn).band pST true st (r.bits 384 64) 8 then some (st, r.bits 384 64) else none

/-- Refuse a launch from a queue (R118): error record, error stamp, interrupt. -/
def State.refuseLaunch (s : State) (fn q : Nat) (r : LaunchIn) (code : Nat) : State :=
  let s1 := s.writeErrorRecord fn q (errorBits code (r.bits 448 64) 0 0 0 0 0 0 0 0 0 0 0 4)
  let s2 := match s.stampPlace fn r with
    | some p => s1.writePlain 0 (s.func fn).band p.1 p.2 (natBytes 8 (errorStamp code))
    | none => s1
  if r.bits 194 1 = 1 ∧ r.bits 180 12 < 64 then s2.interrupt fn (r.bits 180 12) else s2

/-- Whether the host-window halves of a graph are held (R155). -/
def State.graphReady (s : State) (c : Cap) (off : Nat) : Bool :=
  let h := s.gread c off 64
  let held (o n : Nat) : Bool := s.rowReady 0 c (off + o) n false
  held 0 64 && held (recBits h 320 64) (64 * recBits h 448 16) && held (recBits h 256 64) (4 * recBits h 416 32)

/-- Whether the host-window halves that acceptance reads and writes are held. -/
def State.acceptReady (s : State) (fn q : Nat) (r : LaunchIn) : Bool :=
  let st := s.root fn (r.bits 196 4)
  let err := s.root fn 0
  let arg := s.root fn (r.bits 200 4)
  s.rowReady 0 st (r.bits 384 64) 8 true && s.rowReady 0 err ((s.func fn).queue q).err.toNat 64 true &&
    s.rowReady 0 arg (r.bits 320 64) (r.bits 288 32) true && s.graphReady (s.root fn (r.bits 204 4)) (r.bits 224 64)

/-- Where the record at a head or tail number of a queue lies, in root 0. -/
def LQueue.place (qu : LQueue) (n : Nat) : Nat := qu.ring.toNat + 64 * (n % qu.size.toNat)

/-- The records from number `n` on, `k` of them, as they stand. -/
def State.ringRecords (s : State) (fn : Nat) (qu : LQueue) (n k : Nat) : List Nat :=
  (List.range k).map fun j => s.gread (s.root fn 0) (qu.place (n + j)) 64

/-- A queue whose tail moves: the records that the tail passes are kept as they stand (R116). -/
def State.moveTail (s : State) (fn : Nat) (qu : LQueue) (tail : W32) : LQueue :=
  let k := (tail - qu.tail).toNat
  let new := if k ≤ qu.size.toNat ∧ qu.posted.length = (qu.tail - qu.head).toNat then s.ringRecords fn qu qu.tail.toNat k else []
  { qu with tail := tail, posted := (qu.posted ++ new).take (tail - qu.head).toNat }

/-- A queue whose ring has been named anew: the records that it holds are kept as they stand. -/
def State.rekeep (s : State) (fn : Nat) (qu : LQueue) : LQueue :=
  let k := (qu.tail - qu.head).toNat
  { qu with posted := if k ≤ qu.size.toNat then s.ringRecords fn qu qu.head.toNat k else [] }

/-- The next record of a queue, and the counter after it: a record in device memory that has changed since the tail passed it has
free field values (R116, R4). -/
def State.nextRecord (s : State) (fn : Nat) (qu : LQueue) : LaunchIn × Nat :=
  let now := s.gread (s.root fn 0) (qu.place qu.head.toNat) 64
  match qu.posted with
  | p :: _ =>
    if p ≠ now ∧ s.region ((s.root fn 0).localAt (qu.place qu.head.toNat)) = .hbm then
      (⟨joinElems 64 (fun j => (Config.freeWord (s.fresh + j)).toNat) 8⟩, s.fresh + 8)
    else (⟨now⟩, s.fresh)
  | [] => (⟨now⟩, s.fresh)

/-- Accept or refuse the next record of a queue; none while it has to wait. A record changed after the tail passed it has free fields
(R116, log entry 186). -/
def State.acceptQueue (s : State) (fn q : Nat) : Option State :=
  let f := s.func fn
  let qu := f.queue q
  let ahead := (qu.tail - qu.head).toNat
  if f.band = 0 || !qu.enable || qu.stopped || ahead = 0 || 16 ≤ q then none
  else if qu.size.toNat < ahead then
    if !s.recordReady fn q then none
    else some ((s.updFunc fn fun g => g.setQueue q { qu with stopped := true }).writeErrorRecord fn q (errorBits 10 0 0 0 0 0 0 0 0 0 0 0 0 4))
  else
    let r := (s.nextRecord fn qu).1
    if r.bits 195 1 = 1 ∧ (s.launches.any fun e => e.2.fn = fn && e.2.queue = some q && !e.2.done) then none
    else if !s.acceptReady fn q r then none
    else
      let gr := s.root fn (r.bits 204 4)
      let g : GraphIn := if gr.tag then s.readGraph fn f.band gr (r.bits 224 64) false else ⟨[], [], none, 0⟩
      let s0 := s.markSy (s.root fn 0) (qu.place qu.head.toNat) 64
      let s1 := { (if gr.tag then s0.markGraph f.band gr (r.bits 224 64) else s0).updFunc fn fun h =>
                    h.setQueue q { qu with head := qu.head + 1, posted := qu.posted.drop 1 } with fresh := (s.nextRecord fn qu).2 }
      match firstCode (s.recordCodes fn r ++ g.codes) with
      | some code => some (s1.refuseLaunch fn q r code)
      | none =>
        if 65535 < s.nodesUsed none + g.nodes.length then none
        else match g.code, boundCap 32 (s.root fn (r.bits 200 4)) (r.bits 320 64) (r.bits 288 32) with
          | some code, .ok a =>
            let arg := { a with perm := a.perm &&& argPerm }
            let s2 := s1.writeRoots fn arg 0 (maskRoots (r.bits 208 16))
            some (s2.enterLaunch
              { fn := fn, queue := some q, band := f.band, seq := r.bits 448 64, stamp := s.root fn (r.bits 196 4), stampOff := r.bits 384 64
                vector := if r.bits 194 1 = 1 then some (r.bits 180 12) else none, arg := arg, graph := gr, graphOff := r.bits 224 64
                code := code.cap, rev2 := code.rev2, shopLimit := f.limit.toNat / 2 ^ 16 % 2 ^ 8, quar := f.limit.toNat / 2 ^ 27 % 2 ^ 5
                deleg := f.deleg, privWin := f.privWin, privLen := f.privLen, ctxWin := f.ctxWin, ctxLen := f.ctxLen, nodes := g.nodes, failed := false
                done := false })
          | _, _ => none

/-- Accept or refuse the oldest NSPAWN of a function (R129): a refusal writes the error stamp alone. -/
def State.acceptSpawn (s : State) (fn : Nat) : Option State :=
  match s.spawns.find? fun p => p.fn = fn with
  | none => none
  | some p =>
    let f := s.func fn
    let g := s.readGraph fn p.band p.graph 0 true
    let s1 := { s.markGraph p.band p.graph 0 with spawns := s.spawns.erase p }
    if !s.rowReady 0 p.stamp 0 8 true || !s.graphReady p.graph 0 then none
    else match firstCode g.codes with
      | some code => some (s1.writePlain 0 p.band p.stamp 0 (natBytes 8 (errorStamp code)))
      | none =>
        if 65535 < s.nodesUsed none + g.nodes.length then none
        else match g.code with
          | none => none
          | some code => some (s1.enterLaunch
              { fn := fn, queue := none, band := p.band, seq := g.sseq, stamp := p.stamp, stampOff := 0, vector := none, arg := p.arg
                graph := p.graph, graphOff := 0, code := code.cap, rev2 := code.rev2, shopLimit := f.limit.toNat / 2 ^ 16 % 2 ^ 8
                quar := f.limit.toNat / 2 ^ 27 % 2 ^ 5, deleg := f.deleg, privWin := f.privWin, privLen := f.privLen, ctxWin := f.ctxWin, ctxLen := f.ctxLen
                nodes := g.nodes, failed := false, done := false })

/-- The queue whose turn it is: round-robin over those whose next record can be served (R116), as 16 × function + queue. -/
def State.servedNext (s : State) : Option Nat :=
  let ids := s.funcs.flatMap fun e =>
    (e.2.queues.filter fun p => decide (p.1 < 16) && (s.acceptQueue e.1 p.1).isSome).map fun p => 16 * e.1 + p.1
  match s.lastQueue with
  | some k => nextAbove k ids
  | none => ids.min?

/-- LAUNCH_ACCEPT: the gaffer reads a launch record of the queue whose turn it is, and its graph; queue 16 stands for the oldest NSPAWN
of the function (log entry 8). -/
def execLaunchAccept (fn q : Nat) (s : State) : Host.Outcome State Fault Refusal :=
  if q = 16 then
    match s.acceptSpawn fn with
    | some s1 => .next s1
    | none => .fault .notEnabled
  else if s.servedNext ≠ some (16 * fn + q) then .fault .notEnabled
  else match s.acceptQueue fn q with
    | some s1 => .next { s1 with lastQueue := some (16 * fn + q) }
    | none => .fault .notEnabled

/-- QTAIL_WRITE (R176, R399): the host writes a queue's tail; the records that it passes are complete from now on (R116). -/
def execQtailWrite (fn q : Nat) (tail : W32) (s : State) : Host.Outcome State Fault Refusal :=
  if fn < 64 ∧ q < 16 then .next (s.updFunc fn fun f => f.setQueue q (s.moveTail fn (f.queue q) tail)) else .fault .notEnabled

/-- NSPAWN: its checks at issue (R349); the gaffer accepts the graph later. -/
def execNspawn (g a st : BitVec 5) : State → Host.Outcome State Fault Refusal :=
  wordStep (.nspawn g a st) fun x s =>
    let cg := x.t.rdC g.toNat
    let ca := x.t.rdC a.toNat
    let cs := x.t.rdC st.toNat
    match x.place s ⟨[kData], false, pLD, true, false⟩ cg 0 1 g.toNat 0 64 1 with
    | .error e => .error e
    | .ok _ => match (match s.capFails x.sh.band ⟨[kData], false, 0, false, false⟩ ca false with
        | some f => if f.step = 6 then none else some f.noAccess
        | none => none) with
      | some f => .error (f.trap 0 1 a.toNat 0 (wrapAddr ca.addr))
      | none => match x.place s ⟨[kData], false, pST, false, true⟩ cs 0 1 st.toNat 0 8 1 with
        | .error e => .error e
        | .ok _ => .ok ({ s with spawns := s.spawns ++ [⟨x.sh.fn, x.sh.band, cg, ca, cs⟩] }, .next)

end Sys2Proof.Machine
end

