-- ==== Sys2Proof/Machine/Matrix.lean ====
section
/-!
DEFINITION. The matrix words (R333 to R348), the arithmetic of the CIM array and the epilogue (R42 to R50), and the steps of
the matrix queue and the distributor.
-/

namespace Sys2Proof.Machine

/-! ### Operands (R333 to R335) -/

/-- The fields of a descriptor. -/
def Desc.ofNat (x : Nat) : Desc :=
  { pat := x / 2 ^ 100 % 2 = 1, seed := x / 2 ^ 84 % 2 ^ 16, ext := x / 2 ^ 75 % 2 ^ 9, stream := x / 2 ^ 72 % 8
    srcs := x / 2 ^ 71 % 2 = 1, margin := x / 2 ^ 67 % 16, kfast := x / 2 ^ 66 % 2 = 1, geo := BitVec.ofNat 2 (x / 2 ^ 64)
    fmt := BitVec.ofNat 6 (x / 2 ^ 58), k := x / 2 ^ 48 % 2 ^ 10, pitch := x / 2 ^ 32 % 2 ^ 16, off := x % 2 ^ 32 }

/-- The 128 bits of a descriptor. -/
def Desc.toNat (d : Desc) : Nat :=
  d.pat.toNat * 2 ^ 100 + d.seed % 2 ^ 16 * 2 ^ 84 + d.ext % 2 ^ 9 * 2 ^ 75 + d.stream % 8 * 2 ^ 72 + d.srcs.toNat * 2 ^ 71 +
    d.margin % 16 * 2 ^ 67 + d.kfast.toNat * 2 ^ 66 + d.geo.toNat * 2 ^ 64 + d.fmt.toNat * 2 ^ 58 + d.k % 2 ^ 10 * 2 ^ 48 +
    d.pitch % 2 ^ 16 * 2 ^ 32 + d.off % 2 ^ 32

/-- The descriptor in s(b), s(b+1). -/
def Ctx.descBits (x : Ctx) (b : Nat) : Nat := (x.t.rdS b).toNat + 2 ^ 64 * (x.t.rdS (b + 1)).toNat

/-- What an operand is for. -/
inductive OpRole where
  /-- A of an MMA. -/
  | a
  /-- A of an MMAS. -/
  | sparseA
  /-- B of an MLOADB. -/
  | b
  /-- The tiles of an MPUB. -/
  | pub
deriving DecidableEq, Repr

/-- The wide B formats (R42). -/
def isWideFmt (f : BitVec 6) : Bool := f = 0x09 || f = 0x0A || f = 0x03 || f = 0x04

/-- MBZ fields and ranges of a descriptor (R333). -/
def Desc.valid (d : Desc) (role : OpRole) (x : Nat) : Bool :=
  let plain : Bool := d.seed = 0 && !d.pat
  let sized (k e : Nat) : Bool := decide (1 ≤ d.k) && decide (d.k ≤ k) && decide (1 ≤ d.ext) && decide (d.ext ≤ e) && decide (1 ≤ d.pitch)
  decide (x / 2 ^ 101 = 0) && match role with
    | .b => plain && !d.srcs && d.stream = 0 && d.margin = 0 && sized 256 (if isWideFmt d.fmt then 128 else 256)
    | .pub => plain && !d.srcs && d.stream = 0 && sized 512 16
    | r => (r = .sparseA || plain) &&
      (if d.srcs then d.fmt = 0 && d.geo = 0 && !d.kfast && d.k = 0 && d.pitch = 0 && d.off = 0 && d.ext = 0
       else d.stream = 0 && sized 512 16)

/-- Storage element number of slower index s and faster index f (R335). -/
def opIndex (geo : BitVec 2) (pitch s f : Nat) : Nat :=
  match geo.toNat with
  | 2 => 64 * (s / 64 * pitch + f) + s % 64
  | 3 => 64 * (s / 8 * (pitch / 8) + f / 8) + 8 * (s % 8) + f % 8
  | _ => s * pitch + f

/-- Byte of storage element `m` (R33, R335). -/
def storeByte (geo : BitVec 2) (w m : Nat) : Nat := if geo = 0 then m * w / 8 else blockElemBit w m / 8

/-- Bytes of storage that reach element `m` and its scale. -/
def storeSize (geo : BitVec 2) (w m : Nat) : Nat :=
  let e := storeByte geo w m + max 1 (w / 8)
  if geo = 0 then e else max e (blockScaleByte w m + 1)

/-- Format and geometry that R42 accepts. -/
def matrixFmt (fmt : BitVec 6) (geo : BitVec 2) (kfast : Bool) : Bool :=
  (isNarrow fmt || (isWideFmt fmt && geo = 0)) && (geo = 0 || geo = 3 || (geo = 1 && kfast) || (geo = 2 && !kfast))

/-- Precision p of a float format with the implicit bit, or the bits of an integer format (R44). -/
def planeBits (fmt : BitVec 6) : Nat :=
  match fmtElem fmt with
  | some (.float F) => F.frac + 1
  | some (.int _ w) => w
  | none => 0

/-- P_A (R44). -/
def planes (fmt : BitVec 6) (margin : Nat) : Nat := planeBits fmt + margin

/-- P_A lies in 2..16. -/
def planesOk (fmt : BitVec 6) (margin : Nat) : Bool := decide (2 ≤ planes fmt margin) && decide (planes fmt margin ≤ 16)

/-- Faster and slower extents. -/
def Desc.fast (d : Desc) : Nat := if d.kfast then d.k else d.ext
/-- The slower extent. -/
def Desc.slow (d : Desc) : Nat := if d.kfast then d.ext else d.k

/-- Element width of a descriptor's format. -/
def Desc.width (d : Desc) : Nat := ((fmtElem d.fmt).getD (.int true 8)).width

/-- Bytes of storage that the operand reaches. -/
def Desc.size (d : Desc) : Nat := storeSize d.geo d.width (opIndex d.geo d.pitch (d.slow - 1) (d.fast - 1))

/-- The checks of an operand in memory (R334, R335); raw bytes with a geometry are no storage that is decoded (R32). -/
def State.operandCheck (s : State) (band : BitVec 8) (role : OpRole) (c : Cap) (creg : Nat) (d : Desc) : Except Trap Unit :=
  let u : Use := ⟨copyKinds, false, pLD, true, false⟩
  let fmtBad : Trap := ⟨.format, 0, 0, 1, creg, false, 0, 0, 0⟩
  match s.engineCheck band u c 1 creg [] with
  | .error e => .error e
  | .ok () =>
    if (c.fmt ≠ 0 ∧ (c.fmt ≠ d.fmt ∨ c.geo ≠ d.geo)) ∨ (c.fmt = 0 ∧ c.geo ≠ 0) then .error fmtBad
    else if !matrixFmt d.fmt d.geo d.kfast then .error fmtBad
    else if (role = .a ∨ role = .sparseA) ∧ !planesOk d.fmt d.margin then .error fmtBad
    else if d.pitch < d.fast ∨ (d.geo = 1 ∧ d.pitch % 64 ≠ 0) ∨ (d.geo = 3 ∧ d.pitch % 8 ≠ 0) then .error engineBad
    else match s.engineCheck band u c 1 creg [(d.off, d.size)] with
      | .error e => .error e
      | .ok () =>
        if d.off % (if d.geo = 0 then max 1 (d.width / 8) else 16) ≠ 0 then
          .error ⟨.align, 0, 8, 1, creg, false, d.off, wrapAddr (c.addr + d.off), 0⟩
        else .ok ()

/-- An operand as it has been read. -/
structure Opnd where
  /-- FMT. -/
  fmt : BitVec 6
  /-- GEO. -/
  geo : BitVec 2
  /-- KFAST. -/
  kfast : Bool
  /-- K. -/
  k : Nat
  /-- Rows of A, columns of B. -/
  ext : Nat
  /-- PITCH of its storage. -/
  pitch : Nat
  /-- Its storage. -/
  row : Row
deriving DecidableEq, Repr

/-- Element format. -/
def Opnd.elem (p : Opnd) : ElemFmt := (fmtElem p.fmt).getD (.int true 8)

/-- Storage number of the element in row (of A) or column (of B) `o` at position `k` (R334). -/
def Opnd.index (p : Opnd) (o k : Nat) : Nat := if p.kfast then opIndex p.geo p.pitch o k else opIndex p.geo p.pitch k o

/-- The bits of storage element `m`. -/
def Opnd.bits (p : Opnd) (m : Nat) : Nat :=
  let w := p.elem.width
  let o := storeByte p.geo w m
  if w < 8 then (p.row.data.getD o 0).toNat / 2 ^ (4 * (m % 2)) % 16 else bytesNat ((p.row.data.drop o).take (w / 8))

/-- The scale byte of storage element `m`; 127 without block scales (R42). -/
def Opnd.scale (p : Opnd) (m : Nat) : Nat := if p.geo = 0 then 127 else (p.row.data.getD (blockScaleByte p.elem.width m) 0).toNat

/-- An element without its scale. -/
def Opnd.value (p : Opnd) (o k : Nat) : FVal := p.elem.decode (p.bits (p.index o k))

/-- Whether a byte that the operand holds is poisoned. -/
def Opnd.poisoned (p : Opnd) : Bool :=
  let w := p.elem.width
  (List.range p.ext).any fun o => (List.range p.k).any fun k =>
    let m := p.index o k
    let b := storeByte p.geo w m
    p.row.poison.getD b false || p.row.poison.getD (b + (w / 8 - 1)) false || (p.geo ≠ 0 && p.row.poison.getD (blockScaleByte w m) false)

/-- Read an operand from memory. -/
def State.readOperand (s : State) (shop : Nat) (c : Cap) (d : Desc) : Opnd :=
  ⟨d.fmt, d.geo, d.kfast, d.k, d.ext, d.pitch, if s.rowReserved shop c d.off d.size then ⟨List.replicate d.size 0, [], List.replicate d.size true⟩
    else (s.readRow shop c d.off d.size []).1⟩

/-- Whether the host halves under an operand are held. -/
def State.operandReady (s : State) (shop : Nat) (c : Cap) (d : Desc) : Bool := s.rowReady shop c d.off d.size false

/-- PITCH of a delivered tile: its faster extent, as a geometry with blocks needs it (R193, R335). -/
def tilePitch (geo : BitVec 2) (fast : Nat) : Nat :=
  match geo.toNat with
  | 1 => (fast + 63) / 64 * 64
  | 3 => (fast + 7) / 8 * 8
  | _ => fast

/-- Put `w` bits into a number at bit `b`. -/
def putBits (x b w v : Nat) : Nat := x - x / 2 ^ b % 2 ^ w * 2 ^ b + v % 2 ^ w * 2 ^ b

/-- A tile as the distributor stores it: every element and scale at its place under `tilePitch` (R193). -/
def packTile (d : Desc) (p : Opnd) : List Byte :=
  let pitch := tilePitch d.geo d.fast
  let w := d.width
  let place (s f : Nat) : Nat := opIndex d.geo pitch s f
  let cells := (List.range d.slow).flatMap fun s => (List.range d.fast).map fun f => (opIndex d.geo d.pitch s f, place s f)
  let n := storeSize d.geo w (place (d.slow - 1) (d.fast - 1))
  let x := cells.foldl (fun (acc : Nat) e =>
    let acc1 := putBits acc (if d.geo = 0 then e.2 * w else blockElemBit w e.2) w (p.bits e.1)
    if d.geo = 0 then acc1 else putBits acc1 (8 * blockScaleByte w e.2) 8 (p.scale e.1)) 0
  natBytes n x

/-- A delivered tile as an operand. -/
def Delivered.operand (t : Delivered) : Opnd :=
  let d := Desc.ofNat t.desc
  ⟨t.fmt, t.geo, d.kfast, d.k, d.ext, tilePitch t.geo d.fast, Row.plain t.data⟩

/-! ### Pre-alignment (R43, R44) -/

/-- The block of position `k` of row or column `o`: along K, or square. -/
def blockOf (geo : BitVec 2) (o k : Nat) : Nat × Nat := if geo = 3 then (o / 8, k / 8) else (o, k / 64)

/-- The positions of a block inside the operand: of a block that reaches beyond its K or EXT the elements inside alone count, the model's
choice (R42, log entry 183). -/
def Opnd.blockCells (p : Opnd) (b : Nat × Nat) : List (Nat × Nat) :=
  if p.geo = 3 then ((List.range 8).flatMap fun i => (List.range 8).map fun j => (8 * b.1 + i, 8 * b.2 + j)).filter fun c =>
    decide (c.1 < p.ext) && decide (c.2 < p.k)
  else ((List.range 64).map fun j => (b.1, 64 * b.2 + j)).filter fun c => decide (c.2 < p.k)

/-- e(x) of a non-zero finite value. -/
def FVal.expo : FVal → Option Int
  | .fin x => if x.m = 0 then none else some (Nat.log2 x.m + x.e)
  | _ => none

/-- Largest of a list of exponents; 0 for an empty one. -/
def maxExpo : List Int → Int
  | [] => 0
  | [e] => e
  | e :: es => max e (maxExpo es)

/-- A block as pre-aligned: NaN block, σ + q. -/
structure Aligned where
  /-- NaN block. -/
  nan : Bool
  /-- Alignment exponent q. -/
  q : Int
  /-- σ + q. -/
  exp : Int
deriving DecidableEq, Repr

/-- Align a block to `bits` magnitude bits. -/
def Opnd.align (p : Opnd) (bits : Nat) (b : Nat × Nat) : Aligned :=
  let cells := p.blockCells b
  let vals := cells.map fun c => p.value c.1 c.2
  let sc := match cells with
    | c :: _ => p.scale (p.index c.1 c.2)
    | [] => 127
  let special := vals.any fun v => match v with
    | .fin _ => false
    | _ => true
  let q : Int := if p.elem.isInt then 0 else maxExpo (vals.filterMap FVal.expo) - (bits - 1 : Int)
  ⟨sc = 255 || special, q, (sc : Int) - 127 + q⟩

/-- The magnitude of an element under an alignment exponent, and whether it is exact. -/
def alignElem (q : Int) : FVal → SlotElem × Bool
  | .fin x => (⟨x.neg, shiftNat x.m (x.e - q)⟩, (dropped x.m (x.e - q)).1 = 0)
  | _ => (⟨false, 0⟩, true)

/-- Block number in a slot (R193). -/
def slotBlock (geo : BitVec 2) (n k : Nat) : Nat := if geo = 3 then 32 * (n / 8) + k / 8 else 4 * n + k / 64

/-- The blocks of an operand. -/
def Opnd.blocks (p : Opnd) : List (Nat × Nat) :=
  let no := if p.geo = 3 then (p.ext + 7) / 8 else p.ext
  let nk := if p.geo = 3 then (p.k + 7) / 8 else (p.k + 63) / 64
  (List.range no).flatMap fun o => (List.range nk).map fun k => (o, k)

/-- MLOADB's effect: the slot that a B operand fills (R43). In a NaN block the finite elements that lose bits still set B_ALIGN_LOSS, the
model's choice (log entry 18). -/
def Opnd.slot (p : Opnd) : Slot :=
  let w := if isWideFmt p.fmt then 24 else 12
  let start : Slot := { Slot.empty with fmt := p.fmt, geo := p.geo, k := p.k, n := p.ext, poisoned := p.poisoned }
  p.blocks.foldl (fun (z : Slot) b =>
    let a := p.align w b
    let j := if p.geo = 3 then 32 * b.1 + b.2 else 4 * b.1 + b.2
    let z1 := { z with exps := Sparse.set 0 z.exps j a.exp, nans := Sparse.set false z.nans j a.nan }
    (p.blockCells b).foldl (fun (y : Slot) c =>
      let e := alignElem a.q (p.value c.1 c.2)
      { y with elems := Sparse.set ⟨false, 0⟩ y.elems (512 * c.1 + c.2) e.1, loss := y.loss || !e.2 }) z1) start

/-! ### The accumulator (R46, R47) -/

/-- Truncate toward zero by 2^d; whether something was lost. -/
def truncShift (v : Int) (d : Nat) : Int × Bool := (v.tdiv (2 ^ d : Nat), v.tmod (2 ^ d : Nat) ≠ 0)

/-- Rescale a tile by d. -/
def Tile.rescale (t : Tile) (d : Nat) : Tile :=
  { t with lam := t.lam + d
           window := t.window || t.elems.any fun e => (truncShift e.2.v d).2
           elems := (t.elems.map fun e => (e.1, { e.2 with v := (truncShift e.2.v d).1, sticky := e.2.sticky || (truncShift e.2.v d).2 })).filter
             fun e => e.2 ≠ AccElem.zero }

/-- An element of a tile. -/
def Tile.at (t : Tile) (key : Nat) : AccElem := Sparse.get AccElem.zero t.elems key

/-- Mark an element inexact. -/
def Tile.stick (t : Tile) (key : Nat) : Tile :=
  { t with window := true, elems := Sparse.set AccElem.zero t.elems key { t.at key with sticky := true } }

/-- V + t fits in 96 bits. -/
def fits96 (v : Int) : Bool := decide (-(2 ^ 95) ≤ v) && decide (v < 2 ^ 95)

/-- The last part of R47: rescale until the sum fits, then add. -/
def Tile.accumulate (key : Nat) : Nat → Tile → Int → Tile
  | 0, t, v => { t with elems := Sparse.set AccElem.zero t.elems key { t.at key with v := (t.at key).v + v } }
  | n + 1, t, v =>
    if fits96 ((t.at key).v + v) then { t with elems := Sparse.set AccElem.zero t.elems key { t.at key with v := (t.at key).v + v } }
    else
      let r := truncShift v 1
      let t1 := t.rescale 1
      Tile.accumulate key n (if r.2 then t1.stick key else t1) r.1

/-- One segment contribution (R47); the first one opens the tile, also one with S = 0, which leaves LAM, V and EMPTY
(R341, log entry 91). -/
def Tile.contribute (t : Tile) (key : Nat) (sum lam : Int) (nan : Bool) : Tile :=
  let t0 := { t with state := if t.state = TileState.clear then TileState.opened else t.state }
  if nan then { t0 with elems := Sparse.set AccElem.zero t0.elems key { t0.at key with nan := true } }
  else if sum = 0 then t0
  else
    let t1 := if t0.empty then { t0 with lam := lam, empty := false } else t0
    let t2 := if t1.lam < lam then t1.rescale (lam - t1.lam).toNat else t1
    let sh := lam - t2.lam + 40
    if 0 ≤ sh then Tile.accumulate key 200 t2 (sum * 2 ^ sh.toNat)
    else
      let r := truncShift sum (-sh).toNat
      Tile.accumulate key 200 (if r.2 then t2.stick key else t2) r.1

/-! ### Products (R45, R342, R347) -/

/-- The hash of R347. -/
def patternHash (seed n g : Nat) : Nat :=
  let h0 := (seed ^^^ (n * 0x2545 % 2 ^ 16)) ^^^ (g * 0x9E37 % 2 ^ 16)
  let h1 := h0 ^^^ (h0 / 2 ^ 7)
  let h2 := h1 * 0x5BD1 % 2 ^ 16
  h2 ^^^ (h2 / 2 ^ 9)

/-- The subsets of `k` elements of `l`, in lexicographic order. -/
def subsets : Nat → List Nat → List (List Nat)
  | 0, _ => [[]]
  | _ + 1, [] => []
  | k + 1, x :: xs => ((subsets k xs).map fun t => x :: t) ++ subsets (k + 1) xs

/-- The kept positions of column n in group g (R347): 4 of 8 when `pat`, else 2 of 4. -/
def kept (pat : Bool) (seed n g : Nat) : List Nat :=
  let h := patternHash seed n g
  if pat then (subsets 4 (List.range 8)).getD (h % 70) [] else (subsets 2 (List.range 4)).getD (h % 6) []

/-- The stored row of B that position `k` of column `n` takes, or none for a position that the pattern excludes. -/
def sparseRow (pat : Bool) (seed n k : Nat) : Option Nat :=
  let size := if pat then 8 else 4
  ((kept pat seed n (k / size)).findIdx? fun p => p = k % size).map fun i => size / 2 * (k / size) + i

/-- A signed magnitude. -/
def SlotElem.signed (e : SlotElem) : Int := if e.neg then -(e.m : Int) else e.m

/-- One segment of an output element: the sum S, λ, and whether a block is a NaN block; `row k` is the stored row of B at
position k, `base` the one that names the segment's B block. -/
def segment (a : Opnd) (pa : Nat) (b : Slot) (r n k0 len base : Nat) (row : Nat → Option Nat) : Int × Int × Bool :=
  let blk := blockOf a.geo r k0
  let al := a.align pa blk
  let j := slotBlock b.geo n base
  let terms := (List.range len).map fun i =>
    match row (k0 + i) with
    | some q => (alignElem al.q (a.value r (k0 + i))).1.signed * (Sparse.get ⟨false, 0⟩ b.elems (512 * n + q)).signed
    | none => 0
  (terms.sum, al.exp + Sparse.get 0 b.exps j, al.nan || Sparse.get false b.nans j)

/-- The product of an A operand with a slot, added into a tile (R45, R47, R342). -/
def product (a : Opnd) (margin : Nat) (b : Slot) (sparse : Option (Bool × Nat)) (t : Tile) : Tile :=
  let seg := if a.geo = 3 ∨ b.geo = 3 then 8 else 64
  let pa := planes a.fmt margin
  let row (n k : Nat) : Option Nat := match sparse with
    | none => some k
    | some p => sparseRow p.1 p.2 n k
  let base (k : Nat) : Nat := if sparse.isSome then k / 2 else k
  (List.range a.ext).foldl (fun t r => (List.range b.n).foldl (fun t n => (List.range ((a.k + seg - 1) / seg)).foldl (fun t g =>
    let k0 := seg * g
    let c := segment a pa b r n k0 (min seg (a.k - k0)) (base k0) (row n)
    t.contribute (256 * r + n) c.1 c.2.1 c.2.2) t) t) t

/-- The checks of R342, when the command is performed. -/
def productOk (a : Opnd) (margin : Nat) (b : Slot) (sparse : Option Bool) : Bool :=
  b.k ≠ 0 && !b.poisoned && matrixFmt a.fmt a.geo a.kfast && planesOk a.fmt margin && !a.poisoned && decide (a.k ≤ match sparse with
    | none => b.k
    | some _ => 2 * b.k) && match sparse with
    | none => true
    | some pat => a.k % (if pat then 8 else 4) = 0 && b.k = a.k / 2

/-! ### Issue -/

/-- Number of tiles of a shop (R340). -/
def Shop.tileCount (x : Shop) : Nat := x.ppw.toNat / 2 ^ 10 % 2 ^ 6 / 4

/-- A tile. -/
def Shop.tile (x : Shop) (t : Nat) : Tile := Sparse.get Tile.cleared x.tiles t

/-- Replace a tile. -/
def Shop.setTile (x : Shop) (n : Nat) (t : Tile) : Shop := { x with tiles := Sparse.set Tile.cleared x.tiles n t }

/-- A slot. -/
def Shop.slot (x : Shop) (l : Nat) : Slot := Sparse.get Slot.empty x.slots l

/-- A subscription. -/
def Shop.sub (x : Shop) (i : Nat) : Sub := Sparse.get Sub.off x.subs i

/-- Replace a subscription. -/
def Shop.setSub (x : Shop) (i : Nat) (u : Sub) : Shop := { x with subs := Sparse.set Sub.off x.subs i u }

/-- ENGINE with the tile index in FAUX. -/
def tileTrap (t : Nat) : Trap := { Trap.plain .engine with aux := t }

/-- The tile exists, and with `live` is not in ERROR (R340, R341). -/
def Ctx.tileCheck (x : Ctx) (t : Nat) (live : Bool) : Except Trap Unit :=
  if x.sh.tileCount ≤ t ∨ (live ∧ (x.sh.tile t).state = .error) then .error (tileTrap t) else .ok ()

/-- Enter a matrix command, which joins the batch that the next MFENCE closes (R348). -/
def State.issueMatrix (s : State) (x : Ctx) (body : CmdBody) : Effect :=
  .ok (s.issueCmd x 4 body .none (x.t.mclosed.toNat + 1), .next)

/-- A matrix word whose checks are one list. -/
def matrixStep (i : Instr) (check : Ctx → State → Except Trap Unit) (body : Ctx → CmdBody) : State → Host.Outcome State Fault Refusal :=
  wordStep i fun x s => match check x s with
    | .error e => .error e
    | .ok () => s.issueMatrix x (body x)

/-- The checks of an operand word: descriptor, then capability. -/
def Ctx.opndCheck (x : Ctx) (s : State) (role : OpRole) (c : BitVec 5) (b : BitVec 6) : Except Trap Unit :=
  let n := x.descBits b.toNat
  let d := Desc.ofNat n
  if !d.valid role n then .error engineBad
  else if d.srcs then .ok ()
  else s.operandCheck x.sh.band role (x.t.rdC c.toNat) c.toNat d

/-- MLOADB. -/
def execMloadb (l : BitVec 1) (c : BitVec 5) (b : BitVec 6) : State → Host.Outcome State Fault Refusal :=
  matrixStep (.mloadb l c b) (fun x s => x.opndCheck s .b c b)
    fun x => .mloadb l.toNat (x.t.rdC c.toNat) (Desc.ofNat (x.descBits b.toNat))

/-- MSUB. -/
def execMsub (i : BitVec 3) (n : BitVec 6) (w : BitVec 4) : State → Host.Outcome State Fault Refusal :=
  matrixStep (.msub i n w) (fun _ _ => .ok ()) fun _ => .msub i.toNat n.toNat w.toNat

/-- MUNSUB. -/
def execMunsub (i : BitVec 3) (h : BitVec 4) : State → Host.Outcome State Fault Refusal :=
  matrixStep (.munsub i h) (fun _ _ => .ok ()) fun _ => .munsub i.toNat

/-- The descriptor of tile `j` of an MPUB. -/
def pubDesc (d : Desc) (j stride : Nat) : Desc := { d with off := d.off + j * stride }

/-- The checks of every tile of an MPUB, from tile `j`. -/
def State.pubCheck (s : State) (band : BitVec 8) (c : Cap) (creg : Nat) (d : Desc) (stride : Nat) : Nat → Nat → Except Trap Unit
  | 0, _ => .ok ()
  | n + 1, j => match s.operandCheck band .pub c creg (pubDesc d j stride) with
    | .error e => .error e
    | .ok () => s.pubCheck band c creg d stride n (j + 1)

/-- MPUB. -/
def execMpub (n : BitVec 6) (c : BitVec 5) (b : BitVec 6) : State → Host.Outcome State Fault Refusal :=
  matrixStep (.mpub n c b) (fun x s =>
      let bits := x.descBits b.toNat
      let d := Desc.ofNat bits
      let count := (x.t.rdS (b.toNat + 2)).toNat
      if !d.valid .pub bits ∨ count = 0 ∨ 65535 < count then .error engineBad
      else s.pubCheck x.sh.band (x.t.rdC c.toNat) c.toNat d (x.t.rdS (b.toNat + 3)).toNat count 0)
    fun x => .mpub n.toNat (x.t.rdC c.toNat) (Desc.ofNat (x.descBits b.toNat)) (x.t.rdS (b.toNat + 2)).toNat (x.t.rdS (b.toNat + 3)).toNat

/-- MMA. -/
def execMma (l : BitVec 1) (t : BitVec 4) (c : BitVec 5) (b : BitVec 6) : State → Host.Outcome State Fault Refusal :=
  matrixStep (.mma l t c b) (fun x s => both (x.tileCheck t.toNat true) (x.opndCheck s .a c b))
    fun x => .mma t.toNat l.toNat (x.t.rdC c.toNat) (Desc.ofNat (x.descBits b.toNat)) false

/-- MMAS. -/
def execMmas (l : BitVec 1) (t : BitVec 4) (c : BitVec 5) (b : BitVec 6) : State → Host.Outcome State Fault Refusal :=
  matrixStep (.mmas l t c b) (fun x s => both (x.tileCheck t.toNat true) (x.opndCheck s .sparseA c b))
    fun x => .mma t.toNat l.toNat (x.t.rdC c.toNat) (Desc.ofNat (x.descBits b.toNat)) true

/-- MFENCE: closes a batch; batch numbers count from 1 (R348). -/
def execMfence (d : BitVec 6) (h : BitVec 4) : State → Host.Outcome State Fault Refusal :=
  teamStep (.mfence d h) fun x =>
    .ok ({ x.t with mclosed := x.t.mclosed + 1 }.wrS d.toNat (BitVec.ofNat 64 (x.t.mclosed.toNat + 1)))

/-- Whether every batch of a team up to `n` has completed. -/
def State.batchesDone (s : State) (team n : Nat) : Bool :=
  s.cmds.all fun c => !(decide (c.team = some team) && c.queue = 4 && decide (c.batch ≤ n) && match c.body with
    | .fence _ => false
    | _ => true)

/-- MWAIT. -/
def execMwait (d a : BitVec 6) (h : BitVec 4) : State → Host.Outcome State Fault Refusal :=
  wordStep (.mwait d a h) fun x s =>
    let n := (x.t.rdS a.toNat).toNat
    match x.needScope s x.t.scope with
    | .error e => .error e
    | .ok () =>
      if n = 0 then .ok (s.setTeam x.n (x.awake.wrS d.toNat 0), .next)
      else if x.t.mclosed.toNat < n then .error engineBad
      else if s.batchesDone x.n n || decide (n ≤ x.t.mdone.toNat) then
        let bad : Bool := x.t.mbad || (x.t.merr ≠ 0 && decide (x.t.merr.toNat ≤ n))
        .ok (s.setTeam x.n ({ x.awake with mbad := false }.wrS d.toNat (if bad then 1 else 0)), .next)
      else s.block x (.mwait d a h) false

/-- The destination of an MEPI from s(b), s(b+1): OFF, PITCH, ROWS, COLS. -/
structure EpiDesc where
  /-- OFF. -/
  off : Nat
  /-- PITCH. -/
  pitch : Nat
  /-- ROWS. -/
  rows : Nat
  /-- COLS. -/
  cols : Nat
  /-- MBZ bits are zero. -/
  clean : Bool
deriving DecidableEq, Repr

/-- Read it. -/
def Ctx.epiDesc (x : Ctx) (b : BitVec 6) : EpiDesc :=
  let w := (x.t.rdS (b.toNat + 1)).toNat
  ⟨(x.t.rdS b.toNat).toNat % 2 ^ 32, w % 2 ^ 16, w / 2 ^ 16 % 2 ^ 5, w / 2 ^ 21 % 2 ^ 9, w / 2 ^ 30 = 0⟩

/-- The checks of MEPI (R343). -/
def Ctx.epiCheck (x : Ctx) (s : State) (c : BitVec 5) (e : EpiDesc) : Except Trap Unit :=
  let cap := x.t.rdC c.toNat
  let band := x.sh.band
  let u : Use := ⟨copyKinds, true, pST, false, true⟩
  let fmtBad : Trap := ⟨.format, 0, 0, 1, c.toNat, false, 0, 0, 0⟩
  -- CW is judged last (log entry 92)
  let plain : Cap := { cap with perm := cap.perm &&& ~~~pCW }
  if !e.clean ∨ e.rows = 0 ∨ 16 < e.rows ∨ e.cols = 0 ∨ 256 < e.cols then .error engineBad
  else match s.engineCheck band u plain 1 c.toNat [] with
    | .error f => .error f
    | .ok () => match fmtElem cap.fmt with
      | none => .error fmtBad
      | some f =>
        if cap.geo ≠ 0 ∧ !isNarrow cap.fmt then .error fmtBad
        else match s.engineCheck band u plain 1 c.toNat [(e.off, storeSize cap.geo f.width (opIndex cap.geo e.pitch (e.rows - 1) (e.cols - 1)))] with
          | .error g => .error g
          | .ok () =>
            if e.off % (if cap.geo = 0 then max 1 (f.width / 8) else 16) ≠ 0 then
              .error ⟨.align, 0, 8, 1, c.toNat, false, e.off, wrapAddr (cap.addr + e.off), 0⟩
            else if cap.geo = 2 ∨ (cap.geo = 1 ∧ (e.cols % 64 ≠ 0 ∨ e.pitch % 64 ≠ 0)) ∨ (cap.geo = 3 ∧ (e.rows % 8 ≠ 0 ∨ e.cols % 8 ≠ 0)) then
              .error fmtBad
            else if e.pitch < e.cols ∨ (cap.geo = 3 ∧ e.pitch % 8 ≠ 0) then .error engineBad
            else if cap.has pCW ∧ (cap.kind = kData ∨ cap.kind = kSealed) then
              .error ⟨.cow, 0, 9, 1, c.toNat, false, e.off, wrapAddr (cap.addr + e.off), 0⟩
            else .ok ()

/-- The draws of an epilogue under STO, element by element in ascending row (R49, R343); elements of one row whose columns share a lane draw
in ascending column, the model's choice (log entry 182). -/
def epiDraws (lanes : Nat) : List (Nat × Nat) → Team → Sparse Nat → Sparse Nat × Team
  | [], t, m => (m, t)
  | (r, c) :: es, t, m =>
    let d := genDraw (t.rdGen (c % lanes))
    epiDraws lanes es (t.wrGen (c % lanes) d.1) (Sparse.set 0 m (256 * r + c) d.2)

/-- The cells of an epilogue. -/
def epiCells (rows cols : Nat) : List (Nat × Nat) := (List.range rows).flatMap fun r => (List.range cols).map fun c => (r, c)

/-- MEPI. -/
def execMepi (k : BitVec 1) (t : BitVec 4) (c : BitVec 5) (b : BitVec 6) : State → Host.Outcome State Fault Refusal :=
  wordStep (.mepi k t c b) fun x s =>
    let e := x.epiDesc b
    match both (x.tileCheck t.toNat true) (x.epiCheck s c e) with
    | .error f => .error f
    | .ok () =>
      let d := if x.t.rnd = .sto then epiDraws x.sh.lanes (epiCells e.rows e.cols) x.t [] else ([], x.t)
      (s.setTeam x.n d.2).issueMatrix x
        (.mepi t.toNat (k = 1) (x.t.rdC c.toNat) e.off e.pitch e.rows e.cols (x.t.modeBits 15 3) x.t.sat d.1)

/-- MCLR. -/
def execMclr (t : BitVec 4) (h : BitVec 4) : State → Host.Outcome State Fault Refusal :=
  matrixStep (.mclr t h) (fun x _ => x.tileCheck t.toNat false) fun _ => .mclr t.toNat

/-- MREL. -/
def execMrel (i : BitVec 3) (h : BitVec 4) : State → Host.Outcome State Fault Refusal :=
  matrixStep (.mrel i h) (fun _ _ => .ok ()) fun _ => .mrel i.toNat

/-- STATE code. -/
def TileState.code : TileState → Nat
  | .clear => 0
  | .opened => 1
  | .drain => 2
  | .error => 3

/-- What MSTAT reports of a tile (R346); the contents of a tile in ERROR are unspecified (R345). -/
def Shop.tileStatus (x : Shop) (t fresh : Nat) : Nat :=
  let a := x.tile t
  let s0 := x.slot 0
  let s1 := x.slot 1
  let known := s1.poisoned.toNat * 2 ^ 7 + s0.poisoned.toNat * 2 ^ 6 + s1.loss.toNat * 2 ^ 5 + s0.loss.toNat * 2 ^ 4 + a.state.code
  let g := (Config.freeWord fresh).toNat
  known + (if a.state = .error then g / 2 ^ 48 * 2 ^ 48 + g / 2 ^ 2 % 4 * 2 ^ 2
    else wrapInt 16 a.lam * 2 ^ 48 + a.window.toNat * 2 ^ 3 + a.empty.toNat * 2 ^ 2)

/-- What MSTAT reports of slots and subscriptions. -/
def Shop.matrixStatus (x : Shop) : Nat :=
  joinElems 4 (fun m => if (x.sub m).on then min 8 (x.sub m).tiles.length else 0) 8 +
    ((x.slot 0).k % 256 * 256 + (x.slot 0).n % 256) * 2 ^ 32 + ((x.slot 1).k % 256 * 256 + (x.slot 1).n % 256) * 2 ^ 48

/-- MSTAT: a tile is reported once the team's earlier matrix commands have been performed. -/
def execMstat (d : BitVec 6) (q : BitVec 8) : State → Host.Outcome State Fault Refusal :=
  wordStep (.mstat d q) fun x s =>
    if q.getLsbD 7 then .ok (s.setTeam x.n (x.awake.wrS d.toNat (BitVec.ofNat 64 x.sh.matrixStatus)), .next)
    else match x.tileCheck q.toNat false with
      | .error e => .error e
      | .ok () =>
        if s.batchesDone x.n (x.t.mclosed.toNat + 1) then
          .ok ({ s with fresh := s.fresh + 1 }.setTeam x.n (x.awake.wrS d.toNat (BitVec.ofNat 64 (x.sh.tileStatus q.toNat s.fresh))), .next)
        else s.block x (.mstat d q) false

/-! ### Performing (R338, R339, R342 to R345) -/

/-- A batch reports an error (R345, R348). -/
def Team.batchError (t : Team) (b : Nat) : Team :=
  { t with merr := if t.merr = 0 ∨ b < t.merr.toNat then BitVec.ofNat 32 b else t.merr }

/-- A matrix command ends with status 1. -/
def State.matrixError (s : State) (c : Cmd) : State :=
  (match c.team with
    | some n => s.updTeam n fun t => t.batchError c.batch
    | none => s).dropCmd c.id

/-- The value of a tile element (R49): none for a NaN. -/
def Tile.value (t : Tile) (r c : Nat) : Option Exact :=
  let e := t.at (256 * r + c)
  if e.nan then none
  else if t.empty ∨ e.v = 0 then some ⟨false, 0, 0, false⟩
  else some ⟨e.v < 0, e.v.natAbs, t.lam - 40, e.sticky⟩

/-- The scale byte of an epilogue block from its values (R50): 0xFF when one is NaN. -/
def epiScale (f : ElemFmt) (vals : List (Option Exact)) : Nat :=
  if vals.any Option.isNone then 255
  else
    let es := vals.filterMap fun v => v.bind fun x => FVal.expo (.fin x)
    if es = [] then 127
    else (max (-127) (min 127 (maxExpo es - f.emax)) + 127).toNat

/-- The cells of an epilogue's storage block that holds a cell. -/
def epiBlock (geo : BitVec 2) (pitch : Nat) (cells : List (Nat × Nat)) (m : Nat) : List (Nat × Nat) :=
  cells.filter fun p => opIndex geo pitch p.1 p.2 / 64 = m / 64

/-- Whether a value is negative and not zero, and the format an unsigned float format (R41). -/
def ElemFmt.refusesSign (f : ElemFmt) (v : FVal) : Bool :=
  match f, v with
  | .float F, .fin x => !F.signed && x.neg && decide (x.m ≠ 0)
  | _, _ => false

/-- The bits that an epilogue stores for a cell (R49, R50): in block-scaled storage magnitudes saturate whatever MODE.SAT
holds, and R41's negative value in an unsigned format goes by MODE.SAT as elsewhere. -/
def Tile.epiBits (t : Tile) (f : ElemFmt) (scale : Option Nat) (rnd : Rnd) (sat : Bool) (words : Sparse Nat) (r c : Nat) : Nat :=
  let w := Sparse.get 0 words (256 * r + c)
  let v : FVal := match t.value r c with
    | none => .nan
    | some x => .fin x
  match scale with
  | none => f.encode rnd w sat v
  | some 255 => 0
  | some z => f.encode rnd w (sat || !f.refusesSign v) (match v with
    | .fin x => .fin { x with e := x.e - (z - 127 : Int) }
    | u => u)

/-- The stores of an epilogue: bit position in the storage, width, bits. -/
def Tile.epiStores (t : Tile) (cap : Cap) (pitch rows cols : Nat) (rnd : Rnd) (sat : Bool) (words : Sparse Nat) : List (Nat × Nat × Nat) :=
  let f := (fmtElem cap.fmt).getD (.int true 8)
  let w := f.width
  let cells := epiCells rows cols
  cells.flatMap fun p =>
    let m := opIndex cap.geo pitch p.1 p.2
    if cap.geo = 0 then [(m * w, w, t.epiBits f none rnd sat words p.1 p.2)]
    else
      let z := epiScale f ((epiBlock cap.geo pitch cells m).map fun q => t.value q.1 q.2)
      [(blockElemBit w m, w, t.epiBits f (some z) rnd sat words p.1 p.2), (8 * blockScaleByte w m, 8, z)]

/-- The bytes of an epilogue's stores: offset, value, mask; a later entry of a byte joins an earlier one. -/
def storeBytes (off : Nat) : List (Nat × Nat × Nat) → Sparse (Nat × Nat) → Sparse (Nat × Nat)
  | [], m => m
  | (b, w, v) :: es, m =>
    let put (m : Sparse (Nat × Nat)) (j : Nat) : Sparse (Nat × Nat) :=
      let old := (Sparse.look m (off + b / 8 + j)).getD (0, 0)
      let mask := (2 ^ w - 1) * 2 ^ (b % 8) / 2 ^ (8 * j) % 256
      let val := v * 2 ^ (b % 8) / 2 ^ (8 * j) % 256
      Sparse.insert m (off + b / 8 + j) ((old.1 &&& (255 - mask)) ||| val, old.2 ||| mask)
    storeBytes off es ((List.range ((w + 7) / 8)).foldl put m)

/-- Write bytes at offsets of a capability; a nibble joins the byte that is there. -/
def State.writeBytes (s : State) (shop : Nat) (band : BitVec 8) (cap : Cap) : Sparse (Nat × Nat) → State
  | [] => s
  | (o, v, mask) :: es =>
    let old := if mask = 255 then 0 else if cap.kind = kSealed then (Config.freeByte s.fresh).toNat else
      bytesNat (s.readRow shop cap o 1 []).1.data
    ({ s with fresh := s.fresh + 1 }.writePlain shop band cap o [BitVec.ofNat 8 ((old &&& (255 - mask)) ||| v)]).writeBytes shop band cap es

/-- Whether an epilogue reads a poisoned element of its tile: a granule of the accumulator section (R405). -/
def Tile.soiled (t : Tile) (rows cols : Nat) : Bool := t.poison.any fun e => e.2 && decide (e.1 / 256 < rows) && decide (e.1 % 256 < cols)

/-- Whether a store of an epilogue meets a reserved range, a poisoned granule, or a peer that no port reaches (R345, R352). -/
def State.epiBad (s : State) (shop : Nat) (cap : Cap) (bytes : Sparse (Nat × Nat)) : Bool :=
  (cap.kind = kSealed && !s.portsOpen) || bytes.any fun e => s.rowReserved shop cap e.1 1 || (cap.kind ≠ kSealed && ((s.readRow shop cap e.1 1 []).1.poison.any fun p => p))

/-- Whether the host halves under an epilogue are owned. -/
def State.epiReady (s : State) (shop : Nat) (cap : Cap) (bytes : Sparse (Nat × Nat)) : Bool :=
  bytes.all fun e => s.rowReady shop cap e.1 1 true

/-- The bytes of an MEPI command over the tile as it stands. -/
def Shop.epiBytes (x : Shop) (t : Nat) (cap : Cap) (off pitch rows cols rnd : Nat) (sat : Bool) (words : Sparse Nat) : Sparse (Nat × Nat) :=
  storeBytes off ((x.tile t).epiStores cap pitch rows cols (Rnd.ofCode rnd) sat words) []

/-- A tile enters ERROR (R345). -/
def Shop.tileError (x : Shop) (t : Nat) : Shop := x.setTile t { Tile.cleared with state := .error }

/-- The subscription that a shop number and index name receives tiles: registered, and its shop has not ended. -/
def State.subLive (s : State) (k : Nat) : Bool :=
  match s.shop? (k / 8) with
  | some x => (x.sub (k % 8)).on && x.phase ≠ .results && x.phase ≠ .failed && x.phase ≠ .discarded
  | none => false

/-- Release the oldest tile of a subscription; it ends when MUNSUB has been performed and none is left. -/
def Sub.release (u : Sub) : Sub :=
  let v := { u with tiles := u.tiles.drop 1 }
  if v.ending ∧ v.tiles = [] then Sub.off else v

/-- Replace a subscription of a shop; one that has ended leaves the subscriber sets of the publications under way, so that a
later registration of its index gets nothing of them (R339). -/
def State.putSub (s : State) (shop i : Nat) (u : Sub) : State :=
  let s1 := s.updShop shop fun y => y.setSub i u
  if u.on then s1
  else { s1 with pubs := s1.pubs.map fun p => { p with subs := p.subs.map fun ks => ks.filter fun k => k ≠ 8 * shop + i } }

/-- A published tile as memory holds it now. -/
def State.tileNow (s : State) (shop : Nat) (cap : Cap) (d : Desc) : Delivered :=
  let o := s.readOperand shop cap d
  ⟨{ d with off := 0 }.toNat, d.fmt, d.geo, packTile d o, o.poisoned⟩

/-- The A operand of a product: none when a streamed tile has not come yet. An unregistered subscription gives `some none`, and so
does one of a failed shop, to which no further tile comes (R128, log entry 200). -/
def State.productA (s : State) (x : Shop) (shop : Nat) (cap : Cap) (d : Desc) : Option (Option Opnd) :=
  if d.srcs then
    if !(x.sub d.stream).on then some none
    else match (x.sub d.stream).tiles with
      | [] => if x.phase = .failed ∨ x.phase = .discarded then some none else none
      | t :: _ => some (if t.poison then none else some t.operand)
  else if s.operandReady shop cap d then some (some (s.readOperand shop cap d)) else none

/-- Perform the matrix command `c` of a shop; none while it has to wait. -/
def State.performMatrix (s : State) (x : Shop) (c : Cmd) : Option State :=
  let sh := c.shop
  match c.body with
  | .mloadb slot cap d =>
    if s.operandReady sh cap d then
      some (((s.markSy cap d.off d.size).updShop sh fun y => { y with slots := Sparse.set Slot.empty y.slots slot (s.readOperand sh cap d).slot }).dropCmd c.id)
    else none
  | .msub i n w =>
    let used := ((List.range 8).map fun j => if (x.sub j).on then (x.sub j).window else 0).sum
    if (x.sub i).on ∨ 8 < used + w then
      some ((match c.team with
        | some t => s.updTeam t fun y => { y with mbad := true }
        | none => s).dropCmd c.id)
    else some ((s.updShop sh fun y => y.setSub i ⟨true, BitVec.ofNat 6 n, w, [], false⟩).dropCmd c.id)
  | .munsub i => some ((if !(x.sub i).on then s
      else s.putSub sh i (if (x.sub i).tiles = [] then Sub.off else { x.sub i with ending := true })).dropCmd c.id)
  | .mpub n cap d count stride =>
    let ds := (List.range count).map fun j => pubDesc d j stride
    if ds.all fun d => s.operandReady sh cap d then
      some { (s.markRows cap (ds.map fun d => (d.off, d.size))).markPerformed c.id with
        pubs := s.pubs ++ [⟨c.id, sh, dieOf x.core, c.band, n, cap, ds, ds.map fun d => s.tileNow sh cap d, none, []⟩] }
    else none
  | .mma t l cap d sparse =>
    if (x.tile t).state = .drain then none
    else if (x.tile t).state = .error then some (s.matrixError c)
    else match s.productA x sh cap d with
      | none => none
      | some a =>
        let b := x.slot l
        let s := if d.srcs then s else s.markSy cap d.off d.size
        match a with
        | some p =>
          if productOk p d.margin b (if sparse then some d.pat else none) then
            some ((s.updShop sh fun y => y.setTile t (product p d.margin b (if sparse then some (d.pat, d.seed) else none) (y.tile t))).dropCmd c.id)
          else some ((s.updShop sh fun y => y.tileError t).matrixError c)
        | none => some ((s.updShop sh fun y => y.tileError t).matrixError c)
  | .mepi t _ cap off pitch rows cols rnd sat words =>
    if (x.tile t).state = .drain then none
    else if (x.tile t).state = .error then some (s.matrixError c)
    else
      let bytes := x.epiBytes t cap off pitch rows cols rnd sat words
      if !s.epiReady sh cap bytes then none
      else if s.epiBad sh cap bytes || (x.tile t).soiled rows cols then
        some (((s.freeAt sh c.band cap (bytes.map Prod.fst)).updShop sh fun y => y.tileError t).matrixError c)
      else some (((s.writeBytes sh c.band cap bytes).updShop sh fun y => y.setTile t { y.tile t with state := .drain }).markPerformed c.id)
  | .mclr t => if (x.tile t).state = .drain then none else some ((s.updShop sh fun y => y.setTile t Tile.cleared).dropCmd c.id)
  | .mrel i =>
    if (x.sub i).on ∧ (x.sub i).tiles ≠ [] then some ((s.putSub sh i (x.sub i).release).dropCmd c.id)
    else some (s.matrixError c)
  | _ => none

/-- The next command of a team's matrix queue. -/
def State.matrixTurn (s : State) (team : Nat) : Option Cmd :=
  s.cmds.find? fun c => decide (c.team = some team) && c.queue = 4 && !c.performed && myTurn c.id s.cmds && !s.away c && match c.body with
    | .fence _ => false
    | _ => true

/-- MATRIX_PERFORM: the next matrix command of team `n` is performed. -/
def execMatrixPerform (n : Nat) (s : State) : Host.Outcome State Fault Refusal :=
  match s.matrixTurn n with
  | none => .fault .notEnabled
  | some c => match s.shop? c.shop with
    | none => .fault .notEnabled
    | some x => match s.performMatrix x c with
      | some s1 => .next s1
      | none => .fault .notEnabled

/-- The oldest MEPI of a team whose stores are not yet acknowledged. -/
def State.draining? (s : State) (n : Nat) : Option Cmd :=
  s.cmds.find? fun c => decide (c.team = some n) && c.performed && match c.body with
    | .mepi _ _ _ _ _ _ _ _ _ _ => true
    | _ => false

/-- The tile after an epilogue's last acknowledgement (R341, R343). -/
def Tile.drained (t : Tile) (keep : Bool) : Tile := if keep then { t with state := if t.empty then .clear else .opened } else Tile.cleared

/-- MEPI_COMPLETE: the last store of the oldest draining epilogue of team `n` is acknowledged, or with `ok` false a store has
failed: the tile is in ERROR and the bytes are unspecified (R345). No acknowledgement comes from a peer that no port reaches. -/
def execMepiComplete (n : Nat) (ok : Bool) (s : State) : Host.Outcome State Fault Refusal :=
  match s.draining? n with
  | none => .fault .notEnabled
  | some c => match c.body, s.shop? c.shop with
    | .mepi t keep cap off pitch rows cols rnd sat words, some x =>
      if ok && !(cap.kind = kSealed && !s.portsOpen) then .next ((s.updShop c.shop fun y => y.setTile t ((y.tile t).drained keep)).dropCmd c.id)
      else
        let bytes := x.epiBytes t cap off pitch rows cols rnd sat words
        .next (((s.freeAt c.shop c.band cap (bytes.map Prod.fst)).updShop c.shop fun y => y.tileError t).matrixError c)
    | _, _ => .fault .notEnabled

/-! ### The distributor (R338, R339) -/

/-- The subscriptions of a stream on a die, by shop × 8 + index. -/
def State.subscribers (s : State) (p : Pub) : List Nat :=
  s.shops.flatMap fun e =>
    if e.2.band = p.band ∧ dieOf e.2.core = p.die then
      ((List.range 8).filter fun i => s.subLive (8 * e.1 + i) && (e.2.sub i).stream.toNat = p.stream).map fun i => 8 * e.1 + i
    else []

/-- Whether a publication is the first of its stream. -/
def firstOfStream (cmd : Nat) : List Pub → Option Pub
  | [] => none
  | p :: ps => if p.cmd = cmd then some p
    else match firstOfStream cmd ps with
      | some q => if q.die = p.die ∧ q.band = p.band ∧ q.stream = p.stream then none else some q
      | none => none

/-- Whether a subscription takes one more tile now. -/
def State.subTakes (s : State) (k : Nat) : Bool :=
  match s.shop? (k / 8) with
  | some x => x.resident && decide ((x.sub (k % 8)).tiles.length < (x.sub (k % 8)).window)
  | none => true

/-- Bytes each of which is the one or the other, as the bits of `g` say. -/
def mixBytes (g : Nat) (old now : List Byte) : List Byte :=
  (List.range old.length).map fun i => if g / 2 ^ i % 2 = 1 then now.getD i 0 else old.getD i 0

/-- What one replay of a published tile carries (R171): after a write to its bytes since the MPUB it is unspecified which
value it carries, so each byte is the one at the MPUB or the present one (log entry 1). -/
def State.replay (s : State) (p : Pub) (t : Delivered) : Delivered :=
  match p.descs with
  | d :: _ =>
    let now := s.tileNow p.shop p.cap d
    let g := Config.freeChoice s.fresh
    if s.operandReady p.shop p.cap d ∧ now.data.length = t.data.length ∧ (s.shop? p.shop).any Shop.resident then
      { t with data := mixBytes (g / 2) t.data now.data, poison := if g % 2 = 1 then now.poison else t.poison }
    else t
  | [] => t

/-- Deliver the tile under delivery to subscriptions, each with a replay of its own. -/
def State.deliver (s : State) (p : Pub) (t : Delivered) : List Nat → State
  | [] => s
  | k :: ks => (({ s with fresh := s.fresh + 1 } : State).updShop (k / 8) fun x =>
      x.setSub (k % 8) { x.sub (k % 8) with tiles := (x.sub (k % 8)).tiles ++ [s.replay p t] }).deliver p t ks

/-- The publication of a command ends: the completion of a CPYB gather, if any (R319, R339). -/
def State.endPub (s : State) (id : Nat) : State :=
  let s1 := { s with pubs := s.pubs.filter fun p => p.cmd ≠ id }
  match s1.cmd? id with
  | some c => s1.endCmd c 0 none
  | none => s1

/-- Deliver the tile under delivery to the subscribers that have room; when it has reached all of them the next one can
follow, and with the last tile the publication ends. Delivery to a full subscriber waits, and later tiles with it (R339). -/
def State.deliverRound (s : State) (id : Nat) (p : Pub) : Host.Outcome State Fault Refusal :=
  let owed := p.owed.filter fun k => s.subLive k && (p.subs.getD []).contains k
  let takers := owed.filter s.subTakes
  let rest := owed.filter fun k => !s.subTakes k
  match p.formed with
  | [] => .fault .notEnabled
  | t :: ts =>
    if takers = [] ∧ owed ≠ [] then .fault .notEnabled
    else
      let s1 := s.deliver p t takers
      if rest = [] ∧ ts = [] then .next (s1.endPub id)
      else
        let q := if rest = [] then { p with formed := ts, descs := p.descs.drop 1, owed := [] } else { p with owed := rest }
        .next { s1 with pubs := s1.pubs.map fun r => if r.cmd = id then q else r }

/-- DISTRIBUTOR_DELIVERY: the first publication of its stream starts, if it has not, and delivers a tile to its subscribers;
without subscribers it completes at once. -/
def execDistributorDelivery (id : Nat) (s : State) : Host.Outcome State Fault Refusal :=
  match firstOfStream id s.pubs, s.cmd? id with
  | some p, some c =>
    let subs := (p.subs.getD (s.subscribers p)).filter s.subLive
    if !s.reportReady c then .fault .notEnabled
    else if subs = [] then .next (s.endPub id)
    else s.deliverRound id (if p.owed = [] then { p with subs := some subs, owed := subs } else p)
  | _, _ => .fault .notEnabled

end Sys2Proof.Machine
end

