-- ==== Sys2Proof/Machine/Wait.lean ====
section
/-!
DEFINITION. Fences and waits on counts, stamps, barriers and monitors (R270, R303 to R308), with the steps that end them.
-/

namespace Sys2Proof.Machine

/-! ### Fences (R304, R305) -/

/-- Whether a FENCE waits for an unacknowledged store: with P or H in its scope for remote stores and host-window writes (R166,
R304), and for a DEAD always, whose completion a later fence observes (R170). -/
def OutStore.heldBy (scope : BitVec 6) : OutStore → Bool
  | .store peer host _ => (scope.getLsbD 1 || scope.getLsbD 0) && (peer || host)
  | .dead _ _ _ => true

/-- FENCE: orders are those of one total order (log entry 4); it waits for the stores that it completes (R166, R170). -/
def execFence (m : BitVec 1) (scope : BitVec 6) : State → Host.Outcome State Fault Refusal :=
  wordStep (.fence m scope) fun x s =>
    let sc := if m = 1 then x.t.scope else scope
    match x.needScope s sc with
    | .error e => .error e
    | .ok () =>
      if x.t.outStores.any (OutStore.heldBy sc) then s.block x (.fence m scope) false
      else .ok (s.setTeam x.n x.awake, .next)

/-- Commands of a team in a queue set, fences excepted. -/
def State.inQueues (s : State) (n : Nat) (q : BitVec 6) : List Cmd :=
  s.cmds.filter fun c => decide (c.team = some n) && q.getLsbD c.queue && match c.body with
    | .fence _ => false
    | _ => true


/-- QFENCE. -/
def execQfence (q : BitVec 6) : State → Host.Outcome State Fault Refusal :=
  wordStep (.qfence q) fun x s =>
    if popcount6 q < 2 then .ok (s, .next)
    else
      let c : Cmd := ⟨s.nextId + 1, some x.n, shopOf x.n, 0, x.sh.band, .fence q, .none, 0, false, s.postPass - 1, []⟩
      .ok ({ s with nextId := s.nextId + 1, cmds := pruneFences [] (s.cmds ++ [c]) }, .next)
where
  /-- Number of queues named. -/
  popcount6 (q : BitVec 6) : Nat := ((List.range 6).filter fun j => q.getLsbD j).length

/-! ### WAITC (R306) -/

/-- Whether a count satisfies a field of WAITC. -/
def waitcHolds (field : BitVec 6) (n : Nat) : Bool := field = 63 || decide (n ≤ field.toNat)

/-- Whether WAITC waits for nothing more. A team's own loads have returned when it issues its next word. -/
def State.waitcDone (s : State) (n : Nat) (st cp tl : BitVec 6) : Bool :=
  waitcHolds st (((s.team? n).map fun t => t.outStores.length).getD 0) &&
    waitcHolds cp (s.inQueues n 0b101111).length && waitcHolds tl (s.inQueues n 0b010000).length

/-- WAITC. -/
def execWaitc (l st cp tl : BitVec 6) : State → Host.Outcome State Fault Refusal :=
  wordStep (.waitc l st cp tl) fun x s =>
    if s.waitcDone x.n st cp tl then .ok (s.setTeam x.n x.awake, .next)
    else s.block x (.waitc l st cp tl) false

/-! ### Monitors (R307, R308) -/

/-- MONARM: the checks of a load, then the monitor holds a copy of the capability and the offset. -/
def execMonarm (c : BitVec 5) (o : BitVec 6) : State → Host.Outcome State Fault Refusal :=
  wordStep (.monarm c o) fun x s =>
    match x.access s (.load [kData, kLocal]) (.c c) 0 (x.t.rdS o.toNat).toNat 8 8 .read with
    | .error e => .error e
    | .ok a => .ok (s.setTeam x.n { x.t with monitor := some (a.cap, x.t.rdS o.toNat) }, .next)

/-- The read of the monitored location, checked; the fault record names no register. -/
def Ctx.monitorAccess (x : Ctx) (s : State) (m : Cap × W64) : Except Trap Access :=
  match x.place s (.load [kData, kLocal]) m.1 0 1 0 m.2.toNat 8 1 with
  | .error e => .error e
  | .ok (p, addr) => .ok ⟨0, p, 8, .read, m.1, 1, 0, m.2.toNat, addr⟩

/-- An 8-byte value read now; none when host halves are missing. -/
def State.readNow (s : State) (a : Access) : Option (Except Trap (State × Nat)) :=
  if !s.accessReady a then none
  else match s.returnFault a with
    | some e => some (.error e)
    | none => let r := s.perform a; some (.ok (r.1, bytesNat r.2.data))

/-- MONWAIT: a location at a peer is read by MONITOR_POLL. -/
def execMonwait (d a : BitVec 6) (h : BitVec 4) : State → Host.Outcome State Fault Refusal :=
  wordStep (.monwait d a h) fun x s =>
    match x.t.monitor with
    | none => .ok (s.setTeam x.n (x.awake.wrS d.toNat 0), .next)
    | some m =>
      match x.needScope s x.t.scope with
      | .error e => .error e
      | .ok () =>
        match x.monitorAccess s m with
        | .error e => .error e
        | .ok acc =>
          -- an SO or SY read keeps its place behind the stores that R161 names
          if acc.isRemote || s.soWaits x.n (.monwait d a h) [acc] then s.block x (.monwait d a h) false
          else match s.readNow acc with
            | none => s.block x (.monwait d a h) false
            | some (.error e) => .error e
            | some (.ok (s1, v)) =>
              if BitVec.ofNat 64 v = x.t.rdS a.toNat then s1.block x (.monwait d a h) false
              else .ok (s1.setTeam x.n (x.awake.wrS d.toNat (BitVec.ofNat 64 v)), .next)

/-- Whether a shop's teams can issue. -/
def Shop.runs (x : Shop) : Bool := x.phase = .running

/-- A waiting MONWAIT reads its location again. -/
def State.rereadMonitor (s : State) (n : Nat) : Host.Outcome State Fault Refusal :=
  match s.ctx? n with
  | none => .fault .notEnabled
  | some x =>
    match x.t.wait with
    | .blocked (.monwait d a h) _ => if x.sh.runs then execMonwait d a h { s with cur := some n } else .fault .notEnabled
    | _ => .fault .notEnabled

/-- MONITOR_WAKE: a write to the line wakes the team. -/
def execMonitorWake (n : Nat) (s : State) : Host.Outcome State Fault Refusal := s.rereadMonitor n

/-- UNSPECIFIED_WAKE_UP (R307, R308): the team reads again, and returns, faults or waits again. -/
def execUnspecifiedWakeUp (n : Nat) (s : State) : Host.Outcome State Fault Refusal := s.rereadMonitor n

/-- A step that ends a wait of team `n` at the word `i` by an effect: as the end of the word's issue. -/
def State.endWait (s : State) (x : Ctx) (i : Instr) (f : Effect) : State :=
  match f with
  | .ok (s1, g) => s1.settle x.n x.sh.lanes i g
  | .error e => s.takeFault x.n e (BitVec.ofNat 32 (encodeNat i)) (literalOf i)

/-- The effect of an answer to the read of a stamp or monitor at a peer: its value, or the fault (R355). -/
def peerValue (a : Access) (ans : Answer) : Except Trap Nat :=
  if ans.timeout then .error ⟨.remoteAbsent, 0, 0, a.src, a.creg, false, a.off, a.addr, 0⟩
  else if ans.step ≠ 0 then .error ⟨FaultCode.ofCode ans.code, 0, ans.step.toNat, a.src, a.creg, true, a.off, a.addr, ans.pass⟩
  else if ans.poison.getD (a.addr % 128 / 16) false then .error ⟨.poison, 0, 0, 0, 0, false, a.off, a.addr, a.addr / 16 * 16⟩
  else .ok (bytesNat (answerRes ans a.addr 8).data)

/-- MONITOR_POLL: the answer to a read of a monitored location at a peer. -/
def execMonitorPoll (n : Nat) (ans : Answer) (s : State) : Host.Outcome State Fault Refusal :=
  match s.ctx? n with
  | none => .fault .notEnabled
  | some x =>
    match x.t.wait, x.t.monitor with
    | .blocked (.monwait d a h) _, some m =>
      if !x.sh.runs || !(ans.timeout || s.portsOpen) then .fault .notEnabled
      else
        let i : Instr := .monwait d a h
        match x.monitorAccess s m with
        | .error e => .next (s.endWait x i (.error e))
        | .ok acc =>
          if !acc.isRemote || s.soWaits n i [acc] then .fault .notEnabled
          else match peerValue acc ans with
            | .error e => .next (s.endWait x i (.error e))
            | .ok v =>
              if BitVec.ofNat 64 v = x.t.rdS a.toNat then .next s
              else .next (s.endWait x i (.ok (s.setTeam n (x.awake.wrS d.toNat (BitVec.ofNat 64 v)), .next)))
    | _, _ => .fault .notEnabled

/-! ### YIELDC (R270) -/

/-- Whether a stamp's value ends the wait: the awaited value, or an error stamp (R312). -/
def stampEnds (v want : Nat) : Bool := v = want || v / 2 ^ 8 % 2 ^ 56 = 2 ^ 56 - 1

/-- The stamp read of a parked team: unchecked, as it was checked at issue. -/
def Ctx.stampAccess (x : Ctx) (c : Cap) (off : Nat) : Access :=
  ⟨0, x.site c 0 off 8, 8, .read, c, 1, 0, off, x.siteAddr c 0 off 8⟩

/-- YIELDC. -/
def execYieldc (k : BitVec 1) (c : BitVec 5) (a b : BitVec 6) : State → Host.Outcome State Fault Refusal :=
  wordStep (.yieldc k c a b) fun x s =>
    let off := x.t.rdS a.toNat
    let cont := x.t.rdS b.toNat
    let want := x.t.rdS (a.toNat + 1)
    let cap := x.t.rdC c.toNat
    let armed : Team := { x.t with dlleft := x.sh.rearm ((x.t.rdS (b.toNat + 1)).toNat % 2 ^ 12) true }
    match x.needScope s x.t.scope with
    | .error e => .error e
    | .ok () =>
      if cont.toNat % 4 ≠ 0 then .error (.plain .align)
      else if k = 0 then
        match x.access s ⟨[kLocal], false, pLD, true, false⟩ (.c c) 0 off.toNat 16 16 .read with
        | .error e => .error e
        | .ok acc =>
          match s.returnFault acc with
          | some e => .error e
          | none =>
            let bar := x.sh.bar (localOf cap.addr + off.toNat)
            if bar.err then .ok (s.setTeam x.n armed, .goto cont)
            else .ok ((s.setTeam x.n { armed with wait := .yieldc (.yieldc k c a b) false cap off 0 bar.phase cont }).updShop (shopOf x.n)
              fun y => y.barBegin x.n (localOf cap.addr + off.toNat) bar.phase, .stay)
      else
        match x.access s (.load storeKinds) (.c c) 0 off.toNat 8 8 .read with
        | .error e => .error e
        | .ok acc =>
          let parked := { armed with wait := .yieldc (.yieldc k c a b) true cap off want false cont }
          if s.soWaits x.n (.yieldc k c a b) [acc] then .ok (s.setTeam x.n parked, .stay)
          else if acc.isRemote then
            let p := s.sendReqs x [acc]
            .ok (p.1.setTeam x.n parked, .stay)
          else match s.readNow acc with
            | none => .ok (s.setTeam x.n parked, .stay)
            | some (.error e) => .error e
            | some (.ok (s1, v)) =>
              if stampEnds v want.toNat then .ok (s1.setTeam x.n armed, .goto cont)
              else .ok (s1.setTeam x.n parked, .stay)

/-- The answered request of a parked team. -/
def State.answerOf (s : State) (n : Nat) : Option (Nat × Answer) :=
  (s.reqs.find? fun e => e.2.team = some n && e.2.answer.isSome).bind fun e => e.2.answer.map fun a => (e.1, a)

/-- What a parked YIELDC finds when it looks at its event now: none to wait on, else its end. A peer's stamp is asked for once the stores
that R161 names are acknowledged, again when it has not the value yet, and afresh after a restore (R132). -/
def State.yieldcLook (s : State) (x : Ctx) : Option Effect :=
  match x.t.wait with
  | .yieldc _ false _ _ _ _ cont =>
    if (x.sh.barEnded x.n).isSome then
      some (.ok ((s.setTeam x.n x.awake).updShop (shopOf x.n) fun y => y.barDone x.n, .goto cont))
    else none
  | .yieldc i true cap off want _ cont =>
    let acc := x.stampAccess cap off.toNat
    if s.soWaits x.n i [acc] then none
    else if acc.isRemote then
      match s.answerOf x.n with
      | none => if s.reqs.any fun e => e.2.team = some x.n then none else some (.ok ((s.sendReqs x [acc]).1, .stay))
      | some (seq, ans) =>
        let s1 := { s with reqs := Sparse.erase s.reqs seq }
        match peerValue acc ans with
        | .error e => some (.error e)
        | .ok v =>
          if stampEnds v want.toNat then some (.ok (s1.setTeam x.n x.awake, .goto cont))
          else some (.ok ((s1.sendReqs x [acc]).1, .stay))
    else match s.readNow acc with
      | none => none
      | some (.error e) => some (.error e)
      | some (.ok (s1, v)) => if stampEnds v want.toNat then some (.ok (s1.setTeam x.n x.awake, .goto cont)) else none
  | _ => none

/-- YIELDC_RESUME: the awaited event has occurred; the team goes on at its continuation. -/
def execYieldcResume (n : Nat) (s : State) : Host.Outcome State Fault Refusal :=
  match s.ctx? n with
  | none => .fault .notEnabled
  | some x =>
    if !x.sh.runs then .fault .notEnabled
    else match s.yieldcLook x, x.t.wait with
      | some f, .yieldc i _ _ _ _ _ _ => .next ((match f with
          | .error _ => { s with reqs := s.reqs.filter fun e => e.2.team ≠ some n }
          | .ok _ => s).endWait x i f)
      | _, _ => .fault .notEnabled

end Sys2Proof.Machine
end

