-- ==== Sys2Proof/Machine/Save.lean ====
section
/-!
DEFINITION. Context areas (R131, R132, R192 to R195, R340): a shop written into its area, and read back. The loop state, the
wait operands and the header's section offsets have no layout in the spec; the one here is the model's (log entry 9).
-/

namespace Sys2Proof.Machine

/-! ### Pre-emption points (R109, R110) -/

/-- The words whose wait is a pre-emption point (R109). -/
def yieldWaitWord : Instr → Bool
  | .barw _ _ _ => true
  | .bary _ _ _ => true
  | .qpush _ _ _ => true
  | .qpop _ _ _ => true
  | .monwait _ _ _ => true
  | .mwait _ _ _ => true
  | .waitc _ _ _ _ => true
  | .revoke _ _ _ => true
  | _ => false

/-- A team in a yield-wait (R110). -/
def Team.inYieldWait (t : Team) : Bool :=
  match t.wait with
  | .yieldc _ _ _ _ _ _ _ => true
  | .role _ => true
  | .blocked i _ => yieldWaitWord i
  | _ => false

/-- A team at a pre-emption point (R109), or ended; a switch of ROLE is one as well (R102, log entry 170). -/
def Team.atPoint (t : Team) : Bool := t.ended || t.inYieldWait || (t.wait = .none && t.yielded)

/-! ### Sizes and offsets (R192) -/

/-- PPW fields of a shop: SPAD and ACC units. -/
def Shop.spadUnits (x : Shop) : Nat := (ppwFields x.ppw.toNat).2.1
/-- ACC. -/
def Shop.accUnits (x : Shop) : Nat := (ppwFields x.ppw.toNat).2.2.1

/-- Offset of the accumulator section. -/
def State.ctxAcc (s : State) (shop : Nat) (x : Shop) : Nat := s.ctxSpad shop x + 16384 * x.spadUnits

/-- Offset of the matrix-state section. -/
def State.ctxMatrix (s : State) (shop : Nat) (x : Shop) : Nat := s.ctxAcc shop x + 16384 * x.accUnits

/-- Bytes of the context area of a shop. -/
def State.ctxSize (s : State) (shop : Nat) (x : Shop) : Nat := s.ctxMatrix shop x + (if x.onV then 0 else 403200)

/-- Offset of the record of team `n`: the records of the shop's lower teams come before. -/
def State.ctxTeam (s : State) (x : Shop) (n : Nat) : Nat :=
  256 + (((s.teamsOf (shopOf n)).filter fun m => decide (m < n)).map fun m => match s.team? m with
    | some t => teamRecSize t.allot x.lanes
    | none => 0).sum

/-! ### Loop state and waits -/

/-- The 32 bytes of a loop state. -/
def LoopState.bytes (l : LoopState) : List Byte :=
  let len (a b : W64) : Nat := (b - a).toNat / 4
  (match l.rep with
    | some r => natBytes 6 r.start.toNat ++ natBytes 1 (len r.start r.stop) ++ natBytes 8 r.left.toNat ++ natBytes 4 r.done.toNat
    | .none => List.replicate 19 0) ++
    (match l.lb with
    | some b => natBytes 6 b.start.toNat ++ natBytes 1 (len b.start b.stop) ++ natBytes 4 b.done.toNat
    | .none => List.replicate 11 0) ++ [0] ++
    [BitVec.ofNat 8 (l.rep.isSome.toNat + l.lb.isSome.toNat * 2 + (match l.lb with
      | some b => b.k.toNat
      | .none => 0) * 4)]

/-- A number of `n` bytes at an offset of a byte list. -/
def byteNum (bs : List Byte) (o n : Nat) : Nat := bytesNat ((bs.drop o).take n)

/-- A loop state from its 32 bytes. -/
def LoopState.ofBytes (bs : List Byte) : LoopState :=
  let w (o n : Nat) : W64 := BitVec.ofNat 64 (byteNum bs o n)
  let f := byteNum bs 31 1
  { rep := if f % 2 = 1 then some ⟨w 0 6, w 0 6 + 4 * w 6 1, w 7 8, w 15 4⟩ else .none
    lb := if f / 2 % 2 = 1 then some ⟨w 19 6, w 19 6 + 4 * w 25 1, BitVec.ofNat 3 (f / 4), w 26 4⟩ else .none }

/-- Wait kind: the opcode of the blocking word, or 0. -/
def Wait.kind : Wait → Nat
  | .yieldc i _ _ _ _ _ _ => encodeNat i / 2 ^ 24
  | .role n => encodeNat (.role n) / 2 ^ 24
  | .blocked i _ => encodeNat i / 2 ^ 24
  | _ => 0

/-- The word in which a team waits. -/
def Wait.word : Wait → Option Instr
  | .yieldc i _ _ _ _ _ _ => some i
  | .role n => some (.role n)
  | .blocked i _ => some i
  | _ => Option.none

/-- Wait operands and YIELDC continuation, 24 bytes; `off` is the barrier's offset for BARW and BARY. -/
def Wait.bytes (off : Nat) : Wait → List Byte
  | .yieldc _ stamp _ off val phase cont => natBytes 8 off.toNat ++ natBytes 8 (if stamp then val.toNat else phase.toNat) ++ natBytes 8 cont.toNat
  | .role n => natBytes 8 n.toNat ++ List.replicate 16 0
  | .blocked _ phase => natBytes 8 phase.toNat ++ natBytes 8 off ++ List.replicate 8 0
  | _ => List.replicate 24 0

/-- A wait from its kind, the word at PC, its operands and the c registers (R195). -/
def waitOf (kind : Nat) (word : Option Instr) (bs : List Byte) (c : Nat → Cap) : Wait :=
  let w (o : Nat) : W64 := BitVec.ofNat 64 (byteNum bs o 8)
  match word with
  | none => .none
  | some i =>
    if kind = 0 ∨ kind ≠ encodeNat i / 2 ^ 24 then .none
    else match i with
      | .yieldc k r a b =>
        .yieldc (.yieldc k r a b) (k = 1) (c r.toNat) (w 0) (if k = 1 then w 8 else 0) (k = 0 && w 8 = 1) (w 16)
      | .role n => .role n
      | j => if yieldWaitWord j then .blocked j (w 0 = 1) else .none

/-! ### Team records -/

/-- The 144 bytes of a mask register. -/
def maskBytes (m : Mask) : List Byte := natBytes 128 m.toNat ++ natBytes 4 (summary m).toNat ++ List.replicate 12 0

/-- The offset of the barrier at which a team waits, or 0. -/
def Shop.waitOff (x : Shop) (n : Nat) : Nat := ((x.barWait.find? fun w => w.team = n).map BarWait.off).getD 0

/-- A team record; `off` is the offset of the barrier at which the team waits. -/
def Team.record (t : Team) (lanes off : Nat) : List Byte :=
  natBytes 8 t.pc.toNat ++ natBytes 4 t.mode.toNat ++ natBytes 2 t.dlleft.toNat ++ natBytes 1 (t.pri.toNat + t.pricap.toNat * 16) ++
    natBytes 1 (t.roleix.toNat + t.inHandler.toNat * 8) ++ natBytes 1 t.crews.toNat ++ natBytes 1 t.wait.kind ++ natBytes 2 t.allot ++
    List.replicate 12 0 ++ t.loop.bytes ++ t.wait.bytes off ++
    (match t.monitor with
      | some m => natBytes 8 m.2.toNat ++ [1] ++ List.replicate 15 0 ++ natBytes 16 m.1.toNat
      | none => List.replicate 40 0) ++
    t.shadow.bytes ++ ((List.range 4).flatMap fun n => natBytes 8 (Sparse.get (0 : W64) t.bkpc n).toNat) ++ natBytes 8 t.bkctl.toNat ++
    List.replicate 56 0 ++ ((List.range 64).flatMap fun n => natBytes 8 (t.rdS n).toNat) ++
    ((List.range 32).flatMap fun n => natBytes 16 (t.rdC n).toNat) ++ ((List.range 8).flatMap fun n => maskBytes (t.rdK n)) ++
    ((List.range lanes).flatMap fun l => natBytes 4 (t.rdGen l).toNat) ++
    ((List.range (t.allot / 4)).flatMap fun q => (List.range lanes).flatMap fun l => natBytes 16 (t.rdQuad l q).toNat)

/-- Offsets of the tagged granules of a team record. -/
def Team.recordTags (t : Team) (lanes : Nat) : List Nat :=
  (match t.monitor with
    | some m => if m.1.tag then [112] else []
    | none => []) ++
    ((List.range 32).filter fun n => (t.rdC n).tag).map (fun n => 768 + 16 * n) ++
    (List.range (t.allot / 4)).flatMap fun q => ((List.range lanes).filter fun l => (t.rdQuad l q).tag).map fun l =>
      2432 + 4 * lanes + 16 * (q * lanes + l)

/-- Offsets of the poisoned granules of a team record (R61, R192, R405). -/
def Team.recordPoison (t : Team) (lanes : Nat) : List Nat :=
  ((List.range 32).filter fun n => t.capPoison n).map (fun n => 768 + 16 * n) ++ (List.range (t.allot / 4)).flatMap fun q => ((List.range lanes).filter fun l => t.quadPoison l q).map fun l =>
    2432 + 4 * lanes + 16 * (q * lanes + l)

/-- Write bytes to HBM, with tags and poison at offsets. -/
def State.writeTagged (s : State) (a : Nat) (bs : List Byte) (tags poison : List Nat) : State :=
  let s1 := s.writeHbm a bs
  { s1 with mem := { s1.mem with tags := setGranules true (tags.map fun o => (a + o) / 16) s1.mem.tags
                                 poison := setGranules true (poison.map fun o => (a + o) / 16) s1.mem.poison } }

/-- Write the records of teams. -/
def State.saveTeams (s : State) (base : Nat) (x : Shop) : List Nat → State
  | [] => s
  | n :: ns => match s.team? n with
    | some t => (s.writeTagged (base + s.ctxTeam x n) (t.record x.lanes (x.waitOff n)) (t.recordTags x.lanes)
      (t.recordPoison x.lanes)).saveTeams base x ns
    | none => s.saveTeams base x ns

/-- A capability that restore reads (R63, R194). -/
def State.restoredCap (s : State) (a : Nat) : Cap := s.moved (s.mem.readCap a)

/-- A team from its record at `a`; what the record does not hold stays as the gaffer kept it. -/
def State.restoreTeam (s : State) (x : Shop) (a : Nat) (t : Team) : Team :=
  let num (o n : Nat) : Nat := bytesNat (s.mem.read (a + o) n)
  let w (o : Nat) : W64 := BitVec.ofNat 64 (num o 8)
  let allot := num 18 2
  let pc := wordPc (w 0)
  let c (n : Nat) : Cap := s.restoredCap (a + 768 + 16 * n)
  let word := if t.wait.kind = num 17 1 ∧ t.pc = pc then t.wait.word else match decodeBytes (s.readAt (x.code.localAt pc.toNat) 8) with
    | .ok r => some r.1
    | .error _ => none
  let t0 : Team :=
    { t with v := [], vtag := [], vpoison := [], sreg := [], creg := [], cpoison := 0, kreg := [], gen := [], bkpc := []
             pc := pc, mode := BitVec.ofNat 32 (num 8 4), dlleft := BitVec.ofNat 16 (num 12 2), pri := BitVec.ofNat 4 (num 14 1)
             pricap := BitVec.ofNat 4 (num 14 1 / 16), roleix := BitVec.ofNat 3 (num 15 1), inHandler := num 15 1 / 8 % 2 = 1
             crews := BitVec.ofNat 8 (num 16 1), allot := allot, loop := LoopState.ofBytes (s.mem.read (a + 32) 32)
             shadow := LoopState.ofBytes (s.mem.read (a + 128) 32), bkctl := BitVec.ofNat 5 (num 192 8)
             wait := waitOf (num 17 1) word (s.mem.read (a + 64) 24) c
             monitor := if num 96 1 = 1 then some (s.restoredCap (a + 112), w 88) else none }
  let t1 := (List.range 64).foldl (fun (y : Team) n => y.wrS n (w (256 + 8 * n))) t0
  let t2 := (List.range 32).foldl (fun (y : Team) n => (y.wrC n (c n)).soilCap n (s.mem.poisoned (a + 768 + 16 * n) 16)) t1
  let t3 := (List.range 8).foldl (fun (y : Team) n => y.wrK x.lanes n (BitVec.ofNat 1024 (num (1280 + 144 * n) 128))) t2
  let t4 := (List.range 4).foldl (fun (y : Team) n => { y with bkpc := Sparse.set 0 y.bkpc n (w (160 + 8 * n)) }) t3
  let t5 := (List.range x.lanes).foldl (fun (y : Team) l => y.wrGen l (BitVec.ofNat 32 (num (2432 + 4 * l) 4))) t4
  (List.range (allot / 4)).foldl (fun (y : Team) q => (List.range x.lanes).foldl (fun (z : Team) l =>
    let g := a + 2432 + 4 * x.lanes + 16 * (q * x.lanes + l)
    (z.wrQuad l q (s.restoredCap g)).setQuadPoison l q (s.mem.poisoned g 16)) y) t5

/-! ### Accumulator tiles (R340) -/

/-- The 128 bits of a tile element in a saved image. -/
def Tile.elemBits (t : Tile) (key : Nat) : Nat :=
  let e := t.at key
  wrapInt 96 e.v + e.sticky.toNat * 2 ^ 96 + e.nan.toNat * 2 ^ 97 +
    (if key = 0 then wrapInt 16 t.lam * 2 ^ 108 + t.window.toNat * 2 ^ 124 + t.empty.toNat * 2 ^ 125 + t.state.code * 2 ^ 126 else 0)

/-- The bytes of a tile in a saved image; the contents of one in ERROR are unspecified (R345). -/
def State.tileBytes (s : State) (t : Tile) : List Byte × State :=
  let plain := (List.range 4096).flatMap fun k => natBytes 16 (t.elemBits k)
  if t.state = .error then
    let g := s.freeBytes 65536
    (g.1.take 15 ++ [BitVec.ofNat 8 (t.state.code * 64) ||| (g.1.getD 15 0 &&& 0x3F)] ++ g.1.drop 16, g.2)
  else (plain, s)

/-- Write the tiles from number `n` on, `k` of them. -/
def State.saveTiles (s : State) (a : Nat) (x : Shop) : Nat → Nat → State
  | 0, _ => s
  | k + 1, n =>
    let b := s.tileBytes (x.tile n)
    (b.2.writeTagged (a + 65536 * n) b.1 [] ((x.tile n).poison.map fun e => 16 * e.1)).saveTiles a x k (n + 1)

/-- The tile at `a` of a saved image. -/
def Mem.tile (m : Mem) (a : Nat) : Tile :=
  let word (k : Nat) : Nat := bytesNat (m.read (a + 16 * k) 16)
  let st : TileState := match word 0 / 2 ^ 126 % 4 with
    | 0 => .clear
    | 1 => .opened
    | 2 => .drain
    | _ => .error
  if st = .error then { Tile.cleared with state := .error }
  else
    { state := st, empty := word 0 / 2 ^ 125 % 2 = 1, lam := toSigned 16 (word 0 / 2 ^ 108), window := word 0 / 2 ^ 124 % 2 = 1
      elems := (List.range 4096).foldl (fun (es : Sparse AccElem) k =>
        Sparse.set AccElem.zero es k ⟨toSigned 96 (word k), word k / 2 ^ 96 % 2 = 1, word k / 2 ^ 97 % 2 = 1⟩) []
      poison := (List.range 4096).foldl (fun (ps : Sparse Bool) k => Sparse.set false ps k (m.poisoned (a + 16 * k) 16)) [] }

/-! ### Matrix state (R193) -/

/-- A slot image. -/
def Slot.image (z : Slot) : List Byte :=
  let wide := isWideFmt z.fmt
  let elem (n k : Nat) : SlotElem := Sparse.get ⟨false, 0⟩ z.elems (512 * n + k)
  natBytes 1 z.fmt.toNat ++ natBytes 1 z.geo.toNat ++ natBytes 2 z.k ++ natBytes 2 z.n ++
    natBytes 1 (z.loss.toNat + z.poisoned.toNat * 2 + wide.toNat * 4) ++ List.replicate 249 0 ++
    ((List.range 1024).flatMap fun j => natBytes 4 (wrapInt 16 (Sparse.get 0 z.exps j) + (Sparse.get false z.nans j).toNat * 2 ^ 16)) ++
    (if wide then (List.range 128).flatMap fun n => (List.range 256).flatMap fun k =>
        natBytes 4 ((elem n k).m + (elem n k).neg.toNat * 2 ^ 24)
      else (List.range 256).flatMap fun n => (List.range 256).flatMap fun k => natBytes 2 ((elem n k).m + (elem n k).neg.toNat * 2 ^ 12))

/-- The slot of an image at `a`. -/
def Mem.slot (m : Mem) (a : Nat) : Slot :=
  let num (o n : Nat) : Nat := bytesNat (m.read (a + o) n)
  let wide : Bool := num 6 1 / 4 % 2 = 1
  let k := num 2 2
  let n := num 4 2
  let elem (c r : Nat) : SlotElem :=
    if wide then
      let v := num (4352 + 4 * (256 * c + r)) 4
      ⟨v / 2 ^ 24 % 2 = 1, v % 2 ^ 24⟩
    else
      let v := num (4352 + 2 * (256 * c + r)) 2
      ⟨v / 2 ^ 12 % 2 = 1, v % 2 ^ 12⟩
  { fmt := BitVec.ofNat 6 (num 0 1), geo := BitVec.ofNat 2 (num 1 1), k := k, n := n, loss := num 6 1 % 2 = 1
    poisoned := num 6 1 / 2 % 2 = 1 || m.poisoned a 135424
    elems := (List.range (if wide then 128 else 256)).foldl (fun (es : Sparse SlotElem) c => (List.range 256).foldl (fun (fs : Sparse SlotElem) r =>
      if c < n ∧ r < k then Sparse.set ⟨false, 0⟩ fs (512 * c + r) (elem c r) else fs) es) []
    exps := (List.range 1024).foldl (fun (es : Sparse Int) j => Sparse.set 0 es j (toSigned 16 (num (256 + 4 * j) 4))) []
    nans := (List.range 1024).foldl (fun (es : Sparse Bool) j => Sparse.set false es j (num (256 + 4 * j) 4 / 2 ^ 16 % 2 = 1)) [] }

/-- Index in the tile store of the first tile of subscription `i`: tiles are stored in order of subscription. -/
def Shop.tileBase (x : Shop) (i : Nat) : Nat := ((List.range i).map fun j => (x.sub j).tiles.length).sum

/-- A subscription entry. -/
def Shop.subEntry (x : Shop) (i : Nat) : List Byte :=
  let u := x.sub i
  let k := u.tiles.length
  natBytes 1 u.on.toNat ++ natBytes 1 u.stream.toNat ++ natBytes 1 u.window ++ natBytes 1 k ++
    ((List.range 8).flatMap fun j => natBytes 1 (if j < k then x.tileBase i + j else 0xFF)) ++ List.replicate 20 0

/-- The last completed batch of a team: those before its oldest matrix command in progress, whatever an edited area said at an earlier restore
(log entry 199). -/
def State.lastBatch (s : State) (n : Nat) (t : Team) : Nat :=
  let fence : CmdBody → Bool
    | .fence _ => true
    | _ => false
  s.cmds.foldl (fun m c => if c.team = some n ∧ c.queue = 4 ∧ !fence c.body then min m (c.batch - 1) else m) t.mclosed.toNat

/-- A batch entry of a team whose last completed batch is `last`. -/
def Team.batchEntry (t : Team) (last : Nat) : List Byte :=
  natBytes 4 t.mclosed.toNat ++ natBytes 4 last ++ natBytes 4 t.merr.toNat ++ List.replicate 4 0

/-- A tile-store entry. -/
def Delivered.entry (d : Delivered) : List Byte :=
  natBytes 16 d.desc ++ List.replicate 48 0 ++ (d.data ++ List.replicate 16384 0).take 16384

/-- The matrix-state section. -/
def State.matrixBytes (s : State) (shop : Nat) (x : Shop) : List Byte :=
  let tiles := (List.range 8).flatMap fun i => (x.sub i).tiles
  natBytes 256 1 ++ (x.slot 0).image ++ (x.slot 1).image ++ ((List.range 8).flatMap x.subEntry) ++
    ((List.range 16).flatMap fun i => match s.team? (32 * shop + i) with
      | some t => t.batchEntry (s.lastBatch (32 * shop + i) t)
      | none => List.replicate 16 0) ++
    ((List.range 8).flatMap fun j => match tiles[j]? with
      | some d => d.entry
      | none => List.replicate 16448 0)

/-- Poison that a delivered tile carries, at its place in the tile store. -/
def Shop.tilePoison (x : Shop) (a : Nat) : List Nat :=
  (((List.range 8).flatMap fun i => (x.sub i).tiles).zipIdx.filter fun p => p.1.poison).flatMap fun p => granules (a + 271616 + 16448 * p.2 + 64) 16384

/-- The tile-store entry `j` of a section at `a`. -/
def Mem.tileEntry (m : Mem) (a j : Nat) : Delivered :=
  let o := a + 271616 + 16448 * j
  let desc := bytesNat (m.read o 16)
  { desc := desc, fmt := (Desc.ofNat desc).fmt, geo := (Desc.ofNat desc).geo, data := m.read (o + 64) 16384, poison := m.poisoned (o + 64) 16384 }

/-- Subscription `i` of a section at `a`; `ending` is what the gaffer kept. -/
def Mem.subAt (m : Mem) (a i : Nat) (ending : Bool) : Sub :=
  let num (o n : Nat) : Nat := bytesNat (m.read (a + 271104 + 32 * i + o) n)
  { on := num 0 1 = 1, stream := BitVec.ofNat 6 (num 1 1), window := num 2 1
    tiles := (List.range (min 8 (num 3 1))).map fun j => m.tileEntry a (num (4 + j) 1), ending := ending }

/-! ### Saving and restoring -/

/-- The header of a context area; its section offsets follow each other in the order of R192. -/
def State.ctxHeader (s : State) (shop : Nat) (x : Shop) (seq : Nat) : List Byte :=
  natBytes 4 x.inst ++ natBytes 4 x.node ++ natBytes 4 x.ppw.toNat ++ natBytes 1 x.nteams ++ natBytes 1 x.nkind.toNat ++
    natBytes 1 (x.lanes / 32 - 1) ++ natBytes 1 x.band.toNat ++ natBytes 8 seq ++ natBytes 8 256 ++ natBytes 8 (s.ctxSpad shop x) ++
    natBytes 8 (s.ctxAcc shop x) ++ natBytes 8 (if x.onV then 0 else s.ctxMatrix shop x) ++ List.replicate 200 0

/-- SEQ of the launch of a shop. -/
def State.seqOf (s : State) (x : Shop) : Nat := match x.launch.bind (Sparse.look s.launches) with
  | some l => l.seq
  | none => 0

/-- Copy whole granules between memories, with tags and poison. -/
def Mem.copyIn (d : Mem) (a : Nat) (m : Mem) (o n : Nat) : Mem :=
  let d1 := d.write a (m.read o n)
  let at_ (g : Nat) : Nat := a / 16 + (g - o / 16)
  { d1 with tags := setGranules true (((granules o n).filter fun g => Sparse.get false m.tags g).map at_) d1.tags
            poison := setGranules true (((granules o n).filter fun g => Sparse.get false m.poison g).map at_) d1.poison }

/-- Write a shop into a context area at `base`. -/
def State.saveShop (s : State) (shop base : Nat) (x : Shop) : State :=
  let s1 := s.writeHbm base (s.ctxHeader shop x (s.seqOf x))
  let s2 := s1.saveTeams base x (s.teamsOf shop)
  let a := base + s.ctxSpad shop x
  let n := 16384 * x.spadUnits
  let s3 := { s2 with mem := s2.mem.copyIn a x.spad 0 n, live := markLive a n s2.live }
  let s4 := s3.saveTiles (base + s.ctxAcc shop x) x (x.accUnits / 4) 0
  let m := base + s.ctxMatrix shop x
  let s5 := if x.onV then s4 else
    let y := s4.writeHbm m (s.matrixBytes shop x)
    { y with mem := { y.mem with poison := setGranules true (x.tilePoison m) y.mem.poison } }
  s5.setShop shop { x with phase := .saved, ctx := base, spad := .empty, tiles := [], slots := [] }

/-- Whether restore accepts an area (R194): header, MODE, BKCTL and allotment of each team. The section offsets of the header are neither
compared nor used (log entry 195). -/
def State.restoreOk (s : State) (shop : Nat) (x : Shop) : Bool :=
  let h (o n : Nat) : Nat := bytesNat (s.mem.read (x.ctx + o) n)
  h 0 4 = x.inst && h 4 4 = x.node && h 8 4 = x.ppw.toNat && h 12 1 = x.nteams && h 13 1 = x.nkind.toNat && h 14 1 = x.lanes / 32 - 1 &&
    h 15 1 = x.band.toNat && h 16 8 = s.seqOf x % 2 ^ 64 &&
    (s.savedRecords shop x).1.all fun p =>
      let a := p.2
      let num (o k : Nat) : Nat := bytesNat (s.mem.read (a + o) k)
      modeValid (BitVec.ofNat 32 (num 8 4)) && num 192 8 < 32 && (x.roles[num 15 1 % 8]?.map RoleEntry.allot) = some (num 18 2)

/-- The wait at a barrier that a restored wait stands for: what the gaffer kept of it, when the area names the same barrier and phase,
else a wait evaluated afresh (R132, R194, R195). -/
def Shop.restoredWait (x : Shop) (n off : Nat) (wait : Wait) : List BarWait :=
  let entry (o : Nat) (phase : Bool) : List BarWait :=
    match x.barWait.find? fun w => w.team = n with
    | some w => if w.off = o ∧ w.phase = phase then [w] else [⟨n, o, phase, none⟩]
    | none => [⟨n, o, phase, none⟩]
  match wait with
  | .blocked (.barw _ _ _) phase => entry off phase
  | .blocked (.bary _ _ _) phase => entry off phase
  | .yieldc _ false cap o _ phase _ => entry (localOf cap.addr + o.toNat) phase
  | _ => []

/-- Read a shop back from its area onto a core; the sections lie where the area's own allotments put them. -/
def State.restoreShop (s : State) (shop core : Nat) (x : Shop) : State :=
  let rec_ := s.savedRecords shop x
  let acc := rec_.2 + 16384 * x.spadUnits
  let m := acc + 16384 * x.accUnits
  let spad := Mem.empty.copyIn 0 s.mem rec_.2 (16384 * x.spadUnits)
  let spad1 := spad.mapCaps s.moved
  let x1 : Shop :=
    { x with core := core, phase := .running, spad := spad1
             tiles := (List.range (x.accUnits / 4)).foldl (fun (ts : Sparse Tile) t =>
               Sparse.set Tile.cleared ts t (s.mem.tile (acc + 65536 * t))) [] }
  let x2 : Shop := if x.onV then x1 else
    { x1 with slots := (List.range 2).foldl (fun (zs : Sparse Slot) l => Sparse.set Slot.empty zs l (s.mem.slot (m + 256 + 135424 * l))) []
              subs := (List.range 8).foldl (fun (us : Sparse Sub) i => Sparse.set Sub.off us i (s.mem.subAt m i (x.sub i).ending)) [] }
  let back : List (Nat × Nat × Team) := rec_.1.filterMap fun p => (s.team? p.1).map fun t =>
    let t1 := s.restoreTeam x p.2 t
    let b (o : Nat) : BitVec 32 := BitVec.ofNat 32 (bytesNat (s.mem.read (m + 271360 + 16 * teamIx p.1 + o) 4))
    (p.1, p.2, if x.onV then t1 else { t1 with mclosed := b 0, mdone := b 4, merr := b 8 })
  let waits := back.flatMap fun p => x.restoredWait p.1 (bytesNat (s.mem.read (p.2.1 + 72) 8)) p.2.2.wait
  ({ s with teams := back.foldl (fun (ts : Sparse Team) p => Sparse.insert ts p.1 p.2.2) s.teams } : State).setShop shop { x2 with barWait := waits }

end Sys2Proof.Machine
end

