-- ==== Sys2Proof/Machine/Gaffer.lean ====
section
/-!
DEFINITION. The gaffer (R123 to R133, R137 to R143): dispatch and staging, the start of teams, the completion of instances,
pre-emption, restore, drain and migration.
-/

namespace Sys2Proof.Machine

/-! ### The boot team's node (R401) -/

/-- PPW of the boot node: VREG 2, SPAD 64, L1F 4. -/
def bootPpw : W32 := BitVec.ofNat 32 (2 * 2 ^ 24 + 64 * 2 ^ 16 + 4 * 2 ^ 6)

/-- The boot team's node, of a graph held only in the gaffer. -/
def bootNode : Node :=
  { succ := [], preds := 0, inst := 1, opOff := 0, opn := 0, ppw := bootPpw, roles := [⟨256, 15, 15, 0⟩], handler := none, pclass := 7, nkind := 1
    span := 32, lanes := 32, teams := 1, deadline := 65520, dlscale := 0, dispatched := 1, finished := 0, failed := false }

/-- What stands for the boot team's launch where the gaffer needs windows and limits: those of the physical function, without a limit
on shops (log entry 173). -/
def State.bootLaunch (s : State) : Launch :=
  let f := s.func 0
  { fn := 0, queue := none, band := 0, seq := 0, stamp := .null, stampOff := 0, vector := none, arg := .null, graph := .null, graphOff := 0
    code := .null, rev2 := false, shopLimit := 288, quar := 32, deleg := 0, privWin := f.privWin, privLen := f.privLen, ctxWin := f.ctxWin
    ctxLen := f.ctxLen, nodes := [bootNode], failed := false, done := false }

/-- The launch of a shop, the boot launch for the boot shop. -/
def State.launchOrBoot (s : State) (x : Shop) : Option Launch := match x.launch with
  | some ln => Sparse.look s.launches ln
  | none => some s.bootLaunch

/-! ### What fits a core (R97, R125, R139) -/

/-- Whether a core is a V-core (R8). -/
def isVCore (core : Nat) : Bool := decide (192 ≤ core)

/-- Whether an NKIND with `teams` teams per shop accepts a kind of core (R125). -/
def kindAccepts (nkind : BitVec 2) (teams : Nat) (v : Bool) : Bool :=
  match nkind with
  | 0 => !v
  | 1 => v
  | _ => v || decide (teams ≤ 16)

/-- VREG, SPAD and ACC units of a PPW together. -/
def heldUnits (ppw : W32) : Nat :=
  let f := ppwFields ppw.toNat
  f.1 + f.2.1 + f.2.2.1

/-- L1F of a PPW. -/
def l1Floor (ppw : W32) : Nat := (ppwFields ppw.toNat).2.2.2.1

/-- The shops that hold places and units of a core. -/
def State.residentOn (s : State) (core : Nat) : List Shop :=
  ((s.shops.filter fun e => e.2.core = core && e.2.resident).map Prod.snd)

/-- Whether a core has room for a shop: team places, and pool units beside the largest L1 floor (R97, R139). -/
def State.coreHasRoom (s : State) (core teams : Nat) (ppw : W32) : Bool :=
  let xs := s.residentOn core
  decide ((xs.map Shop.nteams).sum + teams ≤ if isVCore core then 64 else 32) &&
    decide ((xs.map fun x => heldUnits x.ppw).sum + heldUnits ppw + (xs.map fun x => l1Floor x.ppw).foldl max (l1Floor ppw) ≤
      if isVCore core then 160 else 128)

/-- Resident shops of a function's launches. -/
def State.residentsOf (s : State) (fn : Nat) : Nat :=
  (s.shops.filter fun e => e.2.fn = fn && e.2.launch.isSome && e.2.resident).length

/-- Bytes of a team's private region (R143). -/
def privBytes (ppw : W32) (lanes : Nat) : Nat := 32 * (ppwFields ppw.toNat).2.2.2.2 * lanes

/-- Private regions that teams of a window's function hold: base and length. -/
def State.privRegions (s : State) : List (Nat × Nat) :=
  (s.teams.filter fun e => e.2.privLen ≠ 0).map fun e => (e.2.privBase, e.2.privLen)

/-- How many regions of `z` bytes a stretch [a, b) takes beside the regions of a list in ascending order. -/
def roomIn (z : Nat) : Nat → Nat → List (Nat × Nat) → Nat
  | a, b, [] => (b - a) / z
  | a, b, r :: rs => (min r.1 b - a) / z + roomIn z (max a (r.1 + r.2)) b rs

/-- Insert a region in ascending order. -/
def insertRegion (r : Nat × Nat) : List (Nat × Nat) → List (Nat × Nat)
  | [] => [r]
  | q :: qs => if r.1 ≤ q.1 then r :: q :: qs else q :: insertRegion r qs

/-- Whether the private window of a launch has room for `n` regions of `z` bytes (R143, R397). -/
def State.privRoom (s : State) (l : Launch) (n z : Nat) : Bool :=
  let a := localOf l.privWin.toNat
  z = 0 || decide (n ≤ roomIn z a (a + l.privLen.toNat) (s.privRegions.foldr insertRegion []))

/-- A free place of `z` bytes in [a, b) beside regions. -/
def freePlace (z a b : Nat) (taken : List (Nat × Nat)) : Option Nat :=
  (a :: taken.map fun r => r.1 + r.2).find? fun p =>
    decide (a ≤ p) && decide (p + z ≤ b) && taken.all fun r => decide (p + z ≤ r.1) || decide (r.1 + r.2 ≤ p)

/-- Places for `n` private regions. -/
def freePlaces (z a b : Nat) : Nat → List (Nat × Nat) → List Nat
  | 0, _ => []
  | n + 1, taken => match freePlace z a b taken with
    | some p => p :: freePlaces z a b n ((p, z) :: taken)
    | none => []

/-- The bytes that a context area of a shop never exceeds (R101, R192). -/
def ctxBound (ppw : W32) (lanes teams : Nat) (v : Bool) : Nat :=
  256 + teams * (2432 + 4 * lanes) + 16384 * heldUnits ppw + if v then 0 else 403200

/-- The context areas that shops other than `but` hold: each launched shop has one from its dispatch on, the boot team's once it is
pre-empted (log entry 173). -/
def State.ctxAreas (s : State) (but : Nat) : List (Nat × Nat) :=
  (s.shops.filter fun e => e.1 ≠ but && (e.2.launch.isSome || !e.2.resident || e.2.phase = .preempting)).map fun e =>
    (e.2.ctx, ctxBound e.2.ppw e.2.lanes e.2.nteams e.2.onV)

/-- A free place for a context area in the context window of a launch (R192, R397), the lowest (log entry 173). -/
def State.ctxPlace (s : State) (but : Nat) (l : Launch) (z : Nat) : Option Nat :=
  let a := localOf l.ctxWin.toNat
  freePlace z a (min (a + l.ctxLen.toNat) hbmTop) (s.ctxAreas but)

/-- The node of a ready entry, with its launch. -/
def State.entryNode (s : State) (r : Ready) : Option (Launch × Node) :=
  match r.launch with
  | none => some (s.bootLaunch, bootNode)
  | some ln => (Sparse.look s.launches ln).bind fun l => (l.nodes[r.node]?).map fun nd => (l, nd)

/-- Whether a ready entry's next instance fits a core (R125), with room for its private regions and its context area (R397); a saved
shop goes to a core of its kind (R132), another one than the core that it was drained from (R133). -/
def State.entryFits (s : State) (r : Ready) (core : Nat) : Bool :=
  match s.entryNode r with
  | none => false
  | some (l, nd) =>
    coreExists core && s.coreHasRoom core nd.teams nd.ppw && decide (s.residentsOf l.fn < l.shopLimit) &&
      match r.shop with
      | some n => (s.shop? n).any fun x => isVCore x.core = isVCore core && !(r.away && x.core = core)
      | none => kindAccepts nd.nkind nd.teams (isVCore core) && s.privRoom l nd.teams (privBytes nd.ppw nd.lanes) &&
        (s.ctxPlace s.nextShop l (ctxBound nd.ppw nd.lanes nd.teams (isVCore core))).isSome

/-- The cores of a die. -/
def dieCores (die : Nat) : List Nat := ((List.range 96).map fun j => 96 * die + j) ++ (List.range 48).map fun j => 192 + 48 * die + j

/-- The ready pool in the order in which a gaffer considers it: classes from 7 down, each in FIFO order. -/
def State.poolOrder (s : State) : List Ready := (List.range 8).flatMap fun k => s.ready.filter fun r => r.pclass = 7 - k

/-- The entries considered before one. -/
def entriesBefore (r : Ready) : List Ready → List Ready
  | [] => []
  | q :: qs => if q = r then [] else q :: entriesBefore r qs

/-- Whether a ready entry accepts a kind of core (R125): a saved shop only its own (R132). -/
def State.accepts (s : State) (p : Ready) (v : Bool) : Bool :=
  match p.shop, s.entryNode p with
  | some n, _ => (s.shop? n).any fun x => isVCore x.core = v
  | none, some (_, nd) => kindAccepts nd.nkind nd.teams v
  | none, none => false

/-- Whether a pressing entry keeps `r` from a core (R125): it precedes `r`, or `r` is not pressing and of no higher class. -/
def State.pressed (s : State) (r : Ready) (core : Nat) : Bool :=
  s.ready.any fun p => p.pressing && p ≠ r && decide (r.pclass ≤ p.pclass) && ((entriesBefore r s.poolOrder).contains p || !r.pressing) &&
    s.accepts p (isVCore core)

/-- Whether the gaffer of a core's die may dispatch an entry to the core now (R125). -/
def State.mayDispatch (s : State) (r : Ready) (core : Nat) : Bool :=
  s.entryFits r core && !s.pressed r core &&
    (entriesBefore r s.poolOrder).all fun q => (dieCores (dieOf core)).all fun c => !s.entryFits q c || s.pressed q c

/-! ### Operand entries (R123, R126) -/

/-- An operand entry checked for an instance: its memory capability, moves, stamp, direction. -/
structure OperandIn where
  /-- DIR = 1. -/
  result : Bool
  /-- The memory capability. -/
  cap : Cap
  /-- Moves. -/
  moves : List Move
  /-- Stamp offset, for a result. -/
  stamp : Option Nat
deriving DecidableEq, Repr

/-- The scratchpad capability of a shop (R142). -/
def State.spadCap (s : State) (band : BitVec 8) (ppw : W32) : Cap :=
  let f := (lenFields (16384 * (ppwFields ppw.toNat).2.1)).getD (0, 0)
  { kind := kLocal, band := band, perm := argPerm, fmt := 0, geo := 0, ord := 1, lexp := f.1, lman := f.2
    base := BitVec.ofNat 53 (s.devId.toNat * 2 ^ 39), aux := 0, tag := true }

/-- The private capability of a team (R143). -/
def State.privCap (s : State) (band : BitVec 8) (base len : Nat) : Cap :=
  let f := (lenFields len).getD (0, 0)
  { kind := kPrivate, band := band, perm := pLD ||| pST ||| pLDC ||| pSTC ||| pDERIVE, fmt := 0, geo := 0, ord := 0, lexp := f.1
    lman := f.2, base := BitVec.ofNat 53 (s.devId.toNat * 2 ^ 39 + base / 16), aux := 0, tag := true }

/-- The memory capability at ARGSLOT of the argument block: the checks of R65 for the read, TAG when it is untagged. -/
def State.argSlot (s : State) (band : BitVec 8) (arg : Cap) (slot : Nat) : Except Trap Cap :=
  match s.engineCheck band ⟨[kData], false, pLD, true, false⟩ arg 0 0 [(16 * slot, 16)] with
  | .error e => .error e
  | .ok () =>
    let row := (s.readRow 0 arg (16 * slot) 16 []).1
    let c := s.moved { row.capAt 0 with tag := (row.capAt 0).tag && arg.loadsTags }
    let addr := wrapAddr (arg.addr + 16 * slot)
    if row.poison.any id then .error ⟨.poison, 0, 0, 0, 0, false, 16 * slot, addr, addr⟩
    else if !c.tag then .error ⟨.tag, 0, 1, 0, 0, false, 16 * slot, addr, 0⟩
    else .ok c

/-- The check of one operand entry for instance `inst` (R126 step 1). -/
def State.operandEntry (s : State) (l : Launch) (nd : Node) (inst x : Nat) : Except Trap OperandIn :=
  let spoff := recBits x 416 32
  let rowb := recBits x 384 32
  let rows := recBits x 368 16
  let planes := recBits x 352 16
  let stoff := recBits x 176 64
  if recBits x 240 6 ≠ 0 ∨ recBits x 0 128 ≠ 0 ∨ rowb = 0 ∨ rows = 0 ∨ planes = 0 ∨ spoff % 16 ≠ 0 ∨ stoff % 8 ≠ 0 then .error engineBad
  else match s.argSlot l.band l.arg (recBits x 248 8) with
    | .error e => .error e
    | .ok mem =>
      let off := recBits x 448 64 + inst * recBits x 128 48
      let result : Bool := recBits x 247 1 = 1
      let spad := s.spadCap l.band nd.ppw
      let stamp := if result ∧ recBits x 246 1 = 1 then some (stoff + 8 * inst) else none
      let ms := if result then planeMoves spoff off rowb planes rows (rows * rowb) rowb (recBits x 256 48) (recBits x 304 48)
        else planeMoves off spoff rowb planes rows (recBits x 256 48) (recBits x 304 48) (rows * rowb) rowb
      match (if result then s.copyCheck l.band spad mem (0, 0) (0, 0) ms else s.copyCheck l.band mem spad (0, 0) (0, 0) ms) with
      | .error e => .error e
      | .ok () =>
        let ok : OperandIn := ⟨result, mem, ms, stamp⟩
        match stamp with
        | none => .ok ok
        | some o => (s.engineCheck l.band (.store copyKinds) mem 0 0 [(o, 8)]).map fun _ => ok

/-- The checks of the operand entries from number `k` on. Poison in an entry itself has no stated outcome, and its bytes are taken as
clean (log entry 135). -/
def State.operandEntries (s : State) (l : Launch) (nd : Node) (inst : Nat) : Nat → Nat → Except Trap (List OperandIn)
  | 0, _ => .ok []
  | n + 1, k => match s.operandEntry l nd inst (s.gread l.graph (l.graphOff + nd.opOff + 64 * k) 64) with
    | .error e => .error e
    | .ok o => (s.operandEntries l nd inst n (k + 1)).map fun os => o :: os

/-- Whether the host-window halves that step 1 reads are held (R155). -/
def State.operandsReady (s : State) (l : Launch) (nd : Node) : Bool :=
  s.rowReady 0 l.graph (l.graphOff + nd.opOff) (64 * nd.opn) false && (List.range nd.opn).all fun k =>
    s.rowReady 0 l.arg (16 * recBits (s.gread l.graph (l.graphOff + nd.opOff + 64 * k) 64) 248 8) 16 false

/-- Reading the operand entries of a node and their argument slots through SY capabilities puts the lines in update mode (R149). -/
def State.markOperands (s : State) (l : Launch) (nd : Node) : State :=
  (s.markSy l.graph (l.graphOff + nd.opOff) (64 * nd.opn)).markRows l.arg (((List.range nd.opn).map fun k =>
    (16 * recBits (s.gread l.graph (l.graphOff + nd.opOff + 64 * k) 64) 248 8, 16)).filter fun r => decide (r.1 + r.2 ≤ l.arg.len))

/-- Issue an operand entry to the copy engines: a command without a team. -/
def State.issueOperand (s : State) (shop : Nat) (band : BitVec 8) (src dst : Cap) (ms : List Move) (done : Completion) : State :=
  { s with nextId := s.nextId + 1
           cmds := s.cmds ++ [⟨s.nextId + 1, none, shop, 0, band, .copy src dst ms true, done, 0, false, s.postPass - 1, []⟩] }

/-! ### Dispatch (R126, R132) -/

/-- The bytes that lie in the code image of a capability, as memory holds them. -/
def State.codeCells (s : State) (c : Cap) : List Host.Cell :=
  s.mem.bytes.filter fun b => decide (c.localAt 0 ≤ b.1) && decide (b.1 < c.localAt 0 + c.len)

/-- The image that a new shop of a node executes: as it stood when the node became resident, that is when its first shop now resident
was placed (R199, log entry 16). -/
def State.nodeImage (s : State) (launch : Option Nat) (node : Nat) (c : Cap) : List Host.Cell :=
  match s.shops.find? fun e => e.2.launch = launch && e.2.node = node && e.2.resident with
  | some e => e.2.image
  | none => s.codeCells c

/-- The shop of a new instance, with its context area. -/
def State.newShop (s : State) (ln node inst core : Nat) (l : Launch) (nd : Node) (results : List (Cap × List Move × Option Nat)) : Shop :=
  { launch := some ln, node := node, inst := inst, core := core, band := l.band, fn := l.fn, lanes := nd.lanes, span := nd.span
    nteams := nd.teams, ppw := nd.ppw, nkind := nd.nkind, roles := nd.roles, handler := nd.handler, deadline := nd.deadline
    dlscale := nd.dlscale, pclass := nd.pclass, code := l.code, image := s.nodeImage (some ln) node l.code, arg := l.arg, rev2 := l.rev2, phase := .staging, spad := .empty, crewBars := [], barWait := []
    parked := [], tiles := [], slots := [], subs := [], qwait := []
    ctx := (s.ctxPlace s.nextShop l (ctxBound nd.ppw nd.lanes nd.teams (isVCore core))).getD 0, results := results }

/-- A team before its start: registers zero (R95). -/
def Team.blank : Team :=
  { v := [], vtag := [], vpoison := [], sreg := [], creg := [], cpoison := 0, kreg := [], mode := 0, pc := 0, dlleft := 0, pri := 0, pricap := 0, roleix := 0, allot := 8
    crews := 0, inHandler := false, loop := .none, shadow := .none, bkpc := [], bkctl := 0, noBreak := false, yielded := false, gen := []
    monitor := none, wait := .none, outStores := [], mclosed := 0, mdone := 0, merr := 0, mbad := false, aging := 0, aged := false, privBase := 0
    privLen := 0, ended := false }

/-- Private regions given to the teams of a shop, which have not started yet. -/
def State.givePrivate (s : State) (shop z : Nat) : Nat → List Nat → State
  | _, [] => s
  | k, p :: ps => (s.setTeam (32 * shop + k) { Team.blank with privBase := p, privLen := z, ended := false }).givePrivate shop z (k + 1) ps

/-- Whether a list of bases is a placement of private regions in the window of a launch (R143, R397). -/
def State.privPlaced (s : State) (l : Launch) (z : Nat) : List Nat → List (Nat × Nat) → Bool
  | [], _ => true
  | p :: ps, taken =>
    let a := localOf l.privWin.toNat
    decide (p % 128 = 0) && decide (a ≤ p) && decide (p + z ≤ a + l.privLen.toNat) && decide (p + z ≤ hbmTop) &&
      taken.all (fun r => decide (p + z ≤ r.1) || decide (r.1 + r.2 ≤ p)) && s.privPlaced l z ps ((p, z) :: taken)

/-- The ready pool after one instance of an entry has been dispatched: the entry stays, no longer pressing, until the last
one (R124). -/
def State.takeReady (s : State) (r : Ready) (left : Bool) : State :=
  { s with ready := if left then s.ready.map (fun q => if q = r then { q with pressing := false } else q) else s.ready.erase r }

/-- What the error record says of an operand entry whose check fails (R126, R408). -/
def Trap.operandEnd (e : Trap) (roles : List RoleEntry) : NodeEnd :=
  { cause := 5, code := e.code.code.toNat, fpc := ((roles[0]?).map fun q => q.entry.toNat).getD 0, word := 0, lane := e.lane
    faddr := wrapAddr e.addr, faux := e.aux, user := 0, team := 0 }

/-- Dispatch a new instance. -/
def State.dispatchNew (s : State) (r : Ready) (ln core : Nat) (priv : List Nat) (l : Launch) (nd : Node) : State :=
  let inst := nd.dispatched
  let n := s.nextShop
  let z := privBytes nd.ppw nd.lanes
  let l1 : Launch := { l with nodes := updNth (fun m => { m with dispatched := inst + 1 }) l.nodes r.node }
  let s1 := ({ s.markOperands l nd with nextShop := n + 1, launches := Sparse.insert s.launches ln l1 } : State).takeReady r (decide (inst + 1 < nd.inst))
  match s.operandEntries l nd inst nd.opn 0 with
  | .error e =>
    ((s1.setShop n (s.newShop ln r.node inst core l nd [])).givePrivate n z 0 priv).failNode n (e.operandEnd nd.roles)
  | .ok os =>
    let results := (os.filter OperandIn.result).map fun o => (o.cap, o.moves, o.stamp)
    let s2 := (s1.setShop n (s.newShop ln r.node inst core l nd results)).givePrivate n z 0 priv
    (os.filter fun o => !o.result).foldl (fun (a : State) o => a.issueOperand n l.band o.cap (s.spadCap l.band nd.ppw) o.moves .none) s2

/-- Restore a saved shop, or fail its node with CAUSE 6 (R132, R194); that record names team 0 and the core that the shop was saved from
(log entry 196). -/
def State.dispatchSaved (s : State) (r : Ready) (core shop : Nat) : State :=
  match s.shop? shop with
  | none => s
  | some x =>
    let s1 := s.takeReady r false
    if s.restoreOk shop x then s1.restoreShop shop core x
    else s1.failNode shop { cause := 6, code := 0, fpc := 0, word := 0, lane := 0, faddr := 0, faux := 0, user := 0, team := 0 }

/-- The entry of a node that a gaffer reaches first: its instances still to be dispatched, or a saved shop. -/
def State.firstEntry (s : State) (ln : Option Nat) (node core : Nat) : Option Ready :=
  s.poolOrder.find? fun r => r.launch = ln && r.node = node && s.entryFits r core

/-- DISPATCH: a gaffer places the node's next instance on a core; `priv` gives the bases of its teams' private regions. No launch stands
for the boot team's node. -/
def execDispatch (ln : Option Nat) (node core : Nat) (priv : List Nat) (s : State) : Host.Outcome State Fault Refusal :=
  match s.firstEntry ln node core with
  | none => .fault .notEnabled
  | some r =>
    if !s.mayDispatch r core then .fault .notEnabled
    else match r.shop, s.entryNode r, ln with
      | some n, _, _ => .next (s.dispatchSaved r core n)
      | none, some (l, nd), some k =>
        if priv.length = nd.teams ∧ s.privPlaced l (privBytes nd.ppw nd.lanes) priv s.privRegions ∧ s.operandsReady l nd then
          .next (s.dispatchNew r k core priv l nd)
        else .fault .notEnabled
      | _, _, _ => .fault .notEnabled

/-- PRESSING (R125): an entry that fits nowhere has been passed over for longer than the starvation limit. -/
def execPressing (ln : Option Nat) (node : Nat) (s : State) : Host.Outcome State Fault Refusal :=
  match s.poolOrder.find? fun r => r.launch = ln && r.node = node && !r.pressing with
  | none => .fault .notEnabled
  | some r =>
    if (List.range 288).any (s.entryFits r) then .fault .notEnabled
    else .next { s with ready := s.ready.map fun q => if q = r then { q with pressing := true } else q }

/-! ### The start of teams (R95, R126) -/

/-- Commands that the gaffer has issued for a shop. -/
def State.gafferCmds (s : State) (shop : Nat) : List Cmd :=
  s.cmds.filter fun c => c.team.isNone && c.shop = shop && match c.body with
    | .ownerGo _ _ _ _ _ _ => false
    | _ => true

/-- A team at its start, in role 0 (R95, R104, R106). -/
def startTeam (s : State) (x : Shop) (ix base len : Nat) : Team :=
  let r : RoleEntry := (x.roles[0]?).getD ⟨8, 0, 0, 0⟩
  let t : Team := { Team.blank with
    pc := r.entry.setWidth 64, dlleft := x.deadline, pri := r.pri, pricap := r.ceil, allot := r.allot, crews := 1, privBase := base
    privLen := len }
  let t1 := ((((t.wrK x.lanes 0 (laneMask x.lanes)).wrC 1 (s.privCap x.band base len)).wrC 2 (s.spadCap x.band x.ppw)).wrC 3 x.arg)
  (List.range x.lanes).foldl (fun (y : Team) l => y.wrGen l (genInit x.inst ix l)) t1

/-- Start the teams of a shop; their private regions read zero and untagged (R143). -/
def State.startTeams (s : State) (shop : Nat) (x : Shop) : List Nat → State
  | [] => s
  | k :: ks =>
    let n := 32 * shop + k
    let t := (s.team? n).getD Team.blank
    let s1 := s.setTeam n (startTeam s x k t.privBase t.privLen)
    (if t.privLen = 0 then s1 else s1.declareDead t.privBase t.privLen).startTeams shop x ks

/-- TEAM_START: every input byte has arrived, and the teams of a staging shop start. -/
def execTeamStart (shop : Nat) (s : State) : Host.Outcome State Fault Refusal :=
  match s.shop? shop with
  | none => .fault .notEnabled
  | some x =>
    if x.phase = .staging ∧ s.gafferCmds shop = [] then
      .next (({ s with shops := Sparse.insert s.shops shop { x with phase := .running } } : State).startTeams shop x (List.range x.nteams))
    else .fault .notEnabled

/-! ### Completion (R127, R128, R141, R143) -/

/-- Whether everything that the teams of a shop issued has completed. -/
def State.shopQuiet (s : State) (shop : Nat) : Bool :=
  !(s.cmds.any fun c => c.shop = shop && match c.body with
      | .ownerGo _ _ _ _ _ _ => false
      | _ => true) &&
    (s.teamsOf shop).all (fun n => match s.team? n with
      | some t => t.outStores = [] && match t.wait with
        | .access _ _ => false
        | .planRead _ _ _ => false
        | .mcas _ _ _ _ => false
        | _ => true
      | none => true) &&
    s.reqs.all fun e => match e.2.team with
      | some n => shopOf n ≠ shop || e.2.answer.isSome
      | none => true

/-- Drain orders end with the last shop of their core. -/
def State.endDrains (s : State) : State := { s with draining := s.draining.filter s.occupied }

/-- Release a shop: its private regions are declared dead, and its pool is free (R141, R143). -/
def State.releaseShop (s : State) (shop : Nat) : State :=
  let ns := s.teamsOf shop
  let s1 := ns.foldl (fun (a : State) n => match a.team? n with
    | some t => if t.privLen = 0 then a else a.declareDead t.privBase t.privLen
    | none => a) s
  ({ s1 with teams := s1.teams.filter fun e => shopOf e.1 ≠ shop, shops := Sparse.erase s1.shops shop
             reqs := s1.reqs.filter fun e => match e.2.team with
               | some n => shopOf n ≠ shop
               | none => true } : State).endDrains

/-- An instance has completed: its pool is released; the node, its successors and the launch follow. -/
def State.finishInstance (s : State) (shop : Nat) (x : Shop) : State :=
  let s1 := s.releaseShop shop
  match x.launch with
  | none => s1
  | some ln => match Sparse.look s1.launches ln with
    | none => s1
    | some l =>
      let nodes := updNth (fun m => { m with finished := m.finished + 1 }) l.nodes x.node
      let s2 := { s1 with launches := Sparse.insert s1.launches ln { l with nodes := nodes } }
      let s3 := match nodes[x.node]? with
        | some nd => if nd.finished = nd.inst then s2.nodeComplete ln x.node else s2
        | none => s2
      s3.endLaunch ln

/-- The capabilities of a shop's result entries, checked again when the entries are used (R123, log entry 201): a lehr pass or the
writing of DEVID can have changed them since dispatch. -/
def State.resultsCheck (s : State) (x : Shop) : List (Cap × List Move × Option Nat) → Except Trap Unit
  | [] => .ok ()
  | r :: rs => both (s.engineCheck x.band (.store copyKinds) r.1 0 0 (r.2.1.map fun m => (m.dst, m.len))) (s.resultsCheck x rs)

/-- Issue the result entries of a shop (R127 step 3). -/
def State.issueResults (s : State) (shop : Nat) (x : Shop) : State :=
  let s1 := s.updShop shop fun y => { y with phase := .results, subs := [] }
  x.results.foldl (fun (a : State) r => a.issueOperand shop x.band (s.spadCap x.band x.ppw) r.1 r.2.1 (match r.2.2 with
    | some o => .stamp r.1 o (s.seqOf x)
    | none => .none)) s1

/-- Whether the launch of a shop could write its completion stamp now. -/
def State.launchStampReady (s : State) (x : Shop) : Bool := match x.launch with
  | some ln => s.stampReady ln
  | none => true

/-- INSTANCE_COMPLETE: a shop whose teams have ended and whose operations have completed issues its result entries, or is
released; a failed one is released once it has drained. -/
def execInstanceComplete (shop : Nat) (s : State) : Host.Outcome State Fault Refusal :=
  match s.shop? shop with
  | none => .fault .notEnabled
  | some x =>
    let allOver : Bool := (s.teamsOf shop).all fun n => ((s.team? n).map Team.ended).getD true
    if !s.shopQuiet shop || !s.launchStampReady x then .fault .notEnabled
    else match x.phase with
      | .running =>
        if !allOver then .fault .notEnabled
        else if x.results = [] then .next (s.finishInstance shop x)
        else match s.resultsCheck x x.results with
          | .error e => .next (s.failNode shop (e.operandEnd x.roles))
          | .ok _ => .next (s.issueResults shop x)
      | .results => .next (s.finishInstance shop x)
      | .failed => .next (match x.launch with
        | some ln => (s.releaseShop shop).endLaunch ln
        | none => s.releaseShop shop)
      | .discarded => .next (match x.launch with
        | some ln => (s.releaseShop shop).endLaunch ln
        | none => s.releaseShop shop)
      | _ => .fault .notEnabled

/-! ### Pre-emption (R114, R131) -/

/-- The teams of a shop that have not ended. -/
def State.liveTeams (s : State) (shop : Nat) : List Team :=
  (s.teamsOf shop).filterMap fun n => match s.team? n with
    | some t => if t.ended then none else some t
    | none => none

/-- Whether another core of its kind has room for a resident shop. -/
def State.movesTo (s : State) (x : Shop) (core : Nat) : Bool :=
  coreExists core && core ≠ x.core && isVCore core = isVCore x.core && s.coreHasRoom core x.nteams x.ppw

/-- The context area that a shop to be pre-empted has, or for the boot team's shop the one that it can get (log entry 173). -/
def State.areaFor (s : State) (shop : Nat) (x : Shop) : Option Nat :=
  match x.launch with
  | some _ => some x.ctx
  | none => s.ctxPlace shop s.bootLaunch (ctxBound x.ppw x.lanes x.nteams x.onV)

/-- STARVATION_PREEMPT: the gaffer decides to pre-empt a shop: all its teams have been in a yield-wait for longer than the
starvation limit while others are ready (R114); or its core drains and no other core has room (R133). -/
def execStarvationPreempt (shop : Nat) (s : State) : Host.Outcome State Fault Refusal :=
  match s.shop? shop with
  | none => .fault .notEnabled
  | some x =>
    let ts := s.liveTeams shop
    let starved : Bool := s.ready ≠ [] && ts.all Team.inYieldWait
    let drained : Bool := s.draining.contains x.core && ts.all Team.atPoint && !(List.range 288).any (s.movesTo x)
    match s.areaFor shop x with
    | some a =>
      if x.phase = .running ∧ ts ≠ [] ∧ (starved ∨ drained) then .next (s.updShop shop fun y => { y with phase := .preempting, ctx := a })
      else .fault .notEnabled
    | none => .fault .notEnabled

/-- Whether a command cannot go on while the teams of its shop are stopped: it waits for a streamed tile, or it has published and its
deliveries wait for room; `c` is the command, or one that it keeps waiting (R131, R339, log entry 174). -/
def State.stalled (s : State) (x : Shop) (c : Cmd) : Bool :=
  s.cmds.any fun d => (d.id = c.id || (d.id < c.id && d.holds c)) && match d.body with
    | .mma _ _ _ e _ => e.srcs && (x.sub e.stream).on && (x.sub e.stream).tiles = []
    | .mpub _ _ _ _ _ => d.performed
    | .publishRows _ _ _ _ _ _ _ => d.performed
    | _ => false

/-- Whether an operation into a shop's pool is outstanding (R131 step 1): its own, a CPYM aimed at it, a delivery. One that nothing but a
team of the shop could let go on is kept with the saved shop and goes on after its restore (log entry 174). -/
def State.poolBusy (s : State) (shop : Nat) (x : Shop) : Bool :=
  (s.cmds.any fun c => (c.shop = shop && c.usesPool && !s.stalled x c) || match c.body with
    | .multi _ _ _ _ _ cores => cores.contains x.core && match s.shop? c.shop with
      | some y => y.launch = x.launch && y.node = x.node
      | none => false
    | _ => false) ||
    s.pubs.any fun p => p.owed.any fun k => k / 8 = shop && s.subTakes k

/-- Whether a base is a free place in the context window of a shop's launch (R192, R397): its own area, or another beside the areas of
other shops. -/
def State.ctxFree (s : State) (shop : Nat) (x : Shop) (base : Nat) : Bool :=
  match s.launchOrBoot x with
  | none => false
  | some l =>
    let a := localOf l.ctxWin.toNat
    let n := ctxBound x.ppw x.lanes x.nteams x.onV
    base = x.ctx || (decide (base % 16 = 0) && decide (a ≤ base) && decide (base + n ≤ a + l.ctxLen.toNat) && decide (base + n ≤ hbmTop) &&
      (s.ctxAreas shop).all fun r => decide (base + n ≤ r.1) || decide (r.1 + r.2 ≤ base))

/-- PREEMPT_SAVE: a shop being pre-empted is written to the context area at `base`, its core is released, and its instance
goes to the tail of its class (R131). -/
def execPreemptSave (shop base : Nat) (s : State) : Host.Outcome State Fault Refusal :=
  match s.shop? shop with
  | none => .fault .notEnabled
  | some x =>
    if x.phase = .preempting ∧ !s.poolBusy shop x ∧ s.ctxFree shop x base then
      let s1 := s.saveShop shop base x
      .next ({ s1 with
        reqs := s1.reqs.filter fun e => match e.2.team with
          | some n => shopOf n ≠ shop
          | none => true
        ready := s1.ready ++ [⟨x.launch, x.node, x.pclass, some shop, false, s.draining.contains x.core⟩] } : State).endDrains
    else .fault .notEnabled

/-! ### Drain and migration (R133) -/

/-- DRAIN: band-0 software writes a core index to the DRAIN register. -/
def execDrain (core : BitVec 16) (s : State) : Host.Outcome State Fault Refusal := .next (s.orderDrain core)

/-- Operations aimed at a shop's pool, by command number. -/
def State.poolOps (s : State) (shop : Nat) (x : Shop) : List Nat :=
  (s.cmds.filter fun c => (c.shop = shop && c.usesPool) || match c.body with
    | .multi _ _ _ _ _ cores => cores.contains x.core && match s.shop? c.shop with
      | some y => y.launch = x.launch && y.node = x.node
      | none => false
    | _ => false).map Cmd.id

/-- SHOP_MIGRATE: a shop of a draining core, all its teams at pre-emption points, moves to another core; a forwarding entry
stays behind for the operations still aimed at the old pool. -/
def execShopMigrate (shop core : Nat) (s : State) : Host.Outcome State Fault Refusal :=
  match s.shop? shop with
  | none => .fault .notEnabled
  | some x =>
    let die := dieOf x.core
    let ops := s.poolOps shop x
    if x.phase = .running ∧ s.draining.contains x.core ∧ (s.liveTeams shop).all Team.atPoint ∧ s.movesTo x core ∧
        (s.forwards.filter fun f => f.die = die).length < 64 then
      let s1 := s.updShop shop fun y => { y with core := core }
      .next ({ s1 with forwards := if ops = [] then s1.forwards else s1.forwards ++ [⟨die, x.core, shop, ops⟩] } : State).endDrains
    else .fault .notEnabled

end Sys2Proof.Machine
end

