-- ==== Sys2Proof/Machine/Shake.lean ====
section
/-!
DEFINITION. SHAKE256, the hash that the spec names for images and measurements (R385, R401, R404): the sponge over
Keccak-f[1600] of FIPS 202, which the spec cites by name only.
-/

namespace Sys2Proof.Machine

/-- One round constant bit of Keccak: the low bit of x^t mod x^8 + x^6 + x^5 + x^4 + 1 after `t` steps of its register. -/
def keccakLfsr : Nat → Nat
  | 0 => 1
  | t + 1 =>
    let r := keccakLfsr t * 2
    if r / 256 % 2 = 1 then (r ^^^ 0x171) % 256 else r

/-- The constant of round `i`. -/
def keccakRc (i : Nat) : W64 :=
  (List.range 7).foldl (fun a j => if keccakLfsr (7 * i + j) % 2 = 1 then a ||| 1#64 <<< (2 ^ j - 1) else a) 0

/-- The 24 round constants, in order. -/
def keccakRcs : List W64 := (List.range 24).map keccakRc

/-- Rotation offsets of the lanes x + 5 y. -/
def keccakRot : List Nat :=
  [0, 1, 62, 28, 27, 36, 44, 6, 55, 20, 3, 10, 43, 25, 39, 41, 45, 15, 21, 8, 18, 2, 61, 56, 14]

/-- A lane of the state. -/
def keccakLane (a : List W64) (x y : Nat) : W64 := a.getD (x % 5 + 5 * (y % 5)) 0

/-- The state of a function of (x, y). -/
def lanesFrom (f : Nat → Nat → W64) : List W64 := (List.range 25).map fun k => f (k % 5) (k / 5)

/-- One round. -/
def keccakRound (a : List W64) (rc : W64) : List W64 :=
  let c := (List.range 5).map fun x => keccakLane a x 0 ^^^ keccakLane a x 1 ^^^ keccakLane a x 2 ^^^ keccakLane a x 3 ^^^ keccakLane a x 4
  let d := (List.range 5).map fun x => c.getD ((x + 4) % 5) 0 ^^^ (c.getD ((x + 1) % 5) 0).rotateLeft 1
  let th := lanesFrom fun x y => keccakLane a x y ^^^ d.getD x 0
  let rp := lanesFrom fun x y => let u := (x + 3 * y) % 5; (keccakLane th u x).rotateLeft (keccakRot.getD (u + 5 * x) 0)
  let ch := lanesFrom fun x y => keccakLane rp x y ^^^ (~~~keccakLane rp (x + 1) y &&& keccakLane rp (x + 2) y)
  match ch with
  | z :: zs => (z ^^^ rc) :: zs
  | [] => []

/-- Keccak-f[1600]. -/
def keccakF (a : List W64) : List W64 := keccakRcs.foldl keccakRound a

/-- Eight bytes as a lane, low end first. -/
def laneOf (bs : List Byte) : W64 := BitVec.ofNat 64 (bs.foldr (fun b n => b.toNat + 256 * n) 0)

/-- Absorb blocks of 136 bytes. -/
def absorb : Nat → List W64 → List Byte → List W64
  | 0, a, _ => a
  | n + 1, a, bs =>
    absorb n (keccakF (lanesFrom fun x y => keccakLane a x y ^^^ (if x + 5 * y < 17 then laneOf ((bs.drop (8 * (x + 5 * y))).take 8) else 0)))
      (bs.drop 136)

/-- The message padded to whole blocks: 0x1F, zeros, and the last bit set. -/
def shakePad (bs : List Byte) : List Byte :=
  let z := 135 - bs.length % 136
  if z = 0 then bs ++ [0x9F] else bs ++ [0x1F] ++ List.replicate (z - 1) 0 ++ [0x80]

/-- SHAKE256 with `n` bytes of output, at most 136. -/
def shake256 (n : Nat) (bs : List Byte) : List Byte :=
  let a := absorb (bs.length / 136 + 1) (List.replicate 25 0) (shakePad bs)
  ((a.take 17).flatMap fun w => (List.range 8).map fun j => BitVec.ofNat 8 (w.toNat / 2 ^ (8 * j))).take n

end Sys2Proof.Machine
end

