-- ==== Sys2Proof/Machine/System.lean ====
section
/-!
DEFINITION. Reset and bring-up (R401), attestation (R404), soft errors and retired channels (R153, R405), throttling (R13,
R406).
-/

namespace Sys2Proof.Machine

/-! ### Bring-up (R401) -/

/-- POWER_ON_RESET: steps 1 to 3 of R401. Module flash keeps its image; what has left the device, the events still to come
and the place of the free values are the model's own and go on. -/
def execPowerOnReset (s : State) : Host.Outcome State Fault Refusal :=
  .next { State.reset with flash := s.flash, flashSig := s.flashSig, out := s.out, agenda := s.agenda, fresh := s.fresh }

/-- The reset root. -/
def resetRoot : Cap :=
  { kind := kData, band := 0, perm := 0xFFE, fmt := 0, geo := 0, ord := 2, lexp := 30, lman := 512, base := 0, aux := 0, tag := true }

/-- The boot team's shop, over an image of `len` bytes whose cells are `image`. -/
def bootShop (len : Nat) (image : List Host.Cell) : Shop :=
  { launch := none, node := 0, inst := 0, core := 192, band := 0, fn := 0, lanes := bootNode.lanes, span := bootNode.span, nteams := bootNode.teams
    ppw := bootPpw, nkind := bootNode.nkind, roles := bootNode.roles, handler := none, deadline := bootNode.deadline, dlscale := 0
    pclass := bootNode.pclass, code := codeCap 0 0 0 len, image := image, arg := resetRoot, rev2 := false
    phase := .running, spad := .empty, crewBars := [], barWait := [], parked := [], tiles := [], slots := [], subs := [], qwait := []
    ctx := 0, results := [] }

/-- Step 5: the boot team starts; its c1 is null. -/
def State.startBoot (s : State) (len : Nat) : State :=
  let n := s.nextShop
  let x := bootShop len (s.codeCells (codeCap 0 0 0 len))
  (({ s with nextShop := n + 1, boot := .started, imageLen := len } : State).setShop n x).setTeam (32 * n) ((startTeam s x 0 0 0).wrC 1 .null)

/-- BOOT_VERIFY: steps 4 and 5. -/
def execBootVerify (s : State) : Host.Outcome State Fault Refusal :=
  if s.boot ≠ .loading then .fault .notEnabled
  else
    let s1 := s.writeHbm 0 s.flash
    if Config.bootSignatureValid s.flash s.flashSig then .next (s1.startBoot s.flash.length)
    else .next { s1 with boot := .failed 1 }

/-! ### Reliability (R153, R405) -/

/-- CORRECTED_ERROR: CECNT counts, saturating. -/
def execCorrectedError (s : State) : Host.Outcome State Fault Refusal :=
  .next { s with cecnt := if s.cecnt = 0xFFFFFFFF then s.cecnt else s.cecnt + 1 }

/-- Poison a line of HBM; a dead block reads zero and unpoisoned whatever befalls it (R151). -/
def State.poisonLine (s : State) (line : Nat) : State :=
  if Sparse.get false s.live (line / 32) then { s with mem := s.mem.poisonRange (128 * line) 128 } else s

/-- Poison one granule of HBM, held in L1 or L2 or whose tag bit is bad (R405). -/
def State.poisonGranule (s : State) (g : Nat) : State :=
  if Sparse.get false s.live (g / 256) then { s with mem := s.mem.poisonRange (16 * g) 16 } else s

/-- Poison `n` granules from number `g` on of the data that L1 or L2 holds (R405): of HBM, or of held halves of the host window (R154).
None where no such data is held. -/
def State.poisonCached (s : State) (g n : Nat) : Option State :=
  match s.region (16 * g) with
  | .hbm => some ((List.range n).foldl (fun (a : State) j => a.poisonGranule (g + j)) s)
  | .host o =>
    let held := ((List.range n).map fun j => o / 16 + j).filter fun h => s.halvesReady (16 * h) 16 false
    if held = [] then none else some (s.soilHost held)
  | _ => none

/-- A line of HBM. -/
def isHbmLine (line : Nat) : Bool := decide (128 * line + 128 ≤ hbmTop)

/-- Whether a group of channels has its parity: neither rebuilding nor unprotected. -/
def State.groupProtected (s : State) (stack group : Nat) : Bool :=
  !s.rebuilding.contains (2 * stack + group) && !s.hbmunp.getLsbD (2 * stack + group)

/-- Retire a channel: its group starts rebuilding without parity. -/
def State.retireChannel (s : State) (stack channel : Nat) : State :=
  { s with retired := s.retired ++ [32 * stack + channel], rebuilding := s.rebuilding ++ [2 * stack + channel / 16] }

/-- Whether a channel can be retired now. -/
def State.mayRetire (s : State) (stack channel : Nat) : Bool :=
  decide (stack < 8) && decide (channel < 32) && !s.retired.contains (32 * stack + channel) && s.groupProtected stack (channel / 16)

/-- UNCORRECTABLE_ERROR: poison as R405 says, and vector 0 of the physical function. A directory entry alone costs only
invalidations. Where the group of a channel has no parity left to retire it with, the lines affected are poisoned (R153). -/
def execUncorrectableError (p : ErrPlace) (s : State) : Host.Outcome State Fault Refusal :=
  let report (s : State) : Host.Outcome State Fault Refusal := .next (s.interrupt 0 0)
  match p with
  | .hbmLine l => if isHbmLine l then report (s.poisonLine l) else .fault .notEnabled
  | .directoryAndData l => match s.poisonCached (8 * l) 8 with
    | some s1 => report s1
    | none => .fault .notEnabled
  | .directory _ => report s
  | .spadGranule shop g =>
    match s.shop? shop with
    | some x =>
      if 16 * g + 16 ≤ 16384 * x.spadUnits then report (s.setShop shop { x with spad := x.spad.poisonRange (16 * g) 16 })
      else .fault .notEnabled
    | none => .fault .notEnabled
  | .registerGranule n lane quad =>
    match s.ctx? n with
    | some x =>
      if lane < x.sh.lanes ∧ 4 * quad + 3 < x.t.allot then report (s.updTeam n fun t => t.setQuadPoison lane quad true) else .fault .notEnabled
    | none => .fault .notEnabled
  | .tileGranule shop tile key =>
    match s.shop? shop with
    | some x =>
      let t := x.tile tile
      if tile < x.tileCount ∧ key < 4096 then
        report (s.setShop shop (x.setTile tile { t with poison := Sparse.set false t.poison key true }))
      else .fault .notEnabled
    | none => .fault .notEnabled
  | .capRegister n reg =>
    if 0 < reg ∧ reg < 32 ∧ (s.team? n).isSome then report (s.updTeam n fun t => t.soilCap reg true) else .fault .notEnabled
  | .cachedGranule g => match s.poisonCached g 1 with
    | some s1 => report s1
    | none => .fault .notEnabled
  | .remapBoth stack channel lines =>
    if s.mayRetire stack channel then report (s.retireChannel stack channel)
    else if stack < 8 ∧ channel < 32 ∧ lines.all isHbmLine then
      report (lines.foldl State.poisonLine s)
    else .fault .notEnabled

/-- CHANNEL_RETIRE (R153). -/
def execChannelRetire (stack channel : Nat) (s : State) : Host.Outcome State Fault Refusal :=
  if s.mayRetire stack channel then .next (s.retireChannel stack channel) else .fault .notEnabled

/-- CHANNEL_REBUILD_COMPLETE (R153): the group is recorded as unprotected. -/
def execChannelRebuildComplete (stack group : Nat) (s : State) : Host.Outcome State Fault Refusal :=
  if s.rebuilding.contains (2 * stack + group) then
    .next { s with rebuilding := s.rebuilding.filter fun g => g ≠ 2 * stack + group
                   hbmunp := s.hbmunp ||| BitVec.ofNat 16 (2 ^ (2 * stack + group)) }
  else .fault .notEnabled

/-- POWER_THROTTLE (R13, R406): slots of a core are withheld; only time passes, and CYC counts it. -/
def execPowerThrottle (core : Nat) (s : State) : Host.Outcome State Fault Refusal :=
  if coreExists core then .next s else .fault .notEnabled

/-! ### Attestation (R404) -/

/-- A function exists. -/
def isFn (fn : Nat) : Bool := decide (fn < 64)

/-- Answer an SPDM request. -/
def spdmAnswer (fn request : Nat) (parts : List (List Byte)) (s : State) : Host.Outcome State Fault Refusal :=
  if isFn fn then .next { s with out := .spdm fn request parts :: s.out } else .fault .notEnabled

/-- The bytes of a name. -/
def nameBytes (s : String) : List Byte := s.toList.map fun c => BitVec.ofNat 8 c.toNat

/-- GET_VERSION: 1.4. -/
def execGetVersion (fn : Nat) : State → Host.Outcome State Fault Refusal := spdmAnswer fn 0 [[1, 4]]
/-- GET_CAPABILITIES: the requests supported, by their places in the list of R404, and no key exchange or session. -/
def execGetCapabilities (fn : Nat) : State → Host.Outcome State Fault Refusal := spdmAnswer fn 1 [[0, 1, 2, 3, 4, 5, 6], [0, 0]]
/-- NEGOTIATE_ALGORITHMS: the signature algorithm, the hash and its output in bytes. -/
def execNegotiateAlgorithms (fn : Nat) : State → Host.Outcome State Fault Refusal :=
  spdmAnswer fn 2 [nameBytes "ML-DSA-65", nameBytes "SHAKE256", [64]]
/-- GET_DIGESTS: the digest of the certificate chain. -/
def execGetDigests (fn : Nat) : State → Host.Outcome State Fault Refusal := spdmAnswer fn 3 [shake256 64 Config.certChain]
/-- GET_CERTIFICATE. -/
def execGetCertificate (fn : Nat) : State → Host.Outcome State Fault Refusal := spdmAnswer fn 4 [Config.certChain]
/-- CHALLENGE: a signature of the identity key. -/
def execChallenge (fn : Nat) (nonce : BitVec 256) : State → Host.Outcome State Fault Refusal :=
  spdmAnswer fn 5 [Config.identitySign (natBytes 32 nonce.toNat)]

/-- What measurement `index` measures for a function: the bytes of the firmware image, or registers (R404). -/
def State.measured (s : State) (fn index : Nat) : Option (List Byte) :=
  match index with
  | 1 => some s.flash
  | 2 => some (Config.measureBytes 2 ((List.range 64).map fun f => (s.func f).band.toNat))
  | 3 => some (Config.measureBytes 3 ((List.range 12).map fun j => (((s.func fn).limitReg (8 * j)).getD 0).toNat))
  | 4 => some (Config.measureBytes 4 ((List.range 64).flatMap fun f => [(s.func f).policy.toNat, (s.func f).deleg.toNat]))
  | _ => none

/-- GET_MEASUREMENTS: the digest of a measurement, taken now, and its signature; an index that R404 does not list has none. -/
def execGetMeasurements (fn index : Nat) (s : State) : Host.Outcome State Fault Refusal :=
  let digest := ((s.measured fn index).map (shake256 64)).toList
  spdmAnswer fn 6 (digest ++ digest.map Config.identitySign) s

end Sys2Proof.Machine
end

