-- ==== Sys2Proof/Machine/Host.lean ====
section
/-!
DEFINITION. The host's side: halves of host-window lines (R155), the BAR2 aperture (R156, R400), the registers of BAR0
(R399) and the writes to MMIO registers that are steps of their own (R395, R397, R402).
-/

namespace Sys2Proof.Machine

/-! ### Host-window halves (R155) -/

/-- Let every waiting team go on whose accesses can all be performed now. -/
def State.resumeAll (s : State) : List Nat → State
  | [] => s
  | n :: ns => ((s.resume n).getD s).resumeAll ns

/-- The address in host physical memory of a half: its offset in its GiB of the window, at the address of its HWIN entry (R154, R395). -/
def State.hostAddr (s : State) (half : Nat) : Nat :=
  (keepBits (Sparse.get 0 s.hwin (64 * half / 2 ^ 30)) 63 30).toNat + 64 * half % 2 ^ 30

/-- A half is written back to the host. -/
def State.writeBack (s : State) (half : Nat) (h : Half) : State := { s with out := .writeback half (s.hostAddr half) h.data h.poison :: s.out }

/-- A half leaves: a dirty one is written back, and it enters I. -/
def State.dropHalf (s : State) (half : Nat) : State :=
  match Sparse.look s.halves half with
  | some h => { (if h.dirty then s.writeBack half h else s) with halves := Sparse.erase s.halves half }
  | none => s

/-- HOST_SNOOP_INVALIDATE. -/
def execHostSnoopInvalidate (half : Nat) (s : State) : Host.Outcome State Fault Refusal := .next (s.dropHalf half)

/-- HOST_SNOOP_SHARE: a half in M is written back and enters S. -/
def execHostSnoopShare (half : Nat) (s : State) : Host.Outcome State Fault Refusal :=
  match Sparse.look s.halves half with
  | some h =>
    if h.state = .owned then
      .next { s.writeBack half h with halves := Sparse.insert s.halves half { h with state := .shared, dirty := false } }
    else .next s
  | none => .next s

/-- HOST_LINE_FILL: a half arrives from its host address, shared or owned; a half already held keeps its bytes when its ownership arrives. The
accesses that waited for it are performed, error records before them (R188). -/
def execHostLineFill (half : Nat) (owned : Bool) (data : List Byte) (s : State) : Host.Outcome State Fault Refusal :=
  let st : HalfState := if owned then .owned else .shared
  if s.region (hostBase + 64 * half) ≠ .host (64 * half) ∨ data.length ≠ 64 then .fault .notEnabled
  else match Sparse.look s.halves half with
    | some h =>
      if h.state = .shared ∧ owned then
        let s1 := ({ s with halves := Sparse.insert s.halves half { h with state := .owned } } : State).flushRecords
        .next (s1.resumeAll (s1.teams.map Prod.fst))
      else .fault .notEnabled
    | none =>
      let s1 := ({ s with halves := Sparse.insert s.halves half ⟨st, data, false, 0⟩ } : State).flushRecords
      .next (s1.resumeAll (s1.teams.map Prod.fst))

/-- L2_EVICT, of a line by its local line number: a line of HBM leaves update mode (R149), both halves of a host-window
line enter I. -/
def execL2Evict (line : Nat) (s : State) : Host.Outcome State Fault Refusal :=
  match s.region (128 * line) with
  | .hbm => .next { s with updMode := Sparse.set false s.updMode line false }
  | .host off => .next ((s.dropHalf (off / 64)).dropHalf (off / 64 + 1))
  | _ => .fault .notEnabled

/-! ### BAR2 (R156, R400) -/

/-- The root that APER names, and the offset in it of a BAR2 offset. -/
def State.aperture (s : State) (fn : Nat) (off : BitVec 32) : Cap × Nat :=
  let a := (s.func fn).aper.toNat
  (s.root fn (a / 2 ^ 32), a % 2 ^ 32 * 2 ^ 32 + off.toNat)

/-- Raise a bit of FSTAT. -/
def State.raiseFstat (s : State) (fn : Nat) (bits : BitVec 2) : State := s.updFunc fn fun f => { f with fstat := f.fstat ||| bits }

/-- The steps of the host that follow its earlier writes in order. -/
def hostOrdered : Todo → Bool
  | .hostRest _ _ _ => true
  | .event (.hostBar2Write _ _ _) => true
  | .event (.hostBar2Read _ _ _) => true
  | .event (.registerWrite _ _) => true
  | .event (.qtailWrite _ _ _) => true
  | .event (.qctlEnable _ _) => true
  | .event (.qctlReset _ _) => true
  | .event (.instcmdGo _ _ _) => true
  | .event (.instcmdClear _ _) => true
  | _ => false

/-- Put an entry into the agenda, at a free place before the host's next step (log entry 178). -/
def State.later (s : State) (t : Todo) : State :=
  let k := Config.freeChoice s.fresh % (s.agenda.findIdx hostOrdered + 1)
  { s with fresh := s.fresh + 1, agenda := s.agenda.take k ++ t :: s.agenda.drop k }

/-- HOST_BAR2_WRITE: the bytes in its first aligned half are written as one; the rest is a write of its own that follows, so that a
longer or straddling write is performed half by half in ascending address order (R156). Outside the root or without ST the whole is
discarded and APERREF rises. -/
def execHostBar2Write (fn : Nat) (off : BitVec 32) (data : List Byte) (s : State) : Host.Outcome State Fault Refusal :=
  let p := s.aperture fn off
  if !isFn fn ∨ data = [] ∨ 2 ^ 32 < off.toNat + data.length then .fault .notEnabled
  else if !s.rangeOk (s.func fn).band pST true p.1 p.2 data.length || touchesMmio (p.1.localAt p.2) data.length then .next (s.raiseFstat fn 0b01)
  else
    let n := 64 - p.1.localAt p.2 % 64
    if !s.rowReady 0 p.1 p.2 (min n data.length) true then .fault .notEnabled
    else
      let s1 := s.writeAt (p.1.localAt p.2) (data.take n)
      .next (if data.length ≤ n then s1 else s1.later (.hostRest fn (off + BitVec.ofNat 32 n) (data.drop n)))

/-- HOST_BAR2_READ: the bytes, or all ones with APERREF outside the root or without LD, or with POISONRD on poison. -/
def execHostBar2Read (fn : Nat) (off : BitVec 32) (n : Nat) (s : State) : Host.Outcome State Fault Refusal :=
  let p := s.aperture fn off
  let a := p.1.localAt p.2
  let ones (s : State) : Host.Outcome State Fault Refusal := .next { s with out := .bar2 fn off.toNat (List.replicate n 0xFF) :: s.out }
  if !isFn fn ∨ n = 0 ∨ 2 ^ 32 < off.toNat + n then .fault .notEnabled
  else if !s.rangeOk (s.func fn).band pLD false p.1 p.2 n || touchesMmio a n then ones (s.raiseFstat fn 0b01)
  else if s.touchesReserved a n || (s.poisonAt a n).isSome then ones (s.raiseFstat fn 0b10)
  else if !s.rowReady 0 p.1 p.2 n false then .fault .notEnabled
  else .next { s with out := .bar2 fn off.toNat (s.readAt a n) :: s.out }

/-! ### BAR0 (R399) -/

/-- A power of two from 1 to 32,768. -/
def qsizeOk (n : Nat) : Bool := (List.range 16).any fun k => n = 2 ^ k

/-- ENABLE written to 1: from 0, only when the queue's registers, its ring and its record pass their checks. -/
def State.enableQueue (s : State) (fn q : Nat) : State :=
  let f := s.func fn
  let qu := f.queue q
  let root := s.root fn 0
  if qu.enable then s
  else if qsizeOk qu.size.toNat && qu.ring.toNat % 64 = 0 && qu.err.toNat % 64 = 0 &&
      s.rangeOk f.band pLD false root qu.ring.toNat (64 * qu.size.toNat) && s.rangeOk f.band pST true root qu.err.toNat 64 then
    s.updFunc fn fun g => g.setQueue q { qu with enable := true }
  else s

/-- RESET written to 1: QTAIL := QHEAD, and STOPPED clears. -/
def State.resetQueue (s : State) (fn q : Nat) : State :=
  s.updFunc fn fun f => f.setQueue q { f.queue q with tail := (f.queue q).head, stopped := false, posted := [] }

/-- QCTL_ENABLE. -/
def execQctlEnable (fn q : Nat) (s : State) : Host.Outcome State Fault Refusal :=
  if isFn fn ∧ q < 16 then .next (s.enableQueue fn q) else .fault .notEnabled

/-- QCTL_RESET. -/
def execQctlReset (fn q : Nat) (s : State) : Host.Outcome State Fault Refusal :=
  if isFn fn ∧ q < 16 then .next (s.resetQueue fn q) else .fault .notEnabled

/-- INSTCMD with GO: ignored while BUSY; the object's range is checked against root 0, else the request ends with OBJECT
(R399). -/
def State.installGo (s : State) (fn : Nat) (v : W64) : State :=
  let f := s.func fn
  if f.instBusy then s
  else if s.rangeOk f.band pLD false (s.root fn 0) f.instOff.toNat f.instLen.toNat then
    s.updFunc fn fun g => { g with instCmd := v, instBusy := true }
  else s.updFunc fn fun g => { g with instCmd := v, instStatus := 1 }

/-- INSTCMD_GO. -/
def execInstcmdGo (fn : Nat) (g : BitVec 13) (codeix : BitVec 8) (s : State) : Host.Outcome State Fault Refusal :=
  if isFn fn then .next (s.installGo fn (BitVec.ofNat 64 (2 ^ 63 + g.toNat * 2 ^ 8 + codeix.toNat))) else .fault .notEnabled

/-- An image that no entry of any band's table designates is freed, and its region revoked (R384); without room in the filter it waits, and
LEHR_PASS_COMPLETE frees it (R75). -/
def State.freeImage (s : State) (k : Nat) : State :=
  if !s.unused k || !s.filterTakes 0 0 then s
  else match Sparse.look s.images k with
    | some m => ({ s with images := Sparse.erase s.images k } : State).post (codeCap 255 s.devId m.base m.len) 0
    | none => s

/-- INSTCMD with CLEAR: ignored while BUSY; the slot becomes empty. -/
def State.installClear (s : State) (fn : Nat) (v : W64) : State :=
  let f := s.func fn
  let key := f.band.toNat * 256 + v.toNat % 256
  if f.instBusy then s
  else
    let s1 := { s with codes := Sparse.erase s.codes key }
    let s2 := match Sparse.look s.codes key with
      | some e => s1.freeImage e.image
      | none => s1
    s2.updFunc fn fun g => { g with instCmd := v, instStatus := 0 }

/-- INSTCMD_CLEAR. -/
def execInstcmdClear (fn : Nat) (codeix : BitVec 8) (s : State) : Host.Outcome State Fault Refusal :=
  if isFn fn then .next (s.installClear fn (BitVec.ofNat 64 (2 ^ 62 + codeix.toNat))) else .fault .notEnabled

/-- A write of INSTCMD: GO alone installs, CLEAR alone clears, and with neither or both the register takes its fields and nothing else
happens (log entry 179). -/
def State.writeInstcmd (s : State) (fn : Nat) (v : W64) : State :=
  let w := keepBits v 63 62 ||| keepBits v 20 0
  if v.getLsbD 63 && !v.getLsbD 62 then s.installGo fn w
  else if v.getLsbD 62 && !v.getLsbD 63 then s.installClear fn w
  else if (s.func fn).instBusy then s else s.updFunc fn fun g => { g with instCmd := w }

/-- A register of BAR0; none where the map names no register. When bring-up has failed, the physical function's BAR0 reads
all ones but for INSTST (R401). -/
def State.bar0Read (s : State) (fn off : Nat) : Option W64 :=
  let f := s.func fn
  let qu := f.queue (off / 0x40)
  match s.boot, fn, off with
  | .failed code, 0, 0x818 => some (code.setWidth 64)
  | .failed _, 0, _ => some (BitVec.allOnes 64)
  | _, _, _ =>
    if off < 0x400 then
      (match off % 0x40 with
      | 0x00 => some qu.ring
      | 0x08 => some (qu.size.setWidth 64)
      | 0x10 => some (qu.tail.setWidth 64)
      | 0x18 => some (qu.head.setWidth 64)
      | 0x20 => some qu.err
      | 0x28 => some (BitVec.ofNat 64 (qu.stopped.toNat * 4 + qu.enable.toNat))
      | _ => none)
    else match off with
      | 0x800 => some f.instOff
      | 0x808 => some (f.instLen.setWidth 64)
      | 0x810 => some f.instCmd
      | 0x818 => some (BitVec.ofNat 64 (f.instBusy.toNat * 2 ^ 8 + f.instStatus.toNat))
      | 0x900 => some (f.aper.setWidth 64)
      | 0x908 => some (f.fstat.setWidth 64)
      | _ => none

/-- A host write to a register of BAR0 without a step of its own; read-only registers ignore it. QCTL with ENABLE 0 turns
the queue off. -/
def State.bar0Write (s : State) (fn off : Nat) (v : W64) : Option State :=
  let q := off / 0x40
  let setQ (g : LQueue → LQueue) : Option State := some (s.updFunc fn fun f => f.setQueue q (g (f.queue q)))
  let setF (g : Func → Func) : Option State := some (s.updFunc fn g)
  if off < 0x400 then
    match off % 0x40 with
    | 0x00 => setQ fun x => s.rekeep fn { x with ring := v }
    | 0x08 => setQ fun x => s.rekeep fn { x with size := v.setWidth 16 }
    | 0x10 => setQ fun x => s.moveTail fn x (v.setWidth 32)
    | 0x18 => some s
    | 0x20 => setQ fun x => { x with err := v }
    | 0x28 =>
      let s1 := if v.getLsbD 1 then s.resetQueue fn q else s
      some (if v.getLsbD 0 then s1.enableQueue fn q else s1.updFunc fn fun f => f.setQueue q { f.queue q with enable := false })
    | _ => none
  else match off with
    | 0x800 => setF fun f => { f with instOff := v }
    | 0x808 => setF fun f => { f with instLen := v.setWidth 32 }
    | 0x810 => some (s.writeInstcmd fn v)
    | 0x818 => some s
    | 0x900 => setF fun f => { f with aper := v.setWidth 36 }
    | 0x908 => setF fun f => { f with fstat := f.fstat &&& ~~~(v.setWidth 2) }
    | _ => none

/-! ### Register writes -/

/-- DEVID (R402). -/
def execDevid (id : BitVec 14) (s : State) : Host.Outcome State Fault Refusal := .next (s.writeDevId id)

/-- FBAND (R397). -/
def execFband (fn : Nat) (band : BitVec 8) (s : State) : Host.Outcome State Fault Refusal :=
  if isFn fn then .next (s.writeFband fn band) else .fault .notEnabled

/-- EXPSET (R395): each 1 written clears its bit. -/
def execExpset (word : Nat) (clear : W64) (s : State) : Host.Outcome State Fault Refusal :=
  if word < 256 then .next (s.clearExports word clear) else .fault .notEnabled

/-- Eight bytes of a function's MSI-X table written (R394): two of the words of a vector's entry. -/
def Func.setMsix (f : Func) (off : Nat) (v : W64) : Func :=
  { f with msix := Sparse.set 0 (Sparse.set 0 f.msix (off / 4) (v.setWidth 32)) (off / 4 + 1) ((v >>> 32).setWidth 32) }

/-- REGISTER_WRITE: eight bytes to a register of the MMIO window by band 0, or by the host to a register of BAR0 or to the MSI-X table
in BAR4. -/
def execRegisterWrite (r : RegAddr) (v : W64) (s : State) : Host.Outcome State Fault Refusal :=
  match r with
  | .mmio off => if off % 8 = 0 ∧ (s.mmioGet off).isSome then .next (s.mmioWrite off 8 v.toNat) else .fault .notEnabled
  | .bar0 fn off => match s.bar0Write fn off v with
    | some s1 => if isFn fn then .next s1 else .fault .notEnabled
    | none => .fault .notEnabled
  | .bar4 fn off => if isFn fn ∧ off % 8 = 0 ∧ off < 1024 then .next (s.updFunc fn fun f => f.setMsix off v) else .fault .notEnabled

end Sys2Proof.Machine
end

