-- ==== Sys2Proof/Machine/Object.lean ====
section
/-!
DEFINITION. Code objects as the loader reads them: sections (R218), the image (R217), the note (R219) and the refusals of
R220.
-/

namespace Sys2Proof.Machine

/-- Status OBJECT of R383. -/
def stObject : Nat := 1
/-- Status FOP. -/
def stFop : Nat := 2
/-- Status REGS. -/
def stRegs : Nat := 3
/-- Status RANGE. -/
def stRange : Nat := 4
/-- Status SLOT. -/
def stSlot : Nat := 5
/-- Status FULL. -/
def stFull : Nat := 6

/-- A little-endian field of a byte string; bytes beyond its end count as zero. -/
def fieldAt (bs : List Byte) (off n : Nat) : Nat := bytesNat ((bs.drop off).take n)

/-- Replace bytes of a byte string that holds them. -/
def patchAt (bs : List Byte) (off : Nat) (ys : List Byte) : List Byte := bs.take off ++ ys ++ bs.drop (off + ys.length)

/-- Whether bytes [off, off + n) are zero. -/
def zeroAt (bs : List Byte) (off n : Nat) : Bool := fieldAt bs off n = 0

/-- ".text", as the 16 bytes of a section name. -/
def nameText : Nat := 0x747865742E
/-- ".rodata". -/
def nameRodata : Nat := 0x617461646F722E
/-- ".note.brohar". -/
def nameNote : Nat := 0x7261686F72622E65746F6E2E
/-- ".farant". -/
def nameFarant : Nat := 0x746E617261662E

/-- The bytes of a section by its name: the first entry of the section table that carries it (R218). An error where the
table or the section lies outside the object. -/
def findSection (obj : List Byte) (name : Nat) : Except Nat (Option (List Byte)) :=
  let n := fieldAt obj 6 2
  let at_ := fieldAt obj 8 8
  if obj.length < at_ + 32 * n then .error stObject
  else match ((List.range n).map fun i => at_ + 32 * i).find? fun e => fieldAt obj e 16 = name with
    | none => .ok none
    | some e =>
      let off := fieldAt obj (e + 16) 8
      let size := fieldAt obj (e + 24) 8
      if obj.length < off + size then .error stObject else .ok (some ((obj.drop off).take size))

/-- A section that the object must have. -/
def needSection (obj : List Byte) (name : Nat) : Except Nat (List Byte) := do
  match ← findSection obj name with
  | some b => .ok b
  | none => .error stObject

/-- The header of an object: MAGIC, VERSION and its zero bytes (R218, R220). -/
def objHeaderOk (obj : List Byte) : Bool :=
  decide (64 ≤ obj.length) && fieldAt obj 0 4 = 0x314F4253 && fieldAt obj 4 2 = 1 && zeroAt obj 16 48

/-- The next multiple of 256. -/
def up256 (n : Nat) : Nat := (n + 255) / 256 * 256

/-- The code image: the code, then the constants at the next multiple of 256 (R217). -/
def layImage (text rodata : List Byte) : List Byte :=
  if rodata = [] then text else text ++ List.replicate (up256 text.length - text.length) 0 ++ rodata

/-- Length of that image. -/
def imageSize (text rodata : Nat) : Nat := if rodata = 0 then text else up256 text + rodata

/-- Number of description records of a note. -/
def noteCount (note : List Byte) : Nat := fieldAt note 4 2

/-- A field of description record `i`. -/
def noteField (note : List Byte) (i off n : Nat) : Nat := fieldAt note (16 + 32 * i + off) n

/-- The checks of R220 on a description record. `align` is what HANDLER must be a multiple of; LANEW is not looked at where
the group width replaces it (R386). -/
def recordOk (note : List Byte) (i align : Nat) (lanew : Bool) (text image : Nat) : Bool :=
  let f := noteField note i
  let hen := f 23 1 = 1
  f 16 2 ≠ 0 && decide (f 20 1 ≤ 2) && decide (f 21 1 ≤ 2) && (!lanew || decide (f 18 1 ≤ 31)) && decide (f 19 1 ≤ 31) &&
    (f 21 1 ≠ 0 || decide (f 19 1 ≤ 15)) && f 4 4 % 8 = 0 && decide (f 4 4 + 8 * (f 22 1 + 1) ≤ image) && decide (f 23 1 ≤ 1) && f 27 5 = 0 &&
    (!hen || (f 8 4 % align = 0 && decide (f 8 4 < text)))

/-- The checks of R220 on a note, over code of `text` bytes in an image of `image` bytes. -/
def noteOk (note : List Byte) (align : Nat) (lanew : Bool) (text image : Nat) : Bool :=
  let minrev := fieldAt note 1 1
  let mm := fieldAt note 2 1
  decide (16 ≤ note.length) && decide (1 ≤ minrev) && decide (minrev ≤ 3) && decide (minrev ≤ fieldAt note 0 1) && (mm = 2 || mm = 3) &&
    zeroAt note 3 1 && zeroAt note 6 10 && note.length = 16 + 32 * noteCount note &&
    (List.range (noteCount note)).all fun i => recordOk note i align lanew text image

/-- A code image with its native note. -/
structure Built where
  /-- The image (R217). -/
  image : List Byte
  /-- The note (R219). -/
  note : List Byte
deriving DecidableEq, Repr

/-- Build a native object's image (R220). -/
def buildNative (obj : List Byte) : Except Nat Built := do
  if !objHeaderOk obj then .error stObject
  else
    let text ← needSection obj nameText
    let note ← needSection obj nameNote
    let ro ← findSection obj nameRodata
    let image := layImage text (ro.getD [])
    if text.length % 4 = 0 && noteOk note 4 true text.length image.length then .ok ⟨image, note⟩ else .error stObject

end Sys2Proof.Machine
end

