-- ==== Sys2Proof/Machine/Farant.lean ====
section
/-!
DEFINITION. Farant words and their translation into native words (R386 to R392).
-/

namespace Sys2Proof.Machine

/-! ### Farant words (R387) -/

/-- A Farant word with its literal, where it has one. -/
structure FarWord where
  /-- Offset in `.farant`. -/
  off : Nat
  /-- Its native half. -/
  low : Nat
  /-- Its high half. -/
  high : Nat
  /-- The literal. -/
  lit : Option Nat
deriving DecidableEq, Repr

/-- Opcode of a native word. -/
def opOf (w : Nat) : Nat := w / 2 ^ 24 % 256
/-- d field. -/
def dOf (w : Nat) : Nat := w / 2 ^ 16 % 256
/-- a field. -/
def aOf (w : Nat) : Nat := w / 2 ^ 8 % 256
/-- b field. -/
def bOf (w : Nat) : Nat := w % 256

/-- A native word of its fields. -/
def mkWord (op d a b : Nat) : Nat := op * 2 ^ 24 + d * 2 ^ 16 + a * 2 ^ 8 + b

/-- Whether an opcode is a literal form (R198). -/
def isLitOp (op : Nat) : Bool := decide (0xD0 ≤ op) && decide (op ≤ 0xEA)

/-- TYPE of a Farant word. -/
def FarWord.ty (w : FarWord) : Nat := recBits w.high 15 5

/-- Whether TYPE is one of 64 bits (R201). -/
def FarWord.wide (w : FarWord) : Bool := w.ty = 2 || w.ty = 3 || w.ty = 9 || w.ty = 13

/-- The MODE value that a Farant word's fields make (R391). -/
def FarWord.mode (w : FarWord) : Nat :=
  recBits w.high 0 6 * 2 ^ 23 + recBits w.high 11 1 * 2 ^ 19 + recBits w.high 10 1 * 2 ^ 18 + recBits w.high 12 3 * 2 ^ 15 + w.ty * 2 ^ 10 +
    recBits w.high 9 1 * 2 ^ 4 + recBits w.high 6 3

/-- The guard fields of that value. -/
def FarWord.guardMode (w : FarWord) : Nat := recBits w.high 9 1 * 2 ^ 4 + recBits w.high 6 3

/-- The 64-bit words of a section. -/
def farWords : Nat → List Byte → List Nat
  | 0, _ => []
  | n + 1, bs => bytesNat (bs.take 8) :: farWords n (bs.drop 8)

/-- Split a section into instructions: a literal form's literal word must follow it with a high half of zero. -/
def parseFar (off : Nat) : List Nat → Except Nat (List FarWord)
  | [] => .ok []
  | [w] => if isLitOp (opOf (w % 2 ^ 32)) then .error stFop else .ok [⟨off, w % 2 ^ 32, w / 2 ^ 32, none⟩]
  | w :: l :: ws =>
    if isLitOp (opOf (w % 2 ^ 32)) then
      if l / 2 ^ 32 ≠ 0 then .error stFop
      else do
        let xs ← parseFar (off + 16) ws
        .ok (⟨off, w % 2 ^ 32, w / 2 ^ 32, some (l % 2 ^ 32)⟩ :: xs)
    else do
      let xs ← parseFar (off + 8) (l :: ws)
      .ok (⟨off, w % 2 ^ 32, w / 2 ^ 32, none⟩ :: xs)

/-! ### Vector fields -/

/-- How a vector field holds its register. -/
inductive VForm where
  /-- A register number. -/
  | num
  /-- A quad index with bit 7 set. -/
  | quad
  /-- The n of v4n in d[3..0] of an atomic. -/
  | atom
deriving DecidableEq, Repr

/-- A field that names vector registers. -/
structure VField where
  /-- Lowest bit of the field in the word. -/
  shift : Nat
  /-- First virtual register. -/
  first : Nat
  /-- Registers. -/
  size : Nat
  /-- Its form. -/
  form : VForm
  /-- The instruction requires this alignment of the first register. -/
  strict : Nat
  /-- Alignment of the placement where the instruction requires none. -/
  loose : Nat
deriving DecidableEq, Repr

/-- Opcodes whose d is a v operand of the TYPE; those that accept 32-bit and packed TYPEs alone name single registers. -/
def dTyped (op : Nat) : Bool :=
  (decide (0x30 ≤ op) && decide (op ≤ 0x42)) || (decide (0x44 ≤ op) && decide (op ≤ 0x4C)) || (decide (0x51 ≤ op) && decide (op ≤ 0x5B) && op ≠ 0x55) ||
    (decide (0x5D ≤ op) && decide (op ≤ 0x60)) || (decide (0x70 ≤ op) && decide (op ≤ 0x73)) || (decide (0x77 ≤ op) && decide (op ≤ 0x7A)) ||
    [0x7D, 0x90, 0x91, 0x94, 0x95, 0x9A, 0x9B, 0xD0, 0xDF, 0xE0, 0xE1].contains op || (decide (0xD3 ≤ op) && decide (op ≤ 0xDD))

/-- Opcodes whose d is one v register. -/
def dSingle (op : Nat) : Bool := [0x4E, 0x4F, 0x55, 0x6A, 0x6B, 0x6E, 0x7C, 0x93, 0x97, 0xF1].contains op || (decide (0x61 ≤ op) && decide (op ≤ 0x68))

/-- Opcodes whose a is a v operand of the TYPE. -/
def aTyped (op : Nat) : Bool :=
  (decide (0x30 ≤ op) && decide (op ≤ 0x4E)) || (decide (0x51 ≤ op) && decide (op ≤ 0x60) && op ≠ 0x55) || (decide (0x70 ≤ op) && decide (op ≤ 0x73)) ||
    (decide (0x77 ≤ op) && decide (op ≤ 0x7B)) || (decide (0xD3 ≤ op) && decide (op ≤ 0xE1))

/-- Opcodes whose a is one v register. -/
def aSingle (op : Nat) : Bool := [0x1B, 0x50, 0x55, 0x69, 0x6C, 0xF1].contains op || (decide (0x61 ≤ op) && decide (op ≤ 0x68))

/-- Opcodes whose b is a v operand of the TYPE. -/
def bTyped (op : Nat) : Bool :=
  op = 0x30 || (decide (0x32 ≤ op) && decide (op ≤ 0x37)) || (decide (0x3A ≤ op) && decide (op ≤ 0x3D)) ||
    (decide (0x3F ≤ op) && decide (op ≤ 0x44)) || [0x49, 0x4B, 0x4C, 0x5C, 0x5F, 0x60, 0x70].contains op || (decide (0x51 ≤ op) && decide (op ≤ 0x59) && op ≠ 0x55)

/-- Opcodes with a memory operand whose a can name a quad. -/
def aMem (op : Nat) : Bool := [0x90, 0x93, 0x94, 0x97, 0x98, 0x99, 0x9A, 0x9B, 0x9C, 0xAD].contains op

/-- Opcodes whose b is a v offset or count of one register. -/
def bSingle (op d : Nat) : Bool :=
  [0x55, 0x6A, 0x6B, 0x90, 0x93, 0x94, 0x97, 0x9A, 0x9B, 0x9C, 0x9E, 0xA0].contains op || ((op = 0x98 || op = 0x99) && decide (128 ≤ d))

/-- The vector fields of a Farant word, for a description of span `span`. -/
def FarWord.fields (span : Nat) (w : FarWord) : List VField :=
  let op := opOf w.low
  let d := dOf w.low
  let a := aOf w.low
  let b := bOf w.low
  let dx := recBits w.high 28 4 * 256
  let ax := recBits w.high 24 4 * 256
  let bx := recBits w.high 20 4 * 256
  let one (sh n : Nat) : List VField := [⟨sh, n, 1, .num, 1, 1⟩]
  let pair (sh n : Nat) : List VField := [⟨sh, n, 2, .num, 2, 1⟩]
  let typed (sh n : Nat) : List VField := if w.wide then pair sh n else one sh n
  let quad (sh x f : Nat) : List VField := if 128 ≤ f then [⟨sh, x + 4 * (f % 64), 4, .quad, 4, 1⟩] else []
  let quadNum (sh n : Nat) : List VField := [⟨sh, n, 4, .num, 4, 1⟩]
  let pack (sh n : Nat) : List VField :=
    if isNarrow (BitVec.ofNat 6 b) then [⟨sh, n, packCount (BitVec.ofNat 6 b), .num, 1, 4⟩] else one sh n
  let df :=
    if dTyped op then typed 16 (dx + d)
    else if dSingle op then one 16 (dx + d)
    else if [0x69, 0x6C, 0x6D, 0xA5].contains op then quadNum 16 (dx + d)
    else if [0x98, 0x99, 0xAD].contains op then quad 16 dx d
    else if op = 0x4D then (if [2, 3, 9, 13].contains (b % 32) then pair 16 (dx + d) else one 16 (dx + d))
    else if op = 0x50 then pack 16 (dx + d)
    else if op = 0x76 then (if span = 64 then pair 16 (dx + d) else one 16 (dx + d))
    else if op = 0x9E then [⟨16, dx + 4 * (d % 16), 4, .atom, 4, 1⟩]
    else if op = 0xA0 then [⟨16, dx + 4 * (d % 16), 2, .atom, 4, 1⟩]
    else []
  let af :=
    if aTyped op then typed 8 (ax + a)
    else if aSingle op then one 8 (ax + a)
    else if [0x6A, 0x6B, 0x6E].contains op then quadNum 8 (ax + a)
    else if aMem op then quad 8 ax a
    else if op = 0x4F then pack 8 (ax + a)
    else []
  let bf :=
    if bTyped op then typed 0 (bx + b)
    else if bSingle op d then one 0 (bx + b)
    else if op = 0xA5 then [⟨0, bx + b, 2, .num, 1, 2⟩]
    else []
  df ++ af ++ bf

/-- Whether a word writes the v register in its d field (R390). -/
def dWritten (op : Nat) : Bool := !([0x94, 0x95, 0x97, 0x9B].contains op)

/-- The fields, as their lowest bits, in which a native opcode names a c register. -/
def capShifts (op : Nat) : List Nat :=
  (if [0x0F, 0xA4, 0xA6, 0xA7, 0xA8, 0xA9, 0xAE, 0xAF, 0xCA, 0xCB, 0xCC, 0xCD].contains op || (decide (0xB0 ≤ op) && decide (op ≤ 0xB5)) then [16]
    else []) ++
    (if [0x1D, 0x1F, 0x20, 0x22, 0x6D, 0x91, 0x92, 0x95, 0x96, 0xC2, 0xC3, 0xC4, 0xC6].contains op || (decide (0x9D ≤ op) && decide (op ≤ 0xA1)) ||
        (decide (0xA4 ≤ op) && decide (op ≤ 0xAC)) || (decide (0xAE ≤ op) && decide (op ≤ 0xBF)) || (decide (0xCA ≤ op) && decide (op ≤ 0xCF))
      then [8] else []) ++
    (if [0xAB, 0xAC, 0xCA].contains op then [0] else [])

/-- Whether a word names c31 (R387). -/
def namesC31 (w : Nat) : Bool :=
  let op := opOf w
  (capShifts op).any (fun sh => recBits w sh 5 = 31) || (aMem op && recBits w 15 1 = 0 && recBits w 8 5 = 31) ||
    ([0x98, 0x99, 0xAD].contains op && recBits w 23 1 = 0 && recBits w 16 5 = 31)

/-- Bits of a relative branch's displacement; 0 for other words (R263). -/
def dispBits (op : Nat) : Nat := if op = 0x02 then 24 else if [0x03, 0x04, 0x05, 0x06, 0x08].contains op then 16 else 0

/-- Where a relative branch of a Farant word goes. -/
def FarWord.target (w : FarWord) : Option Int :=
  let n := dispBits (opOf w.low)
  if n = 0 then none else some ((w.off : Int) + 8 * (BitVec.ofNat n w.low).toInt)

/-- The end of the body of a REP or LOOPB. -/
def FarWord.bodyEnd (w : FarWord) : Option Nat :=
  if opOf w.low = 0x0A ∨ opOf w.low = 0x0B then some (w.off + 8 + 8 * bOf w.low) else none

/-- Whether a native word reads a MODE field (R207, R391). -/
def readsMode (w : Nat) : Bool :=
  let op := opOf w
  let d := dOf w
  [0x03, 0x04, 0x05, 0x0B, 0x0C, 0x0F, 0x1B, 0x1E, 0x1F, 0x20, 0x21, 0x23, 0x9A, 0x9B, 0x9C, 0x9E, 0x9F, 0xA0, 0xA5, 0xB2, 0xB3, 0xB4, 0xB8, 0xBB, 0xBC, 0xBD,
    0xC6, 0xCB, 0xCE, 0xCF, 0xD0].contains op ||
    (decide (0x30 ≤ op) && decide (op ≤ 0x7D) && op ≠ 0x6F) || (decide (0x90 ≤ op) && decide (op ≤ 0x97)) ||
    ((op = 0x98 || op = 0x99 || op = 0xAD) && decide (128 ≤ d)) || (op = 0xA2 && recBits w 6 1 = 1) || (decide (0xD3 ≤ op) && decide (op ≤ 0xE1))

/-- Whether the loader refuses a word with FOP (R387, R389). -/
def FarWord.refused (span : Nat) (w : FarWord) : Bool :=
  let op := opOf w.low
  let fs := w.fields span
  let names (sh : Nat) : Bool := fs.any fun f => f.shift = sh
  decide (0x0D < w.ty) || decide (5 < recBits w.high 12 3) || namesC31 w.low || [0x10, 0x11, 0x13, 0xD2].contains op || decide (0xF1 < op) ||
    (op = 0xF0 && (decide (63 < dOf w.low) || aOf w.low ≠ 0 || bOf w.low % 16 ≠ 0)) || (op = 0xF1 && decide (1 < bOf w.low)) ||
    (recBits w.high 28 4 ≠ 0 && !names 16) || (recBits w.high 24 4 ≠ 0 && !names 8) || (recBits w.high 20 4 ≠ 0 && !names 0)

/-! ### Placement (R388) -/

/-- Virtual registers placed together. -/
structure VGroup where
  /-- First. -/
  first : Nat
  /-- One beyond the last. -/
  stop : Nat
  /-- Alignment that its instructions require and its virtual registers have: the placement keeps it. -/
  strict : Nat
  /-- Alignment of its start where there is none to keep. -/
  loose : Nat
  /-- Holds an atomic's data group. -/
  atom : Bool
deriving DecidableEq, Repr

/-- Put an element into a list ordered by a key of two numbers. -/
def insertBy {α : Type} (key : α → Nat × Nat) (x : α) : List α → List α
  | [] => [x]
  | y :: ys => if (key x).1 < (key y).1 ∨ ((key x).1 = (key y).1 ∧ (key x).2 < (key y).2) then x :: y :: ys else y :: insertBy key x ys

/-- Order a list by a key. -/
def sortBy {α : Type} (key : α → Nat × Nat) (xs : List α) : List α := xs.foldl (fun l x => insertBy key x l) []

/-- Join groups that share registers, in a list ordered by first register. -/
def joinGroups : List VGroup → List VGroup → List VGroup
  | acc, [] => acc.reverse
  | [], g :: gs => joinGroups [g] gs
  | p :: ps, g :: gs =>
    if g.first < p.stop then
      joinGroups (⟨p.first, max p.stop g.stop, max p.strict g.strict, max p.loose g.loose, p.atom || g.atom⟩ :: ps) gs
    else joinGroups (g :: p :: ps) gs

/-- The groups of a module. -/
def groupsOf (fs : List VField) : List VGroup :=
  joinGroups [] (sortBy (fun g => (g.first, 0))
    ((fs.filter fun f => decide (1 < f.size)).map fun f =>
      ⟨f.first, f.first + f.size, if f.first % f.strict = 0 then f.strict else 1, max f.strict f.loose, f.form = .atom⟩))

/-- A start for a group: below `top`, free of the groups already placed, and aligned. -/
def placeGroup (top : Nat) (used : List (Nat × Nat)) (g : VGroup) : Option Nat :=
  let n := g.stop - g.first
  (List.range (top + 1 - n)).find? fun p =>
    decide (p + n ≤ top) && (if 1 < g.strict then p % g.strict = g.first % g.strict else p % g.loose = 0) &&
      used.all fun u => decide (p + n ≤ u.1) || decide (u.2 ≤ p)

/-- Place groups in order; each answer is the group and its first native register. -/
def placeGroups (free : Nat) (used : List (Nat × Nat)) : List VGroup → Option (List (VGroup × Nat))
  | [] => some []
  | g :: gs =>
    match placeGroup (if g.atom then min free 64 else free) used g with
    | none => none
    | some p => (placeGroups free ((p, p + (g.stop - g.first)) :: used) gs).map fun l => (g, p) :: l

/-- Where the virtual registers of a description lie. -/
structure Placement where
  /-- Groups. -/
  groups : List (VGroup × Nat)
  /-- Single registers and their native ones. -/
  singles : List (Nat × Nat)
  /-- Spilled registers, ascending. -/
  spilled : List Nat
deriving DecidableEq, Repr

/-- The native register of a virtual one; none when it is spilled. -/
def Placement.native (p : Placement) (v : Nat) : Option Nat :=
  match p.groups.find? fun g => decide (g.1.first ≤ v) && decide (v < g.1.stop) with
  | some g => some (g.2 + (v - g.1.first))
  | none => (p.singles.find? fun e => e.1 = v).map Prod.snd

/-- The spill slot of a virtual register. -/
def Placement.slot (p : Placement) (v : Nat) : Nat := (p.spilled.filter fun u => decide (u < v)).length

/-- Place the registers that a module names, with `free` native registers besides the scratch quad. -/
def placeAll (free : Nat) (fs : List VField) : Option Placement :=
  let gs := groupsOf fs
  match placeGroups free [] ((gs.filter fun g => g.atom) ++ gs.filter fun g => !g.atom) with
  | none => none
  | some placed =>
    let grouped (v : Nat) : Bool := gs.any fun g => decide (g.first ≤ v) && decide (v < g.stop)
    let named := (fs.filter fun f => f.size = 1 && !grouped f.first).map VField.first
    let ranked := sortBy (fun v => (named.length - named.count v, v)) named.eraseDups
    let regs := (List.range free).filter fun r => placed.all fun g => decide (r < g.2) || decide (g.2 + (g.1.stop - g.1.first) ≤ r)
    some ⟨placed, ranked.zip regs, sortBy (fun v => (v, 0)) (ranked.drop regs.length)⟩

/-! ### Native words (R389 to R391) -/

/-- What the layout of the translated copy still changes in a word. -/
inductive Fix where
  /-- Nothing. -/
  | none
  /-- A displacement of so many bits to a Farant offset. -/
  | disp (target bits : Nat)
  /-- A body length, at most so many words, to a Farant offset. -/
  | body (stop most : Nat)
  /-- YIELD's deadline field. -/
  | yield
deriving DecidableEq, Repr

/-- A native instruction of the translation. -/
structure NatWord where
  /-- Its word. -/
  word : Nat
  /-- Its literal. -/
  lit : Option Nat
  /-- What is still open. -/
  fix : Fix
deriving DecidableEq, Repr

/-- A word with nothing open. -/
def plainWord (op d a b : Nat) : NatWord := ⟨mkWord op d a b, .none, .none⟩

/-- A literal form. -/
def litWord (op d a lit : Nat) : NatWord := ⟨mkWord op d a 0, some lit, .none⟩

/-- Native instructions so far, with the tracked MODE. -/
structure Emit where
  /-- Instructions. -/
  out : List NatWord
  /-- The tracked MODE; none when unknown. -/
  mode : Option Nat
deriving DecidableEq, Repr

/-- Append an instruction. -/
def Emit.put (e : Emit) (w : NatWord) : Emit := { e with out := e.out ++ [w] }

/-- SETML when the tracked value differs. -/
def Emit.need (e : Emit) (m : Nat) : Emit :=
  if e.mode = some m then e else { out := e.out ++ [litWord 0xD2 0 0 m], mode := some m }

/-- Native bytes of a word's size. -/
def NatWord.size (w : NatWord) : Nat := if w.lit.isSome then 8 else 4

/-- What the translator knows of a description. -/
structure FarEnv where
  /-- Allotment A. -/
  allot : Nat
  /-- PRIV of the Farant description. -/
  priv : Nat
  /-- G. -/
  g : Nat
  /-- SPAN in lanes. -/
  span : Nat
  /-- Placement. -/
  place : Placement
deriving DecidableEq, Repr

/-- Load or store a spill slot through [c31 + v(A−1)] under MODE 0. -/
def Emit.spill (e : Emit) (v : FarEnv) (op reg virt : Nat) : Emit :=
  ((e.need 0).put (litWord 0xD0 (v.allot - 1) 0 (4 * (8 * v.priv + v.place.slot virt)))).put (plainWord op reg 0x1F (v.allot - 1))

/-- The scratch register that stands for a spilled field. -/
def FarEnv.scratch (v : FarEnv) (f : VField) : Nat := if f.shift = 16 then v.allot - 4 else if f.shift = 8 then v.allot - 3 else v.allot - 2

/-- The native register of a field. -/
def FarEnv.regOf (v : FarEnv) (f : VField) : Nat := (v.place.native f.first).getD (v.scratch f)

/-- A word with a field's native register in place of the virtual one. -/
def FarEnv.setField (v : FarEnv) (w : Nat) (f : VField) : Nat :=
  let r := v.regOf f
  let old := recBits w f.shift 8
  let new := match f.form with
    | .num => r
    | .quad => 128 + old / 64 % 2 * 64 + r / 4
    | .atom => old / 16 * 16 + r / 4
  w - old * 2 ^ f.shift + new * 2 ^ f.shift

/-- What the layout changes in a word. -/
def FarWord.fix (w : FarWord) : Fix :=
  let op := opOf w.low
  match w.target, w.bodyEnd with
  | some t, _ => .disp t.toNat (dispBits op)
  | none, some e => .body e (if op = 0x0A then 255 else 64)
  | none, none => if op = 0x0E then .yield else .none

/-- The instruction itself, or its sequence (R389). -/
def Emit.core (e : Emit) (v : FarEnv) (w : FarWord) (fs : List VField) : Emit :=
  let op := opOf w.low
  let reg (sh : Nat) : Nat := ((fs.find? fun f => f.shift = sh).map v.regOf).getD 0
  if op = 0xF0 then e.put (litWord 0xD1 (dOf w.low) 0 v.g)
  else if op = 0xF1 then
    let e1 := e.need (0x0C * 2 ^ 10 + w.guardMode)
    let e2 := e1.put (if bOf w.low = 1 then litWord 0xDA (v.allot - 2) (reg 8) 16 else litWord 0xD6 (v.allot - 2) (reg 8) 0xFFFF)
    let e3 := (e2.put (litWord 0xD0 (v.allot - 1) 0 0x3C00)).put (litWord 0xD0 (reg 16) 0 0)
    (e3.need (0x0B * 2 ^ 10 + recBits w.high 12 3 * 2 ^ 15 + recBits w.high 10 1 * 2 ^ 18 + w.guardMode)).put
      (plainWord 0x55 (reg 16) (v.allot - 2) (v.allot - 1))
  else
    (if readsMode w.low then e.need w.mode else e).put ⟨fs.foldl v.setField w.low, w.lit, w.fix⟩

/-- The native instructions of one Farant word: reloads, the instruction, the store-back (R390). -/
def Emit.word (e : Emit) (v : FarEnv) (w : FarWord) : Emit :=
  let fs := w.fields v.span
  let gone := fs.filter fun f => (v.place.native f.first).isNone
  let e1 := gone.foldl (fun x f => x.spill v 0x90 (v.scratch f) f.first) e
  let e2 := e1.core v w fs
  if dWritten (opOf w.low) then (gone.filter fun f => f.shift = 16).foldl (fun x f => x.spill v 0x94 (v.allot - 4) f.first) e2 else e2

/-- A Farant word and the native instructions that it became. -/
abbrev FarSeq := Nat × List NatWord

/-- Translate the words of a copy: the tracked MODE is unknown at the offsets `fresh`, and 0 at the handler. -/
def emitAll (v : FarEnv) (fresh : List Nat) (handler : Option Nat) : Option Nat → List FarWord → List FarSeq
  | _, [] => []
  | m, w :: ws =>
    let m1 := if fresh.contains w.off then none else if handler = some w.off then some 0 else m
    let e := ({ out := [], mode := m1 } : Emit).word v w
    (w.off, e.out) :: emitAll v fresh handler (if opOf w.low = 0x08 then none else e.mode) ws

/-! ### Layout -/

/-- Bytes of a sequence. -/
def seqBytes (q : List NatWord) : Nat := (q.map NatWord.size).sum

/-- Native offset in the copy of each Farant offset, after `at_` bytes. -/
def natMap (at_ : Nat) : List FarSeq → List (Nat × Nat)
  | [] => []
  | q :: qs => (q.1, at_) :: natMap (at_ + seqBytes q.2) qs

/-- Native offset of a Farant offset. -/
def natOf (m : List (Nat × Nat)) (off : Nat) : Option Nat := (m.find? fun e => e.1 = off).map Prod.snd

/-- A word with its open field, at its native offset (R383, R392). -/
def NatWord.close (m : List (Nat × Nat)) (e at_ : Nat) (w : NatWord) : Except Nat Nat :=
  match w.fix with
  | .none => .ok w.word
  | .yield => .ok (w.word - recBits w.word 8 12 * 2 ^ 8 + min 4095 (e * recBits w.word 8 12) * 2 ^ 8)
  | .disp t bits =>
    match natOf m t with
    | none => .error stFop
    | some p =>
      let d : Int := ((p : Int) - at_) / 4
      if -(2 ^ (bits - 1) : Int) ≤ d ∧ d < 2 ^ (bits - 1) then
        .ok (w.word - recBits w.word 0 bits + (BitVec.ofInt bits d).toNat)
      else .error stRange
  | .body stop most =>
    match natOf m stop with
    | none => .error stRange
    | some p => if (p - at_ - 4) / 4 ≤ most then .ok (w.word - bOf w.word + (p - at_ - 4) / 4) else .error stRange

/-- The bytes of native instructions from an offset on. -/
def closeAll (m : List (Nat × Nat)) (e : Nat) : Nat → List NatWord → Except Nat (List Byte)
  | _, [] => .ok []
  | at_, w :: ws => do
    let x ← w.close m e at_
    let xs ← closeAll m e (at_ + w.size) ws
    .ok (natBytes 4 x ++ (match w.lit with
      | some l => natBytes 4 l
      | none => []) ++ xs)

/-- A translated copy. -/
structure FarCopy where
  /-- Its native bytes. -/
  code : List Byte
  /-- Raised PRIV. -/
  priv : Nat
  /-- E. -/
  e : Nat
  /-- Native offset of the handler in the copy. -/
  handler : Nat
deriving DecidableEq, Repr

/-- The prologue (R390). -/
def prologue (priv g : Nat) (entry : Nat) : List NatWord :=
  [plainWord 0xAD 31 1 0, litWord 0xD1 63 0 (32 * priv * g), plainWord 0xA4 1 31 62, litWord 0xD1 63 0 0] ++
    (if entry = 0 then [] else [⟨mkWord 0x02 0 0 0, none, .disp entry 24⟩])

/-- Translate the words of a module for one description. -/
def translateOne (ws : List FarWord) (size allot priv g span entry : Nat) (handler : Option Nat) : Except Nat FarCopy :=
  match placeAll (allot - 4) (ws.flatMap fun w => w.fields span) with
  | none => .error stRegs
  | some p =>
    let raised := priv + (p.spilled.length + 7) / 8
    if 63 < raised then .error stRegs
    else
      let fresh := (if entry = 0 then [] else [entry]) ++ (ws.filterMap fun w => w.target.map Int.toNat) ++
        ws.flatMap fun w => match w.bodyEnd with
          | some b => [w.off + 8, b]
          | none => []
      let qs := emitAll ⟨allot, priv, g, span, p⟩ fresh handler (some 0) ws
      let e := (qs.map fun q => q.2.length).foldl max 0
      let pro := prologue priv g entry
      let m := natMap (seqBytes pro) qs ++ [(size, seqBytes pro + (qs.map fun q => seqBytes q.2).sum)]
      if 255 < e then .error stRange
      else match closeAll m e 0 (pro ++ qs.flatMap Prod.snd) with
        | .error c => .error c
        | .ok code => .ok ⟨code, raised, e, (handler.bind (natOf m)).getD 0⟩

/-! ### Objects (R386) -/

/-- Whether a word passes under the spans of the descriptions; without descriptions it passes unless every span refuses it. -/
def FarWord.passes (spans : List Nat) (w : FarWord) : Bool :=
  if spans = [] then [16, 32, 64].any fun sp => !w.refused sp else spans.all fun sp => !w.refused sp

/-- Whether every word passes, every relative branch has its target at an instruction of the module, and so have the entry
and the handler. -/
def farWordsOk (ws : List FarWord) (spans : List Nat) (entries : List Nat) : Bool :=
  let offs := ws.map FarWord.off
  ws.all (FarWord.passes spans) &&
    (ws.filterMap FarWord.target).all (fun t => decide (0 ≤ t) && offs.contains t.toNat) && entries.all fun x => offs.contains x

/-- Code of the copies, each at a multiple of 256, and the start of each; words of NOP fill the gaps. -/
def joinCopies : List Byte → List FarCopy → List Byte × List Nat
  | acc, [] => (acc, [])
  | acc, c :: cs =>
    let pad := (List.replicate ((up256 acc.length - acc.length) / 4) (natBytes 4 0x01000000)).flatten
    let r := joinCopies (acc ++ pad ++ c.code) cs
    (r.1, (acc ++ pad).length :: r.2)

/-- A description's record after translation (R386, R388, R392); `shift` is how far the constants have moved. -/
def farRecord (note : List Byte) (i g start : Nat) (c : FarCopy) (moved : Nat → Nat) : List Byte :=
  let f := noteField note i
  natBytes 4 (moved (f 0 4)) ++ natBytes 4 (moved (f 4 4)) ++ natBytes 4 (if f 23 1 = 1 then start + c.handler else 0) ++
    natBytes 4 (f 12 4 / 64 * 64 + c.priv) ++ natBytes 2 (min 4095 (c.e * f 16 2)) ++ natBytes 1 (g / 32 - 1) ++
    ((note.drop (16 + 32 * i + 19)).take 7) ++ natBytes 1 c.e ++ natBytes 5 0

/-- Lanes of a span code. -/
def spanOfCode (c : Nat) : Nat := 16 * 2 ^ c

/-- Whether the role entries of the descriptions can be rewritten: one role each, in the constants, apart from each other,
its entry PC at a word of the module. -/
def rolesOk (note rodata : List Byte) (size : Nat) : Bool :=
  let n := noteCount note
  let role (i : Nat) : Nat := noteField note i 4 4
  (List.range n).all fun i =>
    noteField note i 22 1 = 0 && decide (up256 size ≤ role i) && (fieldAt rodata (role i - up256 size) 4) % 8 = 0 &&
      decide (fieldAt rodata (role i - up256 size) 4 < size) && (List.range i).all fun j => role j ≠ role i

/-- The least of a list of error codes. -/
def leastError {α : Type} (xs : List (Except Nat α)) : Option Nat :=
  (xs.filterMap fun x => match x with
    | .error c => some c
    | .ok _ => none).min?

/-- Translate a module once for each description; when some cannot be translated, the least of their codes. -/
def translateAll (text ro note : List Byte) (g : Nat) (ws : List FarWord) : Except Nat (List FarCopy) :=
  let n := noteCount note
  let f (i : Nat) := noteField note i
  let role (i : Nat) : Nat := fieldAt ro (f i 4 4 - up256 text.length) 8
  let handler (i : Nat) : Option Nat := if f i 23 1 = 1 then some (f i 8 4) else none
  let spans := (List.range n).map fun i => spanOfCode (f i 20 1)
  if !farWordsOk ws spans ((List.range n).flatMap fun i => recBits (role i) 0 32 :: (handler i).toList) then .error stFop
  else
    let cs := (List.range n).map fun i =>
      translateOne ws text.length (8 * (recBits (role i) 59 5 + 1)) (recBits (f i 12 4) 0 6) g (spanOfCode (f i 20 1)) (recBits (role i) 0 32) (handler i)
    match leastError cs with
    | some c => .error c
    | none => .ok (cs.filterMap fun x => match x with
      | .ok c => some c
      | .error _ => none)

/-- Build the native image of a Farant object for the group width `g` (R386 to R393). -/
def buildFarant (obj : List Byte) (g : Nat) : Except Nat Built := do
  if !objHeaderOk obj ∨ g % 32 ≠ 0 ∨ g < 32 ∨ 1024 < g then .error stObject
  else
    let native ← needSection obj nameText
    let text ← needSection obj nameFarant
    let note ← needSection obj nameNote
    let ro := (← findSection obj nameRodata).getD []
    let size := text.length
    if native ≠ [] || size % 8 ≠ 0 || !noteOk note 8 false size (imageSize size ro.length) || !rolesOk note ro size then .error stObject
    else
      let ws ← parseFar 0 (farWords (size / 8) text)
      let copies ← translateAll text ro note g ws
      let joined := joinCopies [] copies
      let moved (x : Nat) : Nat := if up256 size ≤ x then x - up256 size + up256 joined.1.length else x
      let starts := (copies.zip joined.2).zipIdx
      let ro1 := starts.foldl (fun r p => patchAt r (noteField note p.2 4 4 - up256 size) (natBytes 4 p.1.2)) ro
      let note1 := note.take 16 ++ starts.flatMap fun p => farRecord note p.2 g p.1.2 p.1.1 moved
      let image := layImage joined.1 ro1
      if noteOk note1 4 true joined.1.length image.length then .ok ⟨image, note1⟩ else .error stObject

end Sys2Proof.Machine
end

