-- ==== Sys2Proof/Machine/Install.lean ====
section
/-!
DEFINITION. Installation of code objects (R383 to R385).
-/

namespace Sys2Proof.Machine

/-- The image and note of an object: native for G = 0, else a Farant object translated for G lanes. -/
def buildObject (obj : List Byte) (g : Nat) : Except Nat Built := if g = 0 then buildNative obj else buildFarant obj g

/-- The image that an object's key finds in the cache; one that only waits to be freed is no longer found (R384). -/
def State.cachedImage (s : State) (key : List Byte) (g : Nat) : Option (Nat × Image) :=
  s.images.find? fun e => e.2.key = key && e.2.g = g && !s.unused e.1

/-- Whether a new image of `n` bytes fits at a place of HBM beside the other images. -/
def State.imageFits (s : State) (p n : Nat) : Bool :=
  p % 16 = 0 && decide (p + n ≤ hbmTop) && s.images.all fun e => decide (p + n ≤ e.2.base) || decide (e.2.base + plenUp e.2.len ≤ p)

/-- The first number above those of a table. -/
def nextKey {α : Type} (m : Sparse α) : Nat := (m.map fun e => e.1 + 1).foldl max 0

/-- The code table entry for an image (R383). -/
def State.codeEntryFor (s : State) (k : Nat) (m : Image) : CodeEntry := ⟨codeCap 255 s.devId m.base m.len, m.note, k⟩

/-- Put an image into a code table slot, visible to function `fn`. -/
def State.linkImage (s : State) (slot fn k : Nat) (m : Image) : State :=
  { s with images := Sparse.insert s.images k { m with vis := m.vis ||| BitVec.ofNat 64 (2 ^ fn) }, codes := Sparse.insert s.codes slot (s.codeEntryFor k m) }

/-- End a request with its status. -/
def State.installEnds (s : State) (fn status : Nat) : State :=
  s.updFunc fn fun f => { f with instBusy := false, instStatus := BitVec.ofNat 8 status }

/-- Enter a built image: an entry of the cache with the same key is shared, else the image is written at `place`; FULL
without one. -/
def State.enterImage (s : State) (fn slot g : Nat) (key : List Byte) (b : Built) (place : Option Nat) : Host.Outcome State Fault Refusal :=
  match s.cachedImage key g, place with
  | some e, _ => .next ((s.linkImage slot fn e.1 e.2).installEnds fn 0)
  | none, none => .next (s.installEnds fn stFull)
  | none, some p =>
    let n := plenUp b.image.length
    if s.imageFits p n then
      let m : Image := { key := key, g := g, base := p, len := b.image.length, note := b.note, vis := 0 }
      .next (((s.writeHbm p (b.image ++ List.replicate (n - b.image.length) 0)).linkImage slot fn (nextKey s.images) m).installEnds fn 0)
    else .fault .notEnabled

/-- INSTALL_COMPLETE (R383, R385): the loader reads the object through root 0, builds its image and answers with a status;
`place` is where it puts a new image, none when the cache has no room. -/
def execInstallComplete (fn : Nat) (place : Option Nat) (s : State) : Host.Outcome State Fault Refusal :=
  let f := s.func fn
  let root := s.root fn 0
  let off := f.instOff.toNat
  let n := f.instLen.toNat
  let g := recBits f.instCmd.toNat 8 13
  let slot := f.band.toNat * 256 + f.instCmd.toNat % 256
  if !f.instBusy || !s.rowReady 0 root off n false then .fault .notEnabled
  else
    let row := (s.readRow 0 root off n []).1
    match (if row.poison.any id then .error stObject else buildObject row.data g) with
    | .error c => .next (s.installEnds fn c)
    | .ok b =>
      if (Sparse.look s.codes slot).isSome then .next (s.installEnds fn stSlot)
      else s.enterImage fn slot g (shake256 64 row.data) b place

end Sys2Proof.Machine
end

