-- ==== Sys2Proof/Machine/Mcas.lean ====
section
/-!
DEFINITION. MCAS (R299 to R302): its checks, the wait for its locks, and its event.
-/

namespace Sys2Proof.Machine

/-- The entries as the block holds them: TCAP, OFF, WIDTH, EXP and DES with their tags. -/
structure McasRaw where
  /-- Target capability. -/
  tcap : Cap
  /-- Byte offset in it. -/
  off : Nat
  /-- WIDTH. -/
  width : Nat
  /-- EXP. -/
  exp : Cap
  /-- DES. -/
  des : Cap
  /-- MBZ bits are zero. -/
  clean : Bool
deriving DecidableEq, Repr

/-- Read entry `i` of a block at a scratchpad offset; tags count only when `ldc` (R300). -/
def State.mcasRaw (s : State) (m : Mem) (block i : Nat) (ldc : Bool) : McasRaw :=
  let a := block + 16 + 64 * i
  let cap (o : Nat) : Cap := let c := m.readCap (a + o); s.moved { c with tag := c.tag && ldc }
  { tcap := cap 0, off := bytesNat (m.read (a + 16) 8), width := bytesNat (m.read (a + 24) 4), exp := cap 32, des := cap 48
    clean := bytesNat (m.read (a + 28) 4) = 0 }

/-- A fault of an entry: FAUX is its index. -/
def entryTrap (code : FaultCode) (step i off addr : Nat) : Trap := ⟨code, 0, step, 3, 0, false, off, addr, i⟩

/-- The checks of one entry (R300 step 6). -/
def Ctx.mcasEntry (x : Ctx) (s : State) (i : Nat) (r : McasRaw) : Except Trap McasEntry :=
  let addr := wrapAddr (r.tcap.addr + r.off)
  let u := Use.atomic [kData]
  let early : Option Failed := match s.capFails x.sh.band u r.tcap (inMmio addr) with
    | some f => if f.code = .tag ∨ f.code = .kind then some f else none
    | none => none
  match early with
  | some f => .error (entryTrap f.code f.step i r.off addr)
  | none =>
    if r.tcap.dev ≠ s.devId.toNat then .error (entryTrap .mcasRemote 0 i r.off addr)
    else match x.place s u r.tcap 0 3 0 r.off r.width 1 with
      | .error e => .error { e with aux := i }
      | .ok p =>
        if r.width ≠ 4 ∧ r.width ≠ 8 ∧ r.width ≠ 16 then .error (entryTrap .engine 0 i r.off addr)
        else if r.off % r.width ≠ 0 then .error (entryTrap .align 8 i r.off addr)
        else
          let entry (tag : Bool) : McasEntry :=
            { addr := localOf p.2, width := r.width, exp := r.exp.toNat % 2 ^ (8 * r.width), expTag := r.exp.tag && r.width = 16
              des := r.des.toNat % 2 ^ (8 * r.width), desTag := tag, sy := r.tcap.isSy }
          if r.width = 16 then
            match keepsTag x.sh.band r.des r.tcap false with
            | .error e => .error (entryTrap e 0 i r.off addr)
            | .ok k => .ok (entry k)
          else .ok (entry false)

/-- All entries from index `i`. -/
def Ctx.mcasEntries (x : Ctx) (s : State) : Nat → List McasRaw → Except Trap (List McasEntry)
  | _, [] => .ok []
  | i, r :: rs => match x.mcasEntry s i r with
    | .error e => .error e
    | .ok e => match x.mcasEntries s (i + 1) rs with
      | .error f => .error f
      | .ok es => .ok (e :: es)

/-- The lowest index whose bytes overlap those of an earlier entry (R300 step 7). -/
def mcasOverlap : List McasEntry → List McasEntry → Nat → Option Nat
  | _, [], _ => none
  | seen, e :: es, i =>
    if seen.any fun f => rangesMeet f.addr f.width e.addr (e.addr + e.width) then some i else mcasOverlap (seen ++ [e]) es (i + 1)

/-- POISON met in the block (R186). -/
def blockPoison (a : Access) (p : Nat) : Trap := ⟨.poison, 0, 0, 0, 0, false, a.off, a.addr, a.addr - localOf a.addr + p⟩

/-- MCAS: the checks of R300 in their order; then its locks are requested. -/
def execMcas (d : BitVec 6) (c : BitVec 5) (h : BitVec 4) : State → Host.Outcome State Fault Refusal :=
  wordStep (.mcas d c h) fun x s =>
    match x.access s ⟨[kLocal], false, pLD ||| pST, false, true⟩ (.c c) 0 0 16 16 .read with
    | .error e => .error e
    | .ok acc =>
      let m := x.sh.spad
      let cap := x.t.rdC c.toNat
      let block := localOf cap.addr
      let head := bytesNat (m.read block 16)
      let count := head % 2 ^ 5
      let bad : Trap := { Trap.plain .engine with aux := 0xFFFF }
      match m.firstPoison block 16 with
      | some p => .error (blockPoison acc p)
      | none =>
        if count = 0 ∨ 16 < count ∨ head / 2 ^ 5 % 2 ^ 3 ≠ 0 ∨ head / 2 ^ 14 ≠ 0 then .error bad
        else if cap.len < 16 + 64 * count then .error ⟨.bounds, 0, 0, 1, c.toNat, false, 0, acc.addr, 0⟩
        else match m.firstPoison (block + 16) (64 * count) with
          | some p => .error (blockPoison acc p)
          | none =>
            let raws := (List.range count).map fun i => s.mcasRaw m block i cap.loadsTags
            if raws.any fun r => !r.clean then .error bad
            else match x.needScope s (BitVec.ofNat 6 (head / 2 ^ 8)) with
              | .error e => .error e
              | .ok () => match x.mcasEntries s 0 raws with
                | .error e => .error e
                | .ok es => match mcasOverlap [] es 0 with
                  | some i => .error (entryTrap .engine 0 i 0 0)
                  | none => .ok (s.setTeam x.n { x.t with wait := .mcas d block (cap.has pSTC) es }, .stay)

/-- What an entry's target holds: the bytes as a number, and its tag for WIDTH 16 as memory holds it, unfiltered (log entry 191). -/
def State.observe (s : State) (e : McasEntry) : Nat × Bool :=
  let r := (s.accessHome e.addr e.width (if e.width = 16 then .readCap else .read) false).2
  (bytesNat r.data, r.tag && e.width = 16)

/-- Whether poison or an uncorrectable error lies in an entry's granule: reserved ranges read as poison (R136). -/
def State.mcasPoisoned (s : State) (e : McasEntry) : Bool := (s.poisonAt e.addr e.width).isSome

/-- Write DES of an entry. -/
def State.mcasWrite (s : State) (e : McasEntry) : State :=
  (s.accessHome e.addr e.width
    (if e.width = 16 then .writeCap (s.moved (Cap.ofNat e.des e.desTag)) else .write (natBytes e.width e.des)) e.sy).1

/-- The first entry, from index `i`, whose observed value is not EXP. -/
def State.mcasMismatch (s : State) : Nat → List McasEntry → Option Nat
  | _, [] => none
  | i, e :: es => if s.observe e = (e.exp, e.expTag) then s.mcasMismatch (i + 1) es else some i

/-- EXP fields rewritten with the observed values (R301). -/
def State.mcasWriteBack (s : State) (block : Nat) (stc : Bool) : Nat → List McasEntry → Mem → Mem
  | _, [], m => m
  | i, e :: es, m =>
    let o := s.observe e
    let a := block + 16 + 64 * i + 32
    s.mcasWriteBack block stc (i + 1) es
      (if e.width = 16 then m.writeCap a (s.moved (Cap.ofNat o.1 (o.2 && stc))) else m.write a (natBytes e.width o.1))

/-- Whether an entry's line can be locked now: a host-window line has to be owned (R155). -/
def State.mcasReady (s : State) (e : McasEntry) : Bool :=
  match s.region e.addr with
  | .host off => s.halvesReady off e.width true
  | _ => true

/-- Whether the event of an MCAS has to wait for a store of its team at a peer: its write part is a release, and follows every earlier access
of the lane (R161, R166). -/
def Ctx.mcasHeld (x : Ctx) : Bool := x.t.outStores.any OutStore.isPeer

/-- The line of each entry whose class is SY enters update mode, whatever the outcome (R149). -/
def State.mcasMarks (s : State) (es : List McasEntry) : State :=
  { s with updMode := es.foldl (fun m e => if e.sy && s.region e.addr = .hbm then Sparse.set false m (e.addr / 128) true else m) s.updMode }

/-- The event of an MCAS, and its team after it. -/
def State.mcasEvent (s : State) (x : Ctx) (d : BitVec 6) (block : Nat) (stc : Bool) (es : List McasEntry) : State :=
  let fin (s1 : State) (status idx : Nat) : State :=
    (s1.mcasMarks es).updTeam x.n fun t => ({ t with wait := .none } : Team).wrS d.toNat (BitVec.ofNat 64 (status + idx * 2 ^ 8))
  if es.any s.mcasPoisoned then fin s 2 0
  else match s.mcasMismatch 0 es with
    | none => fin (es.foldl (fun s1 e => s1.mcasWrite e) s) 0 0
    | some i => fin (s.updShop (shopOf x.n) fun y => { y with spad := s.mcasWriteBack block stc 0 es y.spad }) 1 i

/-- MCAS_LOCK_GRANT: the last lock is granted and the event takes place. -/
def execMcasLockGrant (n : Nat) (s : State) : Host.Outcome State Fault Refusal :=
  match s.ctx? n with
  | none => .fault .notEnabled
  | some x =>
    match x.t.wait with
    | .mcas d block stc es =>
      if es.all s.mcasReady && !x.mcasHeld then .next ((s.mcasEvent x d block stc es).settle n x.sh.lanes (.mcas d 0 0) .next)
      else .fault .notEnabled
    | _ => .fault .notEnabled

end Sys2Proof.Machine
end

