-- ==== Sys2Proof/Machine/Sync.lean ====
section
/-!
DEFINITION. Barrier words (R326 to R329) and scratchpad queues (R330 to R332).
-/

namespace Sys2Proof.Machine

/-- What barriers and queues need of their capability: KIND local with LD and ST. -/
def syncUse : Use := ⟨[kLocal], false, pLD ||| pST, false, true⟩

/-- The check of `n` aligned bytes of scratchpad; the offset in the scratchpad. -/
def Ctx.syncAt (x : Ctx) (s : State) (c : BitVec 5) (off n : Nat) : Except Trap Nat :=
  match x.access s syncUse (.c c) 0 off n n .read with
  | .error e => .error e
  | .ok a => .ok (localOf a.cap.addr + off)

/-- ENGINE with FAUX 0 (R350). -/
def engineTrap : Trap := Trap.plain .engine

/-! ### Barriers -/

/-- The check of a barrier, and of its zero fields (R327). -/
def Ctx.barAt (x : Ctx) (s : State) (c : BitVec 5) (off : Nat) : Except Trap Nat :=
  match x.syncAt s c off 16 with
  | .error e => .error e
  | .ok o => if barClean (bytesNat (x.sh.spad.read o 16)) then .ok o else .error engineTrap

/-- The check of an arrival under CREWMODE: a member of the crew that has not arrived (R327). -/
def Ctx.mayArrive (x : Ctx) (b : Bar) : Bool :=
  !b.crewmode || (x.t.crews.getLsbD b.crew && !(b.opened && b.arrset.getLsbD (teamIx x.n)))

/-- The barrier after an arrival of the issuing team (R328). -/
def State.arriveAt (s : State) (x : Ctx) (b : Bar) : Bar := b.arrive (s.crewSize (shopOf x.n) b.crew) (teamIx x.n)

/-- BARI. -/
def execBari (c : BitVec 5) (b : BitVec 6) : State → Host.Outcome State Fault Refusal :=
  wordStep (.bari c b) fun x s =>
    match x.syncAt s c (x.t.rdS b.toNat).toNat 16 with
    | .error e => .error e
    | .ok o =>
      let v := (x.t.rdS (b.toNat + 1)).toNat
      if v / 2 ^ 20 ≠ 0 then .error engineTrap
      else .ok (s.updShop (shopOf x.n) fun y => y.setBar o (Bar.init (v % 2 ^ 16) (v / 2 ^ 16 % 8) (v / 2 ^ 19 % 2 = 1)), .next)

/-- BARA: sd is PHASE at the arrival. -/
def execBara (d : BitVec 6) (c : BitVec 5) (b : BitVec 6) : State → Host.Outcome State Fault Refusal :=
  wordStep (.bara d c b) fun x s =>
    match x.needScope s x.t.scope with
    | .error e => .error e
    | .ok () => match x.barAt s c (x.t.rdS b.toNat).toNat with
      | .error e => .error e
      | .ok o =>
        let bar := x.sh.bar o
        if !x.mayArrive bar then .error engineTrap
        else .ok ((s.updShop (shopOf x.n) fun y => y.setBar o (s.arriveAt x bar)).setTeam x.n
          (x.t.wrS d.toNat (if bar.phase then 1 else 0)), .next)

/-- BARX: bytes 1..2^27 - 1. -/
def execBarx (c : BitVec 5) (b : BitVec 6) : State → Host.Outcome State Fault Refusal :=
  wordStep (.barx c b) fun x s =>
    match x.barAt s c (x.t.rdS b.toNat).toNat with
    | .error e => .error e
    | .ok o =>
      let n := (x.t.rdS (b.toNat + 1)).toNat
      if n = 0 ∨ 2 ^ 27 ≤ n then .error engineTrap
      else .ok (s.updShop (shopOf x.n) fun y => y.setBar o ((y.bar o).adjust n), .next)

/-- End a barrier word: sd is the status. -/
def State.barReturn (s : State) (x : Ctx) (d : BitVec 6) (err : Bool) : Effect :=
  .ok ((s.setTeam x.n (x.awake.wrS d.toNat (if err then 1 else 0))).updShop (shopOf x.n) fun y => y.barDone x.n, .next)

/-- Wait at the barrier at `o` for the end of a phase, or return at once (R329). -/
def State.barWaitOn (s : State) (x : Ctx) (i : Instr) (d : BitVec 6) (o : Nat) (phase : Bool) : Effect :=
  let s1 := s.updShop (shopOf x.n) fun y => y.barBegin x.n o phase
  match (s1.shop? (shopOf x.n)).bind fun y => y.barEnded x.n with
  | some err => s1.barReturn x d err
  | none => s1.block x i phase

/-- The continuation of a BARW or BARY that waits. -/
def State.barResume (s : State) (x : Ctx) (i : Instr) (d : BitVec 6) (phase : Bool) : Effect :=
  match x.sh.barEnded x.n with
  | some err => s.barReturn x d err
  | none => s.block x i phase

/-- BARW. -/
def execBarw (d : BitVec 6) (c : BitVec 5) (b : BitVec 6) : State → Host.Outcome State Fault Refusal :=
  wordStep (.barw d c b) fun x s =>
    match x.t.wait with
    | .blocked _ p => s.barResume x (.barw d c b) d p
    | _ => match x.needScope s x.t.scope with
      | .error e => .error e
      | .ok () => match x.barAt s c (x.t.rdS b.toNat).toNat with
        | .error e => .error e
        | .ok o => s.barWaitOn x (.barw d c b) d o ((x.t.rdS (b.toNat + 1)).getLsbD 0)

/-- BARY: arrives, then waits for the phase that its arrival joined. -/
def execBary (d : BitVec 6) (c : BitVec 5) (b : BitVec 6) : State → Host.Outcome State Fault Refusal :=
  wordStep (.bary d c b) fun x s =>
    match x.t.wait with
    | .blocked _ p => s.barResume x (.bary d c b) d p
    | _ => match x.needScope s x.t.scope with
      | .error e => .error e
      | .ok () => match x.barAt s c (x.t.rdS b.toNat).toNat with
        | .error e => .error e
        | .ok o =>
          let bar := x.sh.bar o
          if !x.mayArrive bar then .error engineTrap
          else (s.updShop (shopOf x.n) fun y => y.setBar o (s.arriveAt x bar)).barWaitOn x (.bary d c b) d o bar.phase

/-! ### Queues -/

/-- A queue descriptor (R330). -/
structure QDesc where
  /-- HEAD. -/
  head : W64
  /-- TAIL. -/
  tail : W64
  /-- GRANTED. -/
  granted : Bool
  /-- CAP. -/
  cap : Nat
  /-- RING. -/
  ring : Nat
  /-- ALLOW, 32 bytes. -/
  allow : List Byte
deriving DecidableEq, Repr

/-- Read a descriptor. -/
def QDesc.read (m : Mem) (a : Nat) : QDesc :=
  { head := BitVec.ofNat 64 (bytesNat (m.read a 8)), tail := BitVec.ofNat 64 (bytesNat (m.read (a + 8) 8))
    granted := bytesNat (m.read (a + 25) 1) % 2 = 1, cap := bytesNat (m.read (a + 26) 2), ring := bytesNat (m.read (a + 28) 4)
    allow := m.read (a + 32) 32 }

/-- Its zero fields are zero. -/
def qClean (m : Mem) (a : Nat) : Bool := bytesNat (m.read (a + 16) 9) = 0 && bytesNat (m.read (a + 25) 1) / 2 = 0

/-- Its 64 bytes. -/
def QDesc.bytes (q : QDesc) : List Byte :=
  natBytes 8 q.head.toNat ++ natBytes 8 q.tail.toNat ++ natBytes 9 0 ++ natBytes 1 q.granted.toNat ++ natBytes 2 q.cap ++ natBytes 4 q.ring ++ q.allow

/-- A queue as an operation finds it: the offsets of descriptor and ring in the scratchpad, and the descriptor. RING is an
offset of the capability (log entry 14). -/
structure QPlace where
  /-- Descriptor. -/
  at_ : Nat
  /-- Ring. -/
  ring : Nat
  /-- Fields. -/
  desc : QDesc
deriving DecidableEq, Repr

/-- The checks of a ring: its span, then its fields (R331). -/
def Ctx.ringCheck (x : Ctx) (c : BitVec 5) (ring cap : Nat) (clean : Bool) : Except Trap Unit :=
  let r := x.t.rdC c.toNat
  if r.len < ring + 8 * cap then .error ⟨.bounds, 0, 7, 1, c.toNat, false, ring, wrapAddr (r.addr + ring), 0⟩
  else if cap = 0 ∨ 4096 < cap ∨ ring % 8 ≠ 0 ∨ !clean then .error engineTrap
  else .ok ()

/-- Find the queue of a word. -/
def Ctx.queueAt (x : Ctx) (s : State) (c : BitVec 5) (off : Nat) : Except Trap QPlace :=
  match x.syncAt s c off 64 with
  | .error e => .error e
  | .ok o =>
    let q := QDesc.read x.sh.spad o
    match x.ringCheck c q.ring q.cap (qClean x.sh.spad o) with
    | .error e => .error e
    | .ok () => .ok ⟨o, localOf (x.t.rdC c.toNat).addr + q.ring, q⟩

/-- Write a descriptor. -/
def State.setQueue (s : State) (shop : Nat) (o : Nat) (q : QDesc) : State :=
  s.updShop shop fun y => { y with spad := y.spad.write o q.bytes }

/-- QDEF. -/
def execQdef (c : BitVec 5) (b : BitVec 6) : State → Host.Outcome State Fault Refusal :=
  wordStep (.qdef c b) fun x s =>
    match x.syncAt s c (x.t.rdS b.toNat).toNat 64 with
    | .error e => .error e
    | .ok o =>
      let v := (x.t.rdS (b.toNat + 1)).toNat
      match x.ringCheck c (v % 2 ^ 32) (v / 2 ^ 32 % 2 ^ 16) (v / 2 ^ 48 = 0) with
      | .error e => .error e
      | .ok () => .ok (s.setQueue (shopOf x.n) o ⟨0, 0, false, v / 2 ^ 32 % 2 ^ 16, v % 2 ^ 32, List.replicate 32 0⟩, .next)

/-- QGRANT: the allowance of a team. -/
def execQgrant (t : BitVec 5) (c : BitVec 5) (b : BitVec 6) : State → Host.Outcome State Fault Refusal :=
  wordStep (.qgrant t c b) fun x s =>
    match x.queueAt s c (x.t.rdS b.toNat).toNat with
    | .error e => .error e
    | .ok p =>
      let v := (x.t.rdS (b.toNat + 1)).toNat
      if v / 2 ^ 8 ≠ 0 then .error engineTrap
      else .ok (s.setQueue (shopOf x.n) p.at_ { p.desc with granted := true, allow := p.desc.allow.set t.toNat (BitVec.ofNat 8 v) }, .next)

/-- The allowance of the issuing team. -/
def QDesc.allowOf (q : QDesc) (ix : Nat) : Nat := (q.allow.getD ix 0).toNat

/-- Whether a push by a team blocks (R332). -/
def QDesc.pushBlocks (q : QDesc) (ix : Nat) : Bool := decide (q.tail - q.head = BitVec.ofNat 64 q.cap) || (q.granted && decide (q.allowOf ix = 0))

/-- Teams blocked on a descriptor, by kind, oldest first. -/
def Shop.blockedOn (x : Shop) (o : Nat) (push : Bool) : List Nat := (x.qwait.filter fun w => w.1 = o && w.2.1 = push).map fun w => w.2.2

/-- Whether it is a team's turn: of the teams blocked before it none can proceed now, that is no popper, and no pusher but one that R332
itself still blocks (log entry 58). -/
def Shop.queueTurn (x : Shop) (q : QDesc) (o : Nat) (push : Bool) (n : Nat) : Bool :=
  ((x.blockedOn o push).takeWhile fun m => m ≠ n).all fun m => push && q.pushBlocks (teamIx m)

/-- A team leaves the list of blocked teams. -/
def State.unqueue (s : State) (x : Ctx) : State := s.updShop (shopOf x.n) fun y => { y with qwait := y.qwait.filter fun w => w.2.2 ≠ x.n }

/-- A check of a queue word that fails: its fault where the word issues; a team that has blocked stays blocked against the
new state of a redefined descriptor (R332). -/
def State.queueBad (s : State) (x : Ctx) (i : Instr) (e : Trap) : Effect := if x.t.wait = .none then .error e else s.block x i false

/-- A team blocks on a descriptor: it joins the list once. -/
def State.queueBlock (s : State) (x : Ctx) (i : Instr) (o : Nat) (push : Bool) : Effect :=
  (s.updShop (shopOf x.n) fun y =>
    if y.qwait.any fun w => w.2.2 = x.n then y else { y with qwait := y.qwait ++ [(o, push, x.n)] }).block x i false

/-- QPUSH. -/
def execQpush (d : BitVec 6) (c : BitVec 5) (b : BitVec 6) : State → Host.Outcome State Fault Refusal :=
  wordStep (.qpush d c b) fun x s =>
    match x.needScope s x.t.scope with
    | .error e => .error e
    | .ok () => match x.queueAt s c (x.t.rdS b.toNat).toNat with
      | .error e => s.queueBad x (.qpush d c b) e
      | .ok p =>
        let q := p.desc
        if q.pushBlocks (teamIx x.n) || !x.sh.queueTurn q p.at_ true x.n then s.queueBlock x (.qpush d c b) p.at_ true
        else
          let ix := teamIx x.n
          let used := q.granted && q.allowOf ix ≠ 255
          let q1 := { q with tail := q.tail + 1
                             allow := if used then q.allow.set ix (BitVec.ofNat 8 (q.allowOf ix - 1)) else q.allow }
          let slot := p.ring + 8 * (q.tail.toNat % q.cap)
          .ok ((((s.updShop (shopOf x.n) fun y => { y with spad := y.spad.write slot (natBytes 8 (x.t.rdS d.toNat).toNat) }).setQueue
            (shopOf x.n) p.at_ q1).unqueue x).setTeam x.n x.awake, .next)

/-- The handle at the head, and the queue without it. -/
def Ctx.popped (x : Ctx) (p : QPlace) : W64 × QDesc :=
  (BitVec.ofNat 64 (bytesNat (x.sh.spad.read (p.ring + 8 * (p.desc.head.toNat % p.desc.cap)) 8)), { p.desc with head := p.desc.head + 1 })

/-- QPOP. -/
def execQpop (d : BitVec 6) (c : BitVec 5) (b : BitVec 6) : State → Host.Outcome State Fault Refusal :=
  wordStep (.qpop d c b) fun x s =>
    match x.needScope s x.t.scope with
    | .error e => .error e
    | .ok () => match x.queueAt s c (x.t.rdS b.toNat).toNat with
      | .error e => s.queueBad x (.qpop d c b) e
      | .ok p =>
        if p.desc.head = p.desc.tail || !x.sh.queueTurn p.desc p.at_ false x.n then s.queueBlock x (.qpop d c b) p.at_ false
        else
          let r := x.popped p
          .ok (((s.setQueue (shopOf x.n) p.at_ r.2).unqueue x).setTeam x.n (x.awake.wrS d.toNat r.1), .next)

/-- QTRY: s(d) the handle, s(d+1) the status. -/
def execQtry (d : BitVec 6) (c : BitVec 5) (b : BitVec 6) : State → Host.Outcome State Fault Refusal :=
  wordStep (.qtry d c b) fun x s =>
    match x.needScope s x.t.scope with
    | .error e => .error e
    | .ok () => match x.queueAt s c (x.t.rdS b.toNat).toNat with
      | .error e => .error e
      | .ok p =>
        if p.desc.head = p.desc.tail then .ok (s.setTeam x.n (x.t.wrS (d.toNat + 1) 0), .next)
        else
          let r := x.popped p
          .ok ((s.setQueue (shopOf x.n) p.at_ r.2).setTeam x.n ((x.t.wrS d.toNat r.1).wrS (d.toNat + 1) 1), .next)

end Sys2Proof.Machine
end

