-- ==== Sys2Proof/Machine/Uniform.lean ====
section
/-!
DEFINITION. Uniform arithmetic with its literal forms (R211, R259, R260), PLEN (R58) and the lane-mask words (R261).
-/

namespace Sys2Proof.Machine

/-- sd := g(d, a, b) on 64-bit values. -/
def sOp (i : Instr) (d a : BitVec 6) (b : SSrc) (g : W64 → W64 → W64 → W64) : State → Host.Outcome State Fault Refusal :=
  teamStep i fun x => .ok (x.t.wrS d.toNat (g (x.t.rdS d.toNat) (x.t.rdS a.toNat) (x.t.ssrc b)))

/-- SADD. -/
def execSadd (d a b : BitVec 6) : State → Host.Outcome State Fault Refusal := sOp (.sadd d a b) d a (.s b) fun _ x y => x + y
/-- SSUB. -/
def execSsub (d a b : BitVec 6) : State → Host.Outcome State Fault Refusal := sOp (.ssub d a b) d a (.s b) fun _ x y => x - y
/-- SMUL. -/
def execSmul (d a b : BitVec 6) : State → Host.Outcome State Fault Refusal := sOp (.smul d a b) d a (.s b) fun _ x y => x * y
/-- SAND. -/
def execSand (d a b : BitVec 6) : State → Host.Outcome State Fault Refusal := sOp (.sand d a b) d a (.s b) fun _ x y => x &&& y
/-- SOR. -/
def execSor (d a b : BitVec 6) : State → Host.Outcome State Fault Refusal := sOp (.sor d a b) d a (.s b) fun _ x y => x ||| y
/-- SXOR. -/
def execSxor (d a b : BitVec 6) : State → Host.Outcome State Fault Refusal := sOp (.sxor d a b) d a (.s b) fun _ x y => x ^^^ y
/-- SSHL. -/
def execSshl (d a b : BitVec 6) : State → Host.Outcome State Fault Refusal := sOp (.sshl d a b) d a (.s b) fun _ x y => x <<< (y.toNat % 64)
/-- SSHR. -/
def execSshr (d a b : BitVec 6) : State → Host.Outcome State Fault Refusal := sOp (.sshr d a b) d a (.s b) fun _ x y => x >>> (y.toNat % 64)
/-- SADD with a literal. -/
def execSaddLit (d a : BitVec 6) (h : BitVec 4) (lit : W32) : State → Host.Outcome State Fault Refusal :=
  sOp (.saddLit d a h lit) d a (.lit lit) fun _ x y => x + y
/-- SSUB with a literal. -/
def execSsubLit (d a : BitVec 6) (h : BitVec 4) (lit : W32) : State → Host.Outcome State Fault Refusal :=
  sOp (.ssubLit d a h lit) d a (.lit lit) fun _ x y => x - y
/-- SMUL with a literal. -/
def execSmulLit (d a : BitVec 6) (h : BitVec 4) (lit : W32) : State → Host.Outcome State Fault Refusal :=
  sOp (.smulLit d a h lit) d a (.lit lit) fun _ x y => x * y
/-- SAND with a literal. -/
def execSandLit (d a : BitVec 6) (h : BitVec 4) (lit : W32) : State → Host.Outcome State Fault Refusal :=
  sOp (.sandLit d a h lit) d a (.lit lit) fun _ x y => x &&& y
/-- SOR with a literal. -/
def execSorLit (d a : BitVec 6) (h : BitVec 4) (lit : W32) : State → Host.Outcome State Fault Refusal :=
  sOp (.sorLit d a h lit) d a (.lit lit) fun _ x y => x ||| y
/-- SXOR with a literal. -/
def execSxorLit (d a : BitVec 6) (h : BitVec 4) (lit : W32) : State → Host.Outcome State Fault Refusal :=
  sOp (.sxorLit d a h lit) d a (.lit lit) fun _ x y => x ^^^ y
/-- SSHL with a literal. -/
def execSshlLit (d a : BitVec 6) (h : BitVec 4) (lit : W32) : State → Host.Outcome State Fault Refusal :=
  sOp (.sshlLit d a h lit) d a (.lit lit) fun _ x y => x <<< (y.toNat % 64)
/-- SSHR with a literal. -/
def execSshrLit (d a : BitVec 6) (h : BitVec 4) (lit : W32) : State → Host.Outcome State Fault Refusal :=
  sOp (.sshrLit d a h lit) d a (.lit lit) fun _ x y => x >>> (y.toNat % 64)

/-- SCMP: the condition is cond[3..2] in `x` and cond[1..0] in `y` (R260). -/
def execScmp (x : BitVec 2) (d : BitVec 6) (y : BitVec 2) (a b : BitVec 6) : State → Host.Outcome State Fault Refusal :=
  sOp (.scmp x d y a b) d a (.s b) fun _ u w => if scmpCond (x.toNat * 4 + y.toNat) u w then 1 else 0
/-- SCMP with a literal. -/
def execScmpLit (x : BitVec 2) (d : BitVec 6) (y : BitVec 2) (a : BitVec 6) (h : BitVec 4) (lit : W32) : State → Host.Outcome State Fault Refusal :=
  sOp (.scmpLit x d y a h lit) d a (.lit lit) fun _ u w => if scmpCond (x.toNat * 4 + y.toNat) u w then 1 else 0
/-- SSEL: d is read before the write. -/
def execSsel (d a b : BitVec 6) : State → Host.Outcome State Fault Refusal := sOp (.ssel d a b) d a (.s b) fun o x y => if o ≠ 0 then x else y
/-- SMOV. -/
def execSmov (d a : BitVec 6) (h : BitVec 4) : State → Host.Outcome State Fault Refusal := sOp (.smov d a h) d a (.s a) fun _ x _ => x
/-- SMOVL: the literal, sign-extended. -/
def execSmovl (d : BitVec 6) (h : BitVec 4) (lit : W32) : State → Host.Outcome State Fault Refusal :=
  sOp (.smovl d h lit) d 0 (.lit lit) fun _ _ y => y
/-- PLEN: the largest representable length not above a (R58). -/
def execPlen (d a : BitVec 6) (h : BitVec 4) : State → Host.Outcome State Fault Refusal :=
  sOp (.plen d a h) d a (.s a) fun _ x _ => BitVec.ofNat 64 (plen x.toNat)

/-! ### Lane masks (R261) -/

/-- kd := m(a, b) over lanes 0..L-1. -/
def kOp (i : Instr) (d : BitVec 3) (g : Team → Nat → Mask) : State → Host.Outcome State Fault Refusal :=
  teamStep i fun x => .ok (x.t.wrK x.sh.lanes d.toNat (g x.t x.sh.lanes))

/-- KAND. -/
def execKand (d a b : BitVec 3) : State → Host.Outcome State Fault Refusal := kOp (.kand d a b) d fun t _ => t.rdK a.toNat &&& t.rdK b.toNat
/-- KOR. -/
def execKor (d a b : BitVec 3) : State → Host.Outcome State Fault Refusal := kOp (.kor d a b) d fun t _ => t.rdK a.toNat ||| t.rdK b.toNat
/-- KXOR. -/
def execKxor (d a b : BitVec 3) : State → Host.Outcome State Fault Refusal := kOp (.kxor d a b) d fun t _ => t.rdK a.toNat ^^^ t.rdK b.toNat
/-- KANDN. -/
def execKandn (d a b : BitVec 3) : State → Host.Outcome State Fault Refusal := kOp (.kandn d a b) d fun t _ => t.rdK a.toNat &&& ~~~(t.rdK b.toNat)
/-- KNOT. -/
def execKnot (d a : BitVec 3) (h : BitVec 4) : State → Host.Outcome State Fault Refusal := kOp (.knot d a h) d fun t _ => ~~~(t.rdK a.toNat)
/-- KMOV. -/
def execKmov (d a : BitVec 3) (h : BitVec 4) : State → Host.Outcome State Fault Refusal := kOp (.kmov d a h) d fun t _ => t.rdK a.toNat
/-- KSPLIT: the min(b, KPOP a) lowest set lanes of a. -/
def execKsplit (d a : BitVec 3) (b : BitVec 6) : State → Host.Outcome State Fault Refusal :=
  kOp (.ksplit d a b) d fun t lanes =>
    ((lanesOf (t.rdK a.toNat) lanes).take (t.rdS b.toNat).toNat).foldl (fun m l => m ||| 1#1024 <<< l) 0
/-- KPOP. -/
def execKpop (d : BitVec 6) (a : BitVec 3) (h : BitVec 4) : State → Host.Outcome State Fault Refusal :=
  teamStep (.kpop d a h) fun x => .ok (x.t.wrS d.toNat (BitVec.ofNat 64 (maskCount (x.t.rdK a.toNat) x.sh.lanes)))
/-- KFST. -/
def execKfst (d : BitVec 6) (a : BitVec 3) (h : BitVec 4) : State → Host.Outcome State Fault Refusal :=
  teamStep (.kfst d a h) fun x => .ok (x.t.wrS d.toNat (match lanesOf (x.t.rdK a.toNat) x.sh.lanes with
    | l :: _ => BitVec.ofNat 64 l
    | [] => BitVec.allOnes 64))

end Sys2Proof.Machine
end

