-- ==== Sys2Proof/Machine/Dispatch.lean ====
section
/-!
DEFINITION. One arm per constructor of Instr: a direct call of its meaning.
-/

namespace Sys2Proof.Machine

/-- Execute one word or step. -/
def exec (i : Instr) (s : State) : Host.Outcome State Fault Refusal :=
  match i with
  | .ill d a b => Sys2Proof.Machine.execIll d a b s
  | .nop h => Sys2Proof.Machine.execNop h s
  | .bra imm => Sys2Proof.Machine.execBra imm s
  | .bany k imm => Sys2Proof.Machine.execBany k imm s
  | .ball k imm => Sys2Proof.Machine.execBall k imm s
  | .bnone k imm => Sys2Proof.Machine.execBnone k imm s
  | .brs r imm => Sys2Proof.Machine.execBrs r imm s
  | .brsZ r imm => Sys2Proof.Machine.execBrsZ r imm s
  | .jmp r h => Sys2Proof.Machine.execJmp r h s
  | .call d imm => Sys2Proof.Machine.execCall d imm s
  | .ret r h => Sys2Proof.Machine.execRet r h s
  | .rep r l => Sys2Proof.Machine.execRep r l s
  | .loopb k l => Sys2Proof.Machine.execLoopb k l s
  | .exit h => Sys2Proof.Machine.execExit h s
  | .endTeam h => Sys2Proof.Machine.execEndTeam h s
  | .yield n h => Sys2Proof.Machine.execYield n h s
  | .yieldc t c a b => Sys2Proof.Machine.execYieldc t c a b s
  | .setm r h => Sys2Proof.Machine.execSetm r h s
  | .getm d h => Sys2Proof.Machine.execGetm d h s
  | .setpri n => Sys2Proof.Machine.execSetpri n s
  | .role n => Sys2Proof.Machine.execRole n s
  | .join n => Sys2Proof.Machine.execJoin n s
  | .leave n => Sys2Proof.Machine.execLeave n s
  | .trap v => Sys2Proof.Machine.execTrap v s
  | .bkpt v => Sys2Proof.Machine.execBkpt v s
  | .eret h => Sys2Proof.Machine.execEret h s
  | .rdsr d n => Sys2Proof.Machine.execRdsr d n s
  | .wrsr n r h => Sys2Proof.Machine.execWrsr n r h s
  | .seedr a h => Sys2Proof.Machine.execSeedr a h s
  | .waitc l r c t => Sys2Proof.Machine.execWaitc l r c t s
  | .monarm c r => Sys2Proof.Machine.execMonarm c r s
  | .monwait d a h => Sys2Proof.Machine.execMonwait d a h s
  | .barw d c b => Sys2Proof.Machine.execBarw d c b s
  | .bary d c b => Sys2Proof.Machine.execBary d c b s
  | .mwait d a h => Sys2Proof.Machine.execMwait d a h s
  | .revoke d c h => Sys2Proof.Machine.execRevoke d c h s
  | .sweepq d h => Sys2Proof.Machine.execSweepq d h s
  | .kand d a b => Sys2Proof.Machine.execKand d a b s
  | .kor d a b => Sys2Proof.Machine.execKor d a b s
  | .kxor d a b => Sys2Proof.Machine.execKxor d a b s
  | .kandn d a b => Sys2Proof.Machine.execKandn d a b s
  | .knot d a h => Sys2Proof.Machine.execKnot d a h s
  | .kmov d a h => Sys2Proof.Machine.execKmov d a h s
  | .kpop d a h => Sys2Proof.Machine.execKpop d a h s
  | .kfst d a h => Sys2Proof.Machine.execKfst d a h s
  | .ksplit d a b => Sys2Proof.Machine.execKsplit d a b s
  | .add d a b => Sys2Proof.Machine.execAdd d a b s
  | .adds d a b => Sys2Proof.Machine.execAdds d a b s
  | .sub d a b => Sys2Proof.Machine.execSub d a b s
  | .mul d a b => Sys2Proof.Machine.execMul d a b s
  | .mulh d a b => Sys2Proof.Machine.execMulh d a b s
  | .mad d a b => Sys2Proof.Machine.execMad d a b s
  | .min d a b => Sys2Proof.Machine.execMin d a b s
  | .max d a b => Sys2Proof.Machine.execMax d a b s
  | .abs d a h => Sys2Proof.Machine.execAbs d a h s
  | .neg d a h => Sys2Proof.Machine.execNeg d a h s
  | .and d a b => Sys2Proof.Machine.execAnd d a b s
  | .or d a b => Sys2Proof.Machine.execOr d a b s
  | .xor d a b => Sys2Proof.Machine.execXor d a b s
  | .andn d a b => Sys2Proof.Machine.execAndn d a b s
  | .not d a h => Sys2Proof.Machine.execNot d a h s
  | .shl d a b => Sys2Proof.Machine.execShl d a b s
  | .shr d a b => Sys2Proof.Machine.execShr d a b s
  | .sha d a b => Sys2Proof.Machine.execSha d a b s
  | .rot d a b => Sys2Proof.Machine.execRot d a b s
  | .cmp c d a b => Sys2Proof.Machine.execCmp c d a b s
  | .sel d a b => Sys2Proof.Machine.execSel d a b s
  | .mov d a h => Sys2Proof.Machine.execMov d a h s
  | .popc d a h => Sys2Proof.Machine.execPopc d a h s
  | .clz d a h => Sys2Proof.Machine.execClz d a h s
  | .ctz d a h => Sys2Proof.Machine.execCtz d a h s
  | .fns d a b => Sys2Proof.Machine.execFns d a b s
  | .brev d a h => Sys2Proof.Machine.execBrev d a h s
  | .bfx d a b => Sys2Proof.Machine.execBfx d a b s
  | .bfi d a b => Sys2Proof.Machine.execBfi d a b s
  | .cvt d a t => Sys2Proof.Machine.execCvt d a t s
  | .cvtn d a f => Sys2Proof.Machine.execCvtn d a f s
  | .packn d a f => Sys2Proof.Machine.execPackn d a f s
  | .unpkn d a f => Sys2Proof.Machine.execUnpkn d a f s
  | .fadd d a b => Sys2Proof.Machine.execFadd d a b s
  | .fsub d a b => Sys2Proof.Machine.execFsub d a b s
  | .fmul d a b => Sys2Proof.Machine.execFmul d a b s
  | .fma d a b => Sys2Proof.Machine.execFma d a b s
  | .fmal d a b => Sys2Proof.Machine.execFmal d a b s
  | .fmin d a b => Sys2Proof.Machine.execFmin d a b s
  | .fmax d a b => Sys2Proof.Machine.execFmax d a b s
  | .fminn d a b => Sys2Proof.Machine.execFminn d a b s
  | .fmaxn d a b => Sys2Proof.Machine.execFmaxn d a b s
  | .fabs d a h => Sys2Proof.Machine.execFabs d a h s
  | .fneg d a h => Sys2Proof.Machine.execFneg d a h s
  | .fcmp c d a b => Sys2Proof.Machine.execFcmp c d a b s
  | .fclass d a h => Sys2Proof.Machine.execFclass d a h s
  | .frnd d a h => Sys2Proof.Machine.execFrnd d a h s
  | .fscale d a b => Sys2Proof.Machine.execFscale d a b s
  | .fdivs d a b => Sys2Proof.Machine.execFdivs d a b s
  | .frcp d a h => Sys2Proof.Machine.execFrcp d a h s
  | .frsq d a h => Sys2Proof.Machine.execFrsq d a h s
  | .fsqrt d a h => Sys2Proof.Machine.execFsqrt d a h s
  | .fexp2 d a h => Sys2Proof.Machine.execFexp2 d a h s
  | .flog2 d a h => Sys2Proof.Machine.execFlog2 d a h s
  | .fsin d a h => Sys2Proof.Machine.execFsin d a h s
  | .fcos d a h => Sys2Proof.Machine.execFcos d a h s
  | .ftanh d a h => Sys2Proof.Machine.execFtanh d a h s
  | .bsini q a h => Sys2Proof.Machine.execBsini q a h s
  | .bsrd d q b => Sys2Proof.Machine.execBsrd d q b s
  | .bspk d q b => Sys2Proof.Machine.execBspk d q b s
  | .bssk q b h => Sys2Proof.Machine.execBssk q b h s
  | .bsld q c h => Sys2Proof.Machine.execBsld q c h s
  | .bspos d q h => Sys2Proof.Machine.execBspos d q h s
  | .shflIdx d a b => Sys2Proof.Machine.execShflIdx d a b s
  | .shflUp d a imm => Sys2Proof.Machine.execShflUp d a imm s
  | .shflDn d a imm => Sys2Proof.Machine.execShflDn d a imm s
  | .shflXor d a imm => Sys2Proof.Machine.execShflXor d a imm s
  | .voteAny d a b => Sys2Proof.Machine.execVoteAny d a b s
  | .voteAll d a b => Sys2Proof.Machine.execVoteAll d a b s
  | .ballot d a b => Sys2Proof.Machine.execBallot d a b s
  | .rsum d a b => Sys2Proof.Machine.execRsum d a b s
  | .rmin d a b => Sys2Proof.Machine.execRmin d a b s
  | .rmax d a b => Sys2Proof.Machine.execRmax d a b s
  | .scanAdd d a b => Sys2Proof.Machine.execScanAdd d a b s
  | .bcast d a b => Sys2Proof.Machine.execBcast d a b s
  | .laneid d h => Sys2Proof.Machine.execLaneid d h s
  | .movs d a h => Sys2Proof.Machine.execMovs d a h s
  | .sadd d a b => Sys2Proof.Machine.execSadd d a b s
  | .ssub d a b => Sys2Proof.Machine.execSsub d a b s
  | .smul d a b => Sys2Proof.Machine.execSmul d a b s
  | .sand d a b => Sys2Proof.Machine.execSand d a b s
  | .sor d a b => Sys2Proof.Machine.execSor d a b s
  | .sxor d a b => Sys2Proof.Machine.execSxor d a b s
  | .sshl d a b => Sys2Proof.Machine.execSshl d a b s
  | .sshr d a b => Sys2Proof.Machine.execSshr d a b s
  | .scmp x d y a b => Sys2Proof.Machine.execScmp x d y a b s
  | .ssel d a b => Sys2Proof.Machine.execSsel d a b s
  | .smov d a h => Sys2Proof.Machine.execSmov d a h s
  | .plen d a h => Sys2Proof.Machine.execPlen d a h s
  | .ld d m o => Sys2Proof.Machine.execLd d m o s
  | .ldv d c o => Sys2Proof.Machine.execLdv d c o s
  | .ldu d c o => Sys2Proof.Machine.execLdu d c o s
  | .ldw d m o => Sys2Proof.Machine.execLdw d m o s
  | .st d m o => Sys2Proof.Machine.execSt d m o s
  | .stv d c o => Sys2Proof.Machine.execStv d c o s
  | .stu d c o => Sys2Proof.Machine.execStu d c o s
  | .stn d m o => Sys2Proof.Machine.execStn d m o s
  | .ldq q m o => Sys2Proof.Machine.execLdq q m o s
  | .stq q m o => Sys2Proof.Machine.execStq q m o s
  | .ldAcq d m o => Sys2Proof.Machine.execLdAcq d m o s
  | .stRel d m o => Sys2Proof.Machine.execStRel d m o s
  | .prf l m o => Sys2Proof.Machine.execPrf l m o s
  | .dead l c o => Sys2Proof.Machine.execDead l c o s
  | .atom p n r c o => Sys2Proof.Machine.execAtom p n r c o s
  | .atomu p m r c o => Sys2Proof.Machine.execAtomu p m r c o s
  | .red p n r c o => Sys2Proof.Machine.execRed p n r c o s
  | .mcas d c h => Sys2Proof.Machine.execMcas d c h s
  | .fence m r => Sys2Proof.Machine.execFence m r s
  | .qfence q => Sys2Proof.Machine.execQfence q s
  | .pbound d a b => Sys2Proof.Machine.execPbound d a b s
  | .pboundv q a b => Sys2Proof.Machine.execPboundv q a b s
  | .pperm d a b => Sys2Proof.Machine.execPperm d a b s
  | .pform d a b => Sys2Proof.Machine.execPform d a b s
  | .plock d a b => Sys2Proof.Machine.execPlock d a b s
  | .punlock d a h => Sys2Proof.Machine.execPunlock d a h s
  | .pinfo d a f => Sys2Proof.Machine.execPinfo d a f s
  | .pwithin d a b => Sys2Proof.Machine.execPwithin d a b s
  | .psame d a b => Sys2Proof.Machine.execPsame d a b s
  | .pmov d a h => Sys2Proof.Machine.execPmov d a h s
  | .cmdmk d a h => Sys2Proof.Machine.execCmdmk d a h s
  | .cmdmkL d a h => Sys2Proof.Machine.execCmdmkL d a h s
  | .deleg d a b => Sys2Proof.Machine.execDeleg d a b s
  | .cpy d a g => Sys2Proof.Machine.execCpy d a g s
  | .cpyt d a g => Sys2Proof.Machine.execCpyt d a g s
  | .cpyg d a g => Sys2Proof.Machine.execCpyg d a g s
  | .cpys d a g => Sys2Proof.Machine.execCpys d a g s
  | .cpyb d a g => Sys2Proof.Machine.execCpyb d a g s
  | .cpym d a g => Sys2Proof.Machine.execCpym d a g s
  | .go a g => Sys2Proof.Machine.execGo a g s
  | .bari c b => Sys2Proof.Machine.execBari c b s
  | .bara d c b => Sys2Proof.Machine.execBara d c b s
  | .barx c b => Sys2Proof.Machine.execBarx c b s
  | .qdef c b => Sys2Proof.Machine.execQdef c b s
  | .qpush d c b => Sys2Proof.Machine.execQpush d c b s
  | .qpop d c b => Sys2Proof.Machine.execQpop d c b s
  | .qtry d c b => Sys2Proof.Machine.execQtry d c b s
  | .qgrant t c b => Sys2Proof.Machine.execQgrant t c b s
  | .mloadb l c b => Sys2Proof.Machine.execMloadb l c b s
  | .msub imm n w => Sys2Proof.Machine.execMsub imm n w s
  | .munsub imm h => Sys2Proof.Machine.execMunsub imm h s
  | .mpub n c b => Sys2Proof.Machine.execMpub n c b s
  | .mma l t c b => Sys2Proof.Machine.execMma l t c b s
  | .mmas l t c b => Sys2Proof.Machine.execMmas l t c b s
  | .mfence d h => Sys2Proof.Machine.execMfence d h s
  | .mepi k t c b => Sys2Proof.Machine.execMepi k t c b s
  | .mclr t h => Sys2Proof.Machine.execMclr t h s
  | .mrel imm h => Sys2Proof.Machine.execMrel imm h s
  | .mstat d r => Sys2Proof.Machine.execMstat d r s
  | .nspawn g a r => Sys2Proof.Machine.execNspawn g a r s
  | .mlred d a g => Sys2Proof.Machine.execMlred d a g s
  | .mstm d a g => Sys2Proof.Machine.execMstm d a g s
  | .grpmk d a h => Sys2Proof.Machine.execGrpmk d a h s
  | .grpq d a r => Sys2Proof.Machine.execGrpq d a r s
  | .rsq d a b => Sys2Proof.Machine.execRsq d a b s
  | .movl d h lit => Sys2Proof.Machine.execMovl d h lit s
  | .smovl d h lit => Sys2Proof.Machine.execSmovl d h lit s
  | .setml h lit => Sys2Proof.Machine.execSetml h lit s
  | .addLit d a h lit => Sys2Proof.Machine.execAddLit d a h lit s
  | .subLit d a h lit => Sys2Proof.Machine.execSubLit d a h lit s
  | .mulLit d a h lit => Sys2Proof.Machine.execMulLit d a h lit s
  | .andLit d a h lit => Sys2Proof.Machine.execAndLit d a h lit s
  | .orLit d a h lit => Sys2Proof.Machine.execOrLit d a h lit s
  | .xorLit d a h lit => Sys2Proof.Machine.execXorLit d a h lit s
  | .shlLit d a h lit => Sys2Proof.Machine.execShlLit d a h lit s
  | .shrLit d a h lit => Sys2Proof.Machine.execShrLit d a h lit s
  | .shaLit d a h lit => Sys2Proof.Machine.execShaLit d a h lit s
  | .minLit d a h lit => Sys2Proof.Machine.execMinLit d a h lit s
  | .maxLit d a h lit => Sys2Proof.Machine.execMaxLit d a h lit s
  | .cmpLit c d a h lit => Sys2Proof.Machine.execCmpLit c d a h lit s
  | .faddLit d a h lit => Sys2Proof.Machine.execFaddLit d a h lit s
  | .fmulLit d a h lit => Sys2Proof.Machine.execFmulLit d a h lit s
  | .fmaLit d a h lit => Sys2Proof.Machine.execFmaLit d a h lit s
  | .saddLit d a h lit => Sys2Proof.Machine.execSaddLit d a h lit s
  | .ssubLit d a h lit => Sys2Proof.Machine.execSsubLit d a h lit s
  | .smulLit d a h lit => Sys2Proof.Machine.execSmulLit d a h lit s
  | .sandLit d a h lit => Sys2Proof.Machine.execSandLit d a h lit s
  | .sorLit d a h lit => Sys2Proof.Machine.execSorLit d a h lit s
  | .sxorLit d a h lit => Sys2Proof.Machine.execSxorLit d a h lit s
  | .sshlLit d a h lit => Sys2Proof.Machine.execSshlLit d a h lit s
  | .sshrLit d a h lit => Sys2Proof.Machine.execSshrLit d a h lit s
  | .scmpLit x d y a h lit => Sys2Proof.Machine.execScmpLit x d y a h lit s
  | .deadline => Sys2Proof.Machine.execDeadline s
  | .agingBoost t => Sys2Proof.Machine.execAgingBoost t s
  | .roleUnpark shop => Sys2Proof.Machine.execRoleUnpark shop s
  | .yieldcResume t => Sys2Proof.Machine.execYieldcResume t s
  | .monitorWake t => Sys2Proof.Machine.execMonitorWake t s
  | .monitorPoll t ans => Sys2Proof.Machine.execMonitorPoll t ans s
  | .loadDataReturn t => Sys2Proof.Machine.execLoadDataReturn t s
  | .storeAck t => Sys2Proof.Machine.execStoreAck t s
  | .mcasLockGrant t => Sys2Proof.Machine.execMcasLockGrant t s
  | .deadComplete t => Sys2Proof.Machine.execDeadComplete t s
  | .qtailWrite fn q tail => Sys2Proof.Machine.execQtailWrite fn q tail s
  | .launchAccept fn q => Sys2Proof.Machine.execLaunchAccept fn q s
  | .dispatch launch node core priv => Sys2Proof.Machine.execDispatch launch node core priv s
  | .pressing launch node => Sys2Proof.Machine.execPressing launch node s
  | .teamStart shop => Sys2Proof.Machine.execTeamStart shop s
  | .instanceComplete shop => Sys2Proof.Machine.execInstanceComplete shop s
  | .starvationPreempt shop => Sys2Proof.Machine.execStarvationPreempt shop s
  | .preemptSave shop base => Sys2Proof.Machine.execPreemptSave shop base s
  | .drain core => Sys2Proof.Machine.execDrain core s
  | .shopMigrate shop core => Sys2Proof.Machine.execShopMigrate shop core s
  | .copyComplete id ans => Sys2Proof.Machine.execCopyComplete id ans s
  | .copyError id code done => Sys2Proof.Machine.execCopyError id code done s
  | .distributorDelivery id => Sys2Proof.Machine.execDistributorDelivery id s
  | .matrixPerform t => Sys2Proof.Machine.execMatrixPerform t s
  | .mepiComplete t ok => Sys2Proof.Machine.execMepiComplete t ok s
  | .lehrSweep => Sys2Proof.Machine.execLehrSweep s
  | .lehrPassComplete => Sys2Proof.Machine.execLehrPassComplete s
  | .remotePassReceive owner ranges => Sys2Proof.Machine.execRemotePassReceive owner ranges s
  | .remotePassAck peer => Sys2Proof.Machine.execRemotePassAck peer s
  | .lehrRemoteTimeout peer => Sys2Proof.Machine.execLehrRemoteTimeout peer s
  | .fullClearance owner => Sys2Proof.Machine.execFullClearance owner s
  | .rejoinNotice peer => Sys2Proof.Machine.execRejoinNotice peer s
  | .inboundRequest f => Sys2Proof.Machine.execInboundRequest f s
  | .response seq ans => Sys2Proof.Machine.execResponse seq ans s
  | .fabricTimeout seq => Sys2Proof.Machine.execFabricTimeout seq s
  | .flitReplay r => Sys2Proof.Machine.execFlitReplay r s
  | .portDown port => Sys2Proof.Machine.execPortDown port s
  | .portRetrain port => Sys2Proof.Machine.execPortRetrain port s
  | .groupSetupComplete id gid => Sys2Proof.Machine.execGroupSetupComplete id gid s
  | .mlredComplete id ans => Sys2Proof.Machine.execMlredComplete id ans s
  | .mstmComplete id ans => Sys2Proof.Machine.execMstmComplete id ans s
  | .gatewayMessage m => Sys2Proof.Machine.execGatewayMessage m s
  | .reshardPlanStart die ans => Sys2Proof.Machine.execReshardPlanStart die ans s
  | .reshardBlockComplete die ans err => Sys2Proof.Machine.execReshardBlockComplete die ans err s
  | .hostSnoopInvalidate half => Sys2Proof.Machine.execHostSnoopInvalidate half s
  | .hostSnoopShare half => Sys2Proof.Machine.execHostSnoopShare half s
  | .hostLineFill half owned data => Sys2Proof.Machine.execHostLineFill half owned data s
  | .l2Evict line => Sys2Proof.Machine.execL2Evict line s
  | .hostBar2Write fn off data => Sys2Proof.Machine.execHostBar2Write fn off data s
  | .hostBar2Read fn off n => Sys2Proof.Machine.execHostBar2Read fn off n s
  | .qctlEnable fn q => Sys2Proof.Machine.execQctlEnable fn q s
  | .qctlReset fn q => Sys2Proof.Machine.execQctlReset fn q s
  | .instcmdGo fn g codeix => Sys2Proof.Machine.execInstcmdGo fn g codeix s
  | .instcmdClear fn codeix => Sys2Proof.Machine.execInstcmdClear fn codeix s
  | .installComplete fn place => Sys2Proof.Machine.execInstallComplete fn place s
  | .devid id => Sys2Proof.Machine.execDevid id s
  | .fband fn band => Sys2Proof.Machine.execFband fn band s
  | .expset word clear => Sys2Proof.Machine.execExpset word clear s
  | .registerWrite r v => Sys2Proof.Machine.execRegisterWrite r v s
  | .powerOnReset => Sys2Proof.Machine.execPowerOnReset s
  | .bootVerify => Sys2Proof.Machine.execBootVerify s
  | .correctedError => Sys2Proof.Machine.execCorrectedError s
  | .uncorrectableError p => Sys2Proof.Machine.execUncorrectableError p s
  | .channelRetire stack channel => Sys2Proof.Machine.execChannelRetire stack channel s
  | .channelRebuildComplete stack group => Sys2Proof.Machine.execChannelRebuildComplete stack group s
  | .powerThrottle core => Sys2Proof.Machine.execPowerThrottle core s
  | .getVersion fn => Sys2Proof.Machine.execGetVersion fn s
  | .getCapabilities fn => Sys2Proof.Machine.execGetCapabilities fn s
  | .negotiateAlgorithms fn => Sys2Proof.Machine.execNegotiateAlgorithms fn s
  | .getDigests fn => Sys2Proof.Machine.execGetDigests fn s
  | .getCertificate fn => Sys2Proof.Machine.execGetCertificate fn s
  | .challenge fn nonce => Sys2Proof.Machine.execChallenge fn nonce s
  | .getMeasurements fn index => Sys2Proof.Machine.execGetMeasurements fn index s
  | .unspecifiedWakeUp t => Sys2Proof.Machine.execUnspecifiedWakeUp t s

end Sys2Proof.Machine
end

