-- ==== Sys2Proof/Machine/Sched.lean ====
section
/-!
DEFINITION. What a step of the device is (log entry 2): the issue of a word by a team (R103 to R107, R179, R190), the
engine and gaffer steps that need nothing from outside, and the order in which the model takes them when nothing else has
been asked for.
-/

namespace Sys2Proof.Machine

/-! ### The issue of a word -/

/-- A team that may issue its next word (R103). -/
def State.readyTeam (s : State) (n : Nat) : Bool :=
  match s.ctx? n with
  | some x => x.sh.runs && !x.t.ended && x.t.wait = .none
  | none => false

/-- The kinds of pipe of a core (R9). -/
inductive Pipe where
  /-- Uniform/control. -/
  | uniform
  /-- Memory/engine. -/
  | memory
  /-- Vector. -/
  | vector
  /-- Special-function, of a V-core. -/
  | special
  /-- Bit-stream unit, of a V-core. -/
  | stream
deriving DecidableEq, Repr

/-- The pipe that serves an opcode (R9, R11, R225, R309); words for which no rule names one are placed by what they do (log entry
171). -/
def pipeOf (onV : Bool) (op : Nat) : Pipe :=
  if 0x61 ≤ op ∧ op ≤ 0x68 then (if onV then .special else .vector)
  else if 0x69 ≤ op ∧ op ≤ 0x6E ∧ op ≠ 0x6D then (if onV then .stream else .vector)
  else if op = 0x6D ∨ (0x1F ≤ op ∧ op ≤ 0x21) ∨ (0x90 ≤ op ∧ op ≤ 0xA3) ∨ (0xB0 ≤ op ∧ op ≤ 0xCF) then .memory
  else if op = 0x1B ∨ (0x30 ≤ op ∧ op ≤ 0x7D) ∨ op = 0xD0 ∨ (0xD3 ≤ op ∧ op ≤ 0xE1) then .vector
  else .uniform

/-- The numbers of the pipes of a kind on a core (R9): an M-core has two vector pipes and a V-core four. -/
def Pipe.units (onV : Bool) : Pipe → List Nat
  | .uniform => [0]
  | .memory => [1]
  | .vector => if onV then [2, 5, 6, 7] else [2, 5]
  | .special => [3]
  | .stream => [4]

/-- The opcode at PC. -/
def State.opAt (s : State) (x : Ctx) : Nat := (s.codeWord x x.t.pc.toNat).toNat / 2 ^ 24

/-- The issue slots that can decide on a team's next word: one for each pipe of its kind (R103). -/
def State.slotsOf (s : State) (x : Ctx) : List Nat := ((pipeOf x.sh.onV (s.opAt x)).units x.sh.onV).map fun u => 8 * x.sh.core + u

/-- The slot that decides when the team issues now: the next in turn of those (log entry 171). -/
def State.slotOf (s : State) (x : Ctx) : Nat := (nextAbove s.lastSlot (s.slotsOf x)).getD 0

/-- Whether a word is guarded, and so issues one pass for each mask word (R86, R87): LDQ, STQ and PMOV in their quad forms alone (R275,
R285). -/
def guardedOp (onV : Bool) (word : Nat) : Bool :=
  let op := word / 2 ^ 24
  let quad : Bool := 128 ≤ word / 2 ^ 16 % 256
  match pipeOf onV op with
  | .uniform => op = 0xA5 || (op = 0xAD && quad)
  | .memory => op = 0x6D || (0x90 ≤ op && op ≤ 0x9E && op ≠ 0x92 && op ≠ 0x96 && op ≠ 0x9D && ((op ≠ 0x98 && op ≠ 0x99) || quad)) || op = 0xA0
  | _ => op ≠ 0x7B

/-- Mask words of a mask that are not empty. -/
def maskWords (m : Mask) : Nat := ((List.range 32).filter fun w => m.extractLsb' (32 * w) 32 ≠ 0).length

/-- The decisions that a team's next word takes in its slot: one for each pass of a guarded word, SEL by k0 (R231), and of a pair under S =
64 both passes (R90); one for any other word. -/
def State.decisions (s : State) (x : Ctx) : Nat :=
  let op := s.opAt x
  if !guardedOp x.sh.onV (s.codeWord x x.t.pc.toNat).toNat then 1
  else
    let m := if op = 0x44 then x.t.rdK 0 else x.exec
    if x.sh.span = 64 ∧ 0x70 ≤ op ∧ op ≤ 0x7A then
      2 * ((List.range 16).filter fun w => m.extractLsb' (64 * w) 64 ≠ 0).length
    else maskWords m

/-- The priority of a team's next decision. -/
def Team.priNow (t : Team) : Nat := if t.aged then 15 else t.pri.toNat

/-- Count the decisions of an issue (R105): the issuing team's aging count is reset; those of the ready teams that need that slot grow. A
team of higher priority had no operands available then, or the slot would have picked it (R103). -/
def State.countIssue (s : State) (x : Ctx) : State :=
  let slot := s.slotOf x
  { s with lastSlot := slot, rr := Sparse.set 0 s.rr slot x.n
           teams := s.teams.map fun e =>
             if e.1 = x.n then (e.1, { e.2 with aging := 0, aged := false })
             else if s.readyTeam e.1 && decide (e.2.priNow ≤ x.t.priNow) && (s.ctx? e.1).any fun y => (s.slotsOf y).contains slot then
               (e.1, { e.2 with aging := e.2.aging + s.decisions x })
             else e }

/-- The free choices that the fetch of a word takes are used up (R199). -/
def State.fetched (s : State) (x : Ctx) : State :=
  if s.overwritten x x.t.pc.toNat || s.overwritten x (x.t.pc.toNat + 4) then { s with fresh := s.fresh + 2 } else s

/-- The state in which the word at PC executes: one word of the deadline is used (R106), and what ERET and YIELD left for
one word is gone (R109, R183). -/
def State.beginWord (s : State) (n : Nat) : State :=
  s.updTeam n fun t => { t with dlleft := t.dlleft - 1, noBreak := false, yielded := false }

/-- Issue the next word of a team in the order of R179: BREAK, DEADLINE, the fetch and decoding, then the word. -/
def State.issueWord (s : State) (x : Ctx) (late : Bool) : Host.Outcome State Fault Refusal :=
  let n := x.n
  let s0 := (s.countIssue x).fetched x
  let raw := s.rawWord x
  match x.t.breakBefore with
  | some (t, e) => .next ((s0.updTeam n fun y => { y with bkctl := t.bkctl }).takeFault n e raw.1 raw.2)
  | none =>
    if x.t.dlleft = 0 then execDeadline { s0 with cur := some n }
    else
      let s1 := s0.beginWord n
      match s.fetch x with
      | .error e => .next (s1.takeFault n e raw.1 raw.2)
      | .ok i => exec i { s1 with cur := some n, late := late }

/-- Let a team issue: its next word, or again the blocking word in which it waits. -/
def State.issue (s : State) (n : Nat) (late : Bool) : Host.Outcome State Fault Refusal :=
  match s.ctx? n with
  | none => .fault .noTeam
  | some x =>
    if x.t.ended || !x.sh.runs then .fault .notReady
    else match x.t.wait with
      | .none => s.issueWord x late
      | .blocked i _ => exec i { s with cur := some n, late := late }
      | _ => .fault .notReady

/-! ### Choosing a team (R103, R105) -/

/-- The ready teams, with the issue slots that can take them. -/
def State.readyTeams (s : State) : List (Nat × List Nat) :=
  ((s.teams.map Prod.fst).filter s.readyTeam).map fun n => (n, ((s.ctx? n).map s.slotsOf).getD [])

/-- The team that issues next: slots in turn; in a slot the highest PRI, ties round-robin in team order (R103). -/
def State.pickTeam (s : State) : Option Nat :=
  let ready := s.readyTeams
  match nextAbove s.lastSlot (ready.flatMap Prod.snd) with
  | none => none
  | some slot =>
    let here := (ready.filter fun p => p.2.contains slot).map Prod.fst
    let pri (n : Nat) : Nat := ((s.team? n).map Team.priNow).getD 0
    let top := (here.map pri).foldl max 0
    nextAbove (Sparse.get 0 s.rr slot) (here.filter fun n => pri n = top)

/-! ### Steps that need nothing from outside -/

/-- An event with its operands, as a step. -/
abbrev Act := State → Host.Outcome State Fault Refusal

/-- The first of a list of steps that the device can take now. -/
def State.firstStep (s : State) : List Act → Option State
  | [] => none
  | i :: is => match i s with
    | .next s1 => some s1
    | _ => s.firstStep is

/-- Steps of teams' outstanding operations. -/
def State.teamSteps (s : State) : List Act :=
  s.teams.flatMap fun e => [execStoreAck e.1, execDeadComplete e.1, execLoadDataReturn e.1, execMcasLockGrant e.1, execYieldcResume e.1, execMatrixPerform e.1,
    execMepiComplete e.1 true]

/-- Steps of commands: a copy ends well, or with the error that the state itself holds. -/
def State.cmdSteps (s : State) : List Act :=
  s.cmds.flatMap fun c => [execCopyComplete c.id [], execDistributorDelivery c.id] ++ match c.body with
    | .copy src dst ms _ =>
      if s.movesReserved c.shop src dst ms then [execCopyError c.id 0x82 (Config.freeChoice s.fresh)]
      else if s.isInput c && s.movesPoison c.shop src ms [] then [execCopyError c.id 0x80 (Config.freeChoice s.fresh)] else []
    | .ownerGo src dst ms _ _ _ => if s.movesReserved c.shop src dst ms then [execCopyError c.id 0x82 (Config.freeChoice s.fresh)] else []
    | .multi _ _ _ _ _ _ => [execCopyError c.id 0x84 0]
    | _ => []

/-- The dispatch that a gaffer can make now. -/
def State.dispatchStep (s : State) (r : Ready) : List Act :=
  match s.entryNode r, (List.range 288).find? (s.mayDispatch r) with
  | some (l, nd), some core =>
    let a := localOf l.privWin.toNat
    [execDispatch r.launch r.node core
      (if r.shop.isSome then [] else freePlaces (privBytes nd.ppw nd.lanes) a (a + l.privLen.toNat) nd.teams s.privRegions)]
  | _, _ => []

/-- The save of a shop that is being pre-empted, in its own context area. -/
def saveStep (shop : Nat) (x : Shop) : List Act := if x.phase = .preempting then [execPreemptSave shop x.ctx] else []

/-- A migration off a draining core. -/
def State.moveStep (s : State) (shop : Nat) (x : Shop) : List Act :=
  if s.draining.contains x.core then
    (match (List.range 288).find? (s.movesTo x) with
      | some core => [execShopMigrate shop core]
      | none => [execStarvationPreempt shop])
  else []

/-- Steps of shops, launches and the lehr. -/
def State.gafferSteps (s : State) : List Act :=
  (s.shops.flatMap fun e => [execRoleUnpark e.1, execTeamStart e.1, execInstanceComplete e.1] ++ saveStep e.1 e.2 ++ s.moveStep e.1 e.2) ++
    [execLehrSweep, execLehrPassComplete] ++ ([0, 1].flatMap fun d => [execReshardPlanStart d [], execReshardBlockComplete d [] none]) ++
    (s.funcs.flatMap fun e => (List.range 17).map fun q => execLaunchAccept e.1 q) ++ s.poolOrder.flatMap s.dispatchStep

/-- A blocking word whose wait can end now, issued again. -/
def State.retry (s : State) : List Nat → Option State
  | [] => none
  | n :: ns =>
    match s.team? n, s.issue n false with
    | some t, .next s1 =>
      (match t.wait with
      | .blocked _ _ => if ((s1.team? n).map Team.wait) = some t.wait then s.retry ns else some s1
      | _ => s.retry ns)
    | _, _ => s.retry ns

/-- The step that the model takes by itself: bring-up; then whatever engines and gaffer can do; then a wait that can end;
then the next word of a team; and when nothing can happen, time passes, until a starved shop is pre-empted. -/
def State.ownStep (s : State) : Host.Outcome State Fault Refusal :=
  if s.boot = .loading then execBootVerify s
  else match s.firstStep (s.teamSteps ++ s.cmdSteps ++ s.gafferSteps) with
    | some s1 => .next s1
    | none => match s.retry (s.teams.map Prod.fst) with
      | some s1 => .next s1
      | none => match s.firstStep (s.teams.map fun e => execAgingBoost e.1) with
        | some s1 => .next s1
        | none => match s.pickTeam with
          | some n => s.issue n false
          | none => .next ((s.firstStep (s.shops.map fun e => execStarvationPreempt e.1)).getD s)

/-- Granules of a command's payload that are visible before it completes (R172): `i` is the completion that would write them, with what peers
have answered. -/
def State.progress (s : State) (i : Instr) (bits : Nat) : State :=
  match i with
  | .copyComplete id ans => s.copyProgress id ans bits
  | .mlredComplete id ans => s.mlredProgress id ans bits
  | .mstmComplete id ans => s.mstmProgress id ans bits
  | _ => s

/-! ### Placing a word -/

/-- Store the bytes of an instruction where a team fetches its next word, and let that team issue next. -/
def State.placeWord (s : State) (n : Nat) (bs : List Byte) : State :=
  match s.ctx? n with
  | some x =>
    let a := x.codeAt x.t.pc.toNat
    { (s.writeAt a bs).updShop (shopOf n) fun y => { y with image := Sparse.setList 0 y.image a bs } with agenda := [.issue n false] }
  | none => s

/-- The team that fetches next; from reset, the boot team over an image of one instruction (log entry 2). -/
def State.fetcher (s : State) : State × Nat :=
  match s.pickTeam with
  | some n => (s, n)
  | none => (s.startBoot 8, 32 * s.nextShop)

end Sys2Proof.Machine
end

