-- ==== Sys2Proof/Machine/Step.lean ====
section
/-!
DEFINITION. One step of the device, and a word placed where the next step fetches it.
-/

namespace Sys2Proof.Machine

/-- One step: what the agenda asks for first, else the model's own order (log entry 2). -/
def step (s : State) : Host.Outcome State Fault Refusal :=
  match s.agenda with
  | .event i :: rest => exec i { s with agenda := rest, cur := none }
  | .issue n late :: rest => ({ s with agenda := rest } : State).issue n late
  | .progress i bits :: rest => .next (({ s with agenda := rest } : State).progress i bits)
  | .hostRest fn off data :: rest => execHostBar2Write fn off data { s with agenda := rest, cur := none }
  | [] => s.ownStep

/-- The state with an instruction placed where the next step fetches: the words as the opcode table numbers them, zeros
above `nbits`. From reset this stands for the boot ROM's load of an image that begins with the instruction. -/
def State.withFetchWord (s : State) (nbits w : Nat) : State :=
  s.fetcher.1.placeWord s.fetcher.2 (natBytes 8 (w % 2 ^ nbits))

end Sys2Proof.Machine
end

