-- ==== Sys2Proof/Safety.lean ====
section
/-!
DEFINITION. The terms in which statements about the machine are made: when a word issues, the state after a word, what a
word leaves alone, and the invariant of memory.
-/

namespace Sys2Proof.Machine

/-- The word `i` issues in the context `x`: a team that runs is issuing, it waits for nothing, the word passes the checks
that the word alone decides (R204), an active loop does not refuse it (R267), and a matrix word is not on a V-core (R10). -/
def Issues (i : Instr) (s : State) (x : Ctx) : Prop :=
  s.cur = some x.n ∧ s.team? x.n = some x.t ∧ s.shop? (shopOf x.n) = some x.sh ∧ x.t.ended = false ∧ x.t.wait = .none ∧
    WellFormed i = true ∧ loopRefuses x.t.loop x.t.pc i = false ∧ (x.sh.onV = true → isMatrixOp (encodeNat i / 2 ^ 24) = false)

/-- The word `i` issues again in the wait that it began. -/
def Reissues (i : Instr) (s : State) (x : Ctx) (phase : Bool) : Prop :=
  s.cur = some x.n ∧ s.team? x.n = some x.t ∧ s.shop? (shopOf x.n) = some x.sh ∧ x.t.ended = false ∧ x.t.wait = .blocked i phase ∧
    WellFormed i = true ∧ loopRefuses x.t.loop x.t.pc i = false ∧ (x.sh.onV = true → isMatrixOp (encodeNat i / 2 ^ 24) = false)

/-- The state when the issue of `i` ends with the team `t`, which goes on as `f` says: nothing but the issuing team and the
model's own mark of the issuer differ from `s`. -/
def State.afterWord (s : State) (x : Ctx) (i : Instr) (t : Team) (f : Flow) : State :=
  (s.setTeam x.n t).settle x.n x.sh.lanes i f

/-- Whether lane `l` is written by a word of the context `x`: below L and in the execution mask (R85, R86). -/
def Ctx.liveLane (x : Ctx) (l : Nat) : Prop := l < x.sh.lanes ∧ x.exec.getLsbD l = true

/-- What a word that writes vector registers leaves alone: every register of a lane that `w` does not name keeps its value,
the tag of a quad is lost where a register of it is written and kept elsewhere (R62), and the rest of the team is as it was,
the lane generators apart. -/
def VectorFrame (t t' : Team) (w : Nat → Nat → Prop) : Prop :=
  (∀ l r, r < 256 → ¬ w l r → t'.rdV l r = t.rdV l r) ∧
  (∀ l q, q < 64 → (∀ r, r / 4 = q → ¬ w l r) → Sparse.get false t'.vtag (l * 64 + q) = Sparse.get false t.vtag (l * 64 + q)) ∧
  (∀ l r, r < 256 → w l r → Sparse.get false t'.vtag (l * 64 + r / 4) = false) ∧
  { t' with v := t.v, vtag := t.vtag, gen := t.gen } = t

/-- The registers of the operand at `d`: one, or the pair under a 64-bit TYPE (R201). -/
def operandRegs (wide : Bool) (d r : Nat) : Prop := r = d ∨ (wide = true ∧ r = d + 1)

/-- A v operand is allotted, and an even pair under a 64-bit TYPE (R94, R201). -/
def regOk (x : Ctx) (wide : Bool) (r : Nat) : Prop :=
  if wide then r % 2 = 0 ∧ r + 1 < x.t.allot else r < x.t.allot

/-- The HBM holds its canonical form: addresses rise, and nothing listed equals what an unlisted address reads as. -/
def State.memWf (s : State) : Prop := s.mem.wf = true

end Sys2Proof.Machine
end

