-- ==== Sys2Proof/Certificates/Slice0/Obligations.lean ====
section
/-!
DEFINITION. The statements about the machine. A statement of a word's effect gives the exact state after it: a word that
issues (`Issues`) answers that state, so what it leaves alone is part of the statement.
-/

namespace Sys2Proof.Claims
end Sys2Proof.Claims

open Sys2Proof Sys2Proof.Machine Sys2Proof.Claims

/-! ### Uniform and mask words (R58, R83, R230, R256, R259 to R261) -/

namespace Sys2Proof.Claims

open Sys2Proof.Machine

/-- The verdict of an SCMP condition code (R260); the codes stop at 9. -/
def scmpHolds (c : Nat) (a b : W64) : Bool :=
  if c = 0 then a == b else if c = 1 then a != b
  else if c = 2 then a.slt b else if c = 3 then a.sle b
  else if c = 4 then b.slt a else if c = 5 then b.sle a
  else if c = 6 then a.ult b else if c = 7 then a.ule b
  else if c = 8 then b.ult a else b.ule a

/-- The destination and the result of a uniform arithmetic word (R259) on the registers of a team. -/
def uniformResult (t : Team) : Instr → Option (BitVec 6 × W64)
  | .sadd d a b => some (d, t.rdS a.toNat + t.rdS b.toNat)
  | .ssub d a b => some (d, t.rdS a.toNat - t.rdS b.toNat)
  | .smul d a b => some (d, t.rdS a.toNat * t.rdS b.toNat)
  | .sand d a b => some (d, t.rdS a.toNat &&& t.rdS b.toNat)
  | .sor d a b => some (d, t.rdS a.toNat ||| t.rdS b.toNat)
  | .sxor d a b => some (d, t.rdS a.toNat ^^^ t.rdS b.toNat)
  | .sshl d a b => some (d, t.rdS a.toNat <<< (t.rdS b.toNat % 64))
  | .sshr d a b => some (d, t.rdS a.toNat >>> (t.rdS b.toNat % 64))
  | .saddLit d a _ l => some (d, t.rdS a.toNat + l.signExtend 64)
  | .ssubLit d a _ l => some (d, t.rdS a.toNat - l.signExtend 64)
  | .smulLit d a _ l => some (d, t.rdS a.toNat * l.signExtend 64)
  | .sandLit d a _ l => some (d, t.rdS a.toNat &&& l.signExtend 64)
  | .sorLit d a _ l => some (d, t.rdS a.toNat ||| l.signExtend 64)
  | .sxorLit d a _ l => some (d, t.rdS a.toNat ^^^ l.signExtend 64)
  | .sshlLit d a _ l => some (d, t.rdS a.toNat <<< (l.signExtend 64 % 64))
  | .sshrLit d a _ l => some (d, t.rdS a.toNat >>> (l.signExtend 64 % 64))
  | .scmp x d y a b => some (d, if scmpHolds (4 * x.toNat + y.toNat) (t.rdS a.toNat) (t.rdS b.toNat) then 1 else 0)
  | .scmpLit x d y a _ l => some (d, if scmpHolds (4 * x.toNat + y.toNat) (t.rdS a.toNat) (l.signExtend 64) then 1 else 0)
  | .ssel d a b => some (d, if t.rdS d.toNat = 0 then t.rdS b.toNat else t.rdS a.toNat)
  | .smov d a _ => some (d, t.rdS a.toNat)
  | .smovl d _ l => some (d, l.signExtend 64)
  | _ => none

/-- The destination and the value of each lane of a mask word (R261) in a shop of `lanes` lanes. -/
def maskResult (t : Team) (lanes : Nat) : Instr → Option (BitVec 3 × (Nat → Bool))
  | .kand d a b => some (d, fun l => (t.rdK a.toNat).getLsbD l && (t.rdK b.toNat).getLsbD l)
  | .kor d a b => some (d, fun l => (t.rdK a.toNat).getLsbD l || (t.rdK b.toNat).getLsbD l)
  | .kxor d a b => some (d, fun l => (t.rdK a.toNat).getLsbD l != (t.rdK b.toNat).getLsbD l)
  | .kandn d a b => some (d, fun l => (t.rdK a.toNat).getLsbD l && !(t.rdK b.toNat).getLsbD l)
  | .knot d a _ => some (d, fun l => !(t.rdK a.toNat).getLsbD l)
  | .kmov d a _ => some (d, fun l => (t.rdK a.toNat).getLsbD l)
  | .ksplit d a b => some (d, fun l => (t.rdK a.toNat).getLsbD l &&
      decide (((List.range l).countP fun j => decide (j < lanes) && (t.rdK a.toNat).getLsbD j) < (t.rdS b.toNat).toNat))
  | _ => none

/-- What a mask word writes: the lane bits of its k register below L, zeros above, and nothing else. -/
def maskWritten (t t' : Team) (lanes : Nat) (d : BitVec 3) (f : Nat → Bool) : Prop :=
  (∀ l, l < 1024 → (t'.rdK d.toNat).getLsbD l = (decide (l < lanes) && f l)) ∧
    (∀ r, r ≠ d.toNat → t'.rdK r = t.rdK r) ∧ { t' with kreg := t.kreg } = t

end Sys2Proof.Claims

/-- Every uniform arithmetic word and its literal form writes the result that the table of R259 gives, with the conditions
of R260, into its destination, and changes nothing else. PLEN writes the largest representable length that does not exceed its source (R58, R259). The words that compute a mask write its lane bits as R261 says, and change nothing else of the team. KPOP counts the set lanes of its source, and KFST gives the lowest of them or all ones (R261). -/
def Obligations.UniformAndMaskWords : Prop :=
  (∀ (i : Instr) (s : State) (x : Ctx) (d : BitVec 6) (v : W64), Issues i s x → uniformResult x.t i = some (d, v) →
    exec i s = .next (s.afterWord x i (x.t.wrS d.toNat v) .next)) ∧
  (∀ (d a : BitVec 6) (h : BitVec 4) (s : State) (x : Ctx), Issues (.plen d a h) s x → ∃ n : Nat,
    exec (.plen d a h) s = .next (s.afterWord x (.plen d a h) (x.t.wrS d.toNat (BitVec.ofNat 64 n)) .next) ∧
    n ≤ (x.t.rdS a.toNat).toNat ∧ (lenFields n).isSome ∧
    ∀ m, m ≤ (x.t.rdS a.toNat).toNat → (lenFields m).isSome → m ≤ n) ∧
  (∀ (i : Instr) (s : State) (x : Ctx) (d : BitVec 3) (f : Nat → Bool), Issues i s x → maskResult x.t x.sh.lanes i = some (d, f) →
    ∃ t', exec i s = .next (s.afterWord x i t' .next) ∧ maskWritten x.t t' x.sh.lanes d f) ∧
  (∀ (d : BitVec 6) (a : BitVec 3) (h : BitVec 4) (s : State) (x : Ctx), Issues (.kpop d a h) s x →
    exec (.kpop d a h) s = .next (s.afterWord x (.kpop d a h)
      (x.t.wrS d.toNat (BitVec.ofNat 64 ((List.range x.sh.lanes).countP fun l => (x.t.rdK a.toNat).getLsbD l))) .next)) ∧
  (∀ (d : BitVec 6) (a : BitVec 3) (h : BitVec 4) (s : State) (x : Ctx) (l : Nat), Issues (.kfst d a h) s x →
    l < x.sh.lanes → (x.t.rdK a.toNat).getLsbD l = true → (∀ j, j < l → (x.t.rdK a.toNat).getLsbD j = false) →
    exec (.kfst d a h) s = .next (s.afterWord x (.kfst d a h) (x.t.wrS d.toNat (BitVec.ofNat 64 l)) .next)) ∧
  (∀ (d : BitVec 6) (a : BitVec 3) (h : BitVec 4) (s : State) (x : Ctx), Issues (.kfst d a h) s x →
    (∀ j, j < x.sh.lanes → (x.t.rdK a.toNat).getLsbD j = false) →
    exec (.kfst d a h) s = .next (s.afterWord x (.kfst d a h) (x.t.wrS d.toNat (BitVec.allOnes 64)) .next))


/-! ### Integer, bit and move words of lanes (R85, R86, R211, R221, R226 to R231, R248, R249, R258) -/

namespace Sys2Proof.Claims

open Sys2Proof.Machine

/-- A v source exists; uniform registers and literals always do (R94, R201). -/
def srcOk (x : Ctx) (wide : Bool) : VSrc → Prop
  | .v r => regOk x wide r.toNat
  | _ => True

/-- The word answers a team in which `P` holds of each live lane and of the value of its destination operand, the operand's
registers in live lanes are the only ones that change, and no generator moves. -/
def writesLanes (i : Instr) (s : State) (x : Ctx) (wide : Bool) (d : BitVec 8) (P : Nat → Nat → Prop) : Prop :=
  ∃ t', exec i s = .next (s.afterWord x i t' .next) ∧ VectorFrame x.t t' (fun l r => x.liveLane l ∧ operandRegs wide d.toNat r) ∧
    t'.gen = x.t.gen ∧ ∀ l, x.liveLane l → P l (t'.rdW wide l d.toNat)

/-- A guarded word d := f(d, a, b): the TYPEs that it accepts, its operands, and what the result has to be. -/
structure LaneForm where
  /-- Accepted TYPEs. -/
  types : List Ty
  /-- Destination. -/
  d : BitVec 8
  /-- First source. -/
  a : BitVec 8
  /-- Second source; a word with one source names it twice. -/
  b : VSrc
  /-- The old destination, the sources and the result, as the bits of the operand. -/
  result : Ty → Nat → Nat → Nat → Nat → Prop

/-- Each element is the low w bits of an integer function of the elements, read by the signedness of the TYPE. -/
def byInt (f : Nat → Int → Int → Int → Int) (ty : Ty) (d a b y : Nat) : Prop :=
  ∀ j, j < ty.count → elemOf ty.width y j = wrapInt ty.width (f ty.width
    (intValue ty.signed ty.width (elemOf ty.width d j)) (intValue ty.signed ty.width (elemOf ty.width a j))
    (intValue ty.signed ty.width (elemOf ty.width b j)))

/-- Each element is a function of the elements of two sources as w-bit words. -/
def byWord (f : (w : Nat) → BitVec w → BitVec w → BitVec w) (ty : Ty) (_ a b y : Nat) : Prop :=
  ∀ j, j < ty.count → elemOf ty.width y j =
    (f ty.width (BitVec.ofNat ty.width (elemOf ty.width a j)) (BitVec.ofNat ty.width (elemOf ty.width b j))).toNat

/-- Each bit of the operand is a function of the bits of two sources. -/
def byBit (f : Bool → Bool → Bool) (ty : Ty) (_ a b y : Nat) : Prop :=
  ∀ k, k < (if ty.wide then 64 else 32) → y.testBit k = f (a.testBit k) (b.testBit k)

/-- The sets INT, BITS and WIDE of R222, and every TYPE. -/
def intTypes : List Ty := [.i32, .n32, .i64, .n64, .i16x2, .n16x2, .i8x4, .n8x4]
/-- INT with b32 and b64. -/
def bitsTypes : List Ty := intTypes ++ [.b32, .b64]
/-- Element groups of one integer. -/
def wideTypes : List Ty := [.i32, .n32, .i64, .n64, .b32, .b64]
/-- Every assigned TYPE. -/
def anyTypes : List Ty := bitsTypes ++ [.f32, .f64, .bf16x2, .f16x2]
/-- The signed integer TYPEs. -/
def signedTypes : List Ty := [.i32, .i64, .i16x2, .i8x4]

/-- The forms of R226 and R227, with the literal forms of R211. -/
def arithForm : Instr → Option LaneForm
  | .add d a b => some ⟨intTypes, d, a, .v b, byInt fun _ _ x y => x + y⟩
  | .addLit d a _ l => some ⟨intTypes, d, a, .lit l, byInt fun _ _ x y => x + y⟩
  | .adds d a b => some ⟨intTypes, d, a, .s b, byInt fun _ _ x y => x + y⟩
  | .sub d a b => some ⟨intTypes, d, a, .v b, byInt fun _ _ x y => x - y⟩
  | .subLit d a _ l => some ⟨intTypes, d, a, .lit l, byInt fun _ _ x y => x - y⟩
  | .mul d a b => some ⟨intTypes, d, a, .v b, byInt fun _ _ x y => x * y⟩
  | .mulLit d a _ l => some ⟨intTypes, d, a, .lit l, byInt fun _ _ x y => x * y⟩
  | .mulh d a b => some ⟨intTypes, d, a, .v b, byInt fun w _ x y => (x * y).fdiv (2 ^ w)⟩
  | .mad d a b => some ⟨intTypes, d, a, .v b, byInt fun _ z x y => x * y + z⟩
  | .min d a b => some ⟨intTypes, d, a, .v b, byInt fun _ _ x y => if x ≤ y then x else y⟩
  | .minLit d a _ l => some ⟨intTypes, d, a, .lit l, byInt fun _ _ x y => if x ≤ y then x else y⟩
  | .max d a b => some ⟨intTypes, d, a, .v b, byInt fun _ _ x y => if x ≥ y then x else y⟩
  | .maxLit d a _ l => some ⟨intTypes, d, a, .lit l, byInt fun _ _ x y => if x ≥ y then x else y⟩
  | .abs d a _ => some ⟨signedTypes, d, a, .v a, byInt fun _ _ x _ => if x < 0 then -x else x⟩
  | .neg d a _ => some ⟨intTypes, d, a, .v a, byInt fun _ _ x _ => -x⟩
  | _ => none

/-- The shifts of R228, the bitwise words and moves of R229 and MOVS of R258. -/
def bitForm : Instr → Option LaneForm
  | .shl d a b => some ⟨bitsTypes, d, a, .v b, byWord fun w x c => x <<< (c.toNat % w)⟩
  | .shlLit d a _ l => some ⟨bitsTypes, d, a, .lit l, byWord fun w x c => x <<< (c.toNat % w)⟩
  | .shr d a b => some ⟨bitsTypes, d, a, .v b, byWord fun w x c => x >>> (c.toNat % w)⟩
  | .shrLit d a _ l => some ⟨bitsTypes, d, a, .lit l, byWord fun w x c => x >>> (c.toNat % w)⟩
  | .sha d a b => some ⟨bitsTypes, d, a, .v b, byWord fun w x c => x.sshiftRight (c.toNat % w)⟩
  | .shaLit d a _ l => some ⟨bitsTypes, d, a, .lit l, byWord fun w x c => x.sshiftRight (c.toNat % w)⟩
  | .rot d a b => some ⟨bitsTypes, d, a, .v b, byWord fun w x c => x.rotateLeft (c.toNat % w)⟩
  | .and d a b => some ⟨anyTypes, d, a, .v b, byBit fun x y => x && y⟩
  | .andLit d a _ l => some ⟨anyTypes, d, a, .lit l, byBit fun x y => x && y⟩
  | .or d a b => some ⟨anyTypes, d, a, .v b, byBit fun x y => x || y⟩
  | .orLit d a _ l => some ⟨anyTypes, d, a, .lit l, byBit fun x y => x || y⟩
  | .xor d a b => some ⟨anyTypes, d, a, .v b, byBit fun x y => x != y⟩
  | .xorLit d a _ l => some ⟨anyTypes, d, a, .lit l, byBit fun x y => x != y⟩
  | .andn d a b => some ⟨anyTypes, d, a, .v b, byBit fun x y => x && !y⟩
  | .not d a _ => some ⟨anyTypes, d, a, .v a, byBit fun x _ => !x⟩
  | .mov d a _ => some ⟨anyTypes, d, a, .v a, byBit fun x _ => x⟩
  | _ => none

/-- The length of the field that BFX and BFI name (R249). -/
def fieldLength (w b : Nat) : Nat := if b % 256 ≥ w then 0 else min (b / 256 % 256) (w - b % 256)

/-- The words of R248 and R249. -/
def countForm : Instr → Option LaneForm
  | .popc d a _ => some ⟨wideTypes, d, a, .v a, fun ty _ x _ y => y = (List.range ty.width).countP fun k => x.testBit k⟩
  | .clz d a _ => some ⟨wideTypes, d, a, .v a, fun ty _ x _ y =>
      if x = 0 then y = ty.width else y < ty.width ∧ x.testBit (ty.width - 1 - y) ∧ ∀ k, ty.width - 1 - y < k → x.testBit k = false⟩
  | .ctz d a _ => some ⟨wideTypes, d, a, .v a, fun ty _ x _ y =>
      if x = 0 then y = ty.width else x.testBit y ∧ ∀ k, k < y → x.testBit k = false⟩
  | .fns d a b => some ⟨wideTypes, d, a, .v b, fun ty _ x n y =>
      if (List.range ty.width).countP (fun k => x.testBit k) ≤ n % 2 ^ 32 then y = 0xFFFFFFFF
      else x.testBit y ∧ (List.range y).countP (fun k => x.testBit k) = n % 2 ^ 32⟩
  | .brev d a _ => some ⟨wideTypes, d, a, .v a, fun ty _ x _ y => ∀ k, k < ty.width → y.testBit k = x.testBit (ty.width - 1 - k)⟩
  | .bfx d a b => some ⟨wideTypes, d, a, .v b, fun ty _ x f y =>
      let n := fieldLength ty.width f
      ∀ k, k < ty.width → y.testBit k = if k < n then x.testBit (f % 256 + k) else ty.signed && decide (0 < n) && x.testBit (f % 256 + n - 1)⟩
  | .bfi d a b => some ⟨wideTypes, d, a, .v b, fun ty z x f y =>
      let n := fieldLength ty.width f
      ∀ k, k < ty.width → y.testBit k = if f % 256 ≤ k ∧ k < f % 256 + n then x.testBit (k - f % 256) else z.testBit k⟩
  | _ => none

/-- Every word of a table of forms, issued under a TYPE of its set with operands that exist, writes in each live lane a
result that its form admits, and nothing else. -/
def formsHold (form : Instr → Option LaneForm) : Prop :=
  ∀ (i : Instr) (s : State) (x : Ctx) (F : LaneForm) (ty : Ty), Issues i s x → form i = some F → x.t.ty? = some ty → ty ∈ F.types →
    regOk x ty.wide F.d.toNat → regOk x ty.wide F.a.toNat → srcOk x ty.wide F.b →
    writesLanes i s x ty.wide F.d fun l y =>
      F.result ty (x.t.rdW ty.wide l F.d.toNat) (x.t.rdW ty.wide l F.a.toNat) (x.t.src ty l F.b) y

end Sys2Proof.Claims

/-- Integer arithmetic of lanes (R226, R227): every word of the table and its literal form gives, in each lane of the
execution mask and for each element, its integer result modulo 2^w; every other register, mask, capability and all of
memory keep their values. Shifts, bitwise words and MOV of lanes likewise, with their
literal forms (R228, R229). -/
def Obligations.IntegerArithmeticOfLanes : Prop := formsHold arithForm ∧ formsHold bitForm

/-- Bit counts, positions, reversal and fields (R248, R249). -/
def Obligations.BitOperationsOfLanes : Prop := formsHold countForm

/-- MOVL writes its literal, MOVS its uniform register and LANEID the lane number into each live lane (R211, R229, R258);
MOVL's and MOVS's TYPE says whether a register or a pair is written. That a NaN literal widens under f64 as a conversion, to the canonical NaN,
is the model's choice (log entry 27). -/
def Obligations.MovesIntoLanes : Prop :=
  (∀ (d : BitVec 8) (h : BitVec 4) (lit : W32) (s : State) (x : Ctx) (ty : Ty), Issues (.movl d h lit) s x → x.t.ty? = some ty →
    regOk x ty.wide d.toNat → writesLanes (.movl d h lit) s x ty.wide d fun _ y => y =
      if ty = .i64 then (lit.signExtend 64).toNat
      else if ty = .f64 then FloatFmt.b64.encode .rne 0 false (FloatFmt.b32.decode lit.toNat) else lit.toNat) ∧
  (∀ (d : BitVec 8) (a : BitVec 6) (h : BitVec 4) (s : State) (x : Ctx) (ty : Ty), Issues (.movs d a h) s x → x.t.ty? = some ty →
    regOk x ty.wide d.toNat → writesLanes (.movs d a h) s x ty.wide d fun _ y =>
      y = if ty.wide then (x.t.rdS a.toNat).toNat else (x.t.rdS a.toNat).toNat % 2 ^ 32) ∧
  (∀ (d : BitVec 8) (h : BitVec 4) (s : State) (x : Ctx), Issues (.laneid d h) s x → regOk x false d.toNat → x.sh.lanes ≤ 1024 →
    writesLanes (.laneid d h) s x false d fun l y => y = l)

/-- SEL is not guarded: each lane of k0 receives a where it is in the execution mask and b elsewhere, and lanes that have
exited keep d (R231). -/
def Obligations.SelWritesEveryLiveLane : Prop :=
  ∀ (d a b : BitVec 8) (s : State) (x : Ctx) (ty : Ty), Issues (.sel d a b) s x → x.t.ty? = some ty →
    regOk x ty.wide d.toNat → regOk x ty.wide a.toNat → regOk x ty.wide b.toNat →
    ∃ t', exec (.sel d a b) s = .next (s.afterWord x (.sel d a b) t' .next) ∧
      VectorFrame x.t t' (fun l r => l < x.sh.lanes ∧ (x.t.rdK 0).getLsbD l = true ∧ operandRegs ty.wide d.toNat r) ∧ t'.gen = x.t.gen ∧
      ∀ l, l < x.sh.lanes → (x.t.rdK 0).getLsbD l = true →
        t'.rdW ty.wide l d.toNat = if x.exec.getLsbD l then x.t.rdW ty.wide l a.toNat else x.t.rdW ty.wide l b.toNat

/-- CMP and FCMP write one bit for each live lane and keep the others; signedness follows the TYPE, and a NaN is unordered
(R86, R230, R238). A destination of k0 raises ILLEGAL_FIELD. -/
def Obligations.ComparesWriteTheirLaneBits : Prop :=
  (∀ (c d : BitVec 3) (a : BitVec 8) (src : VSrc) (i : Instr) (s : State) (x : Ctx) (ty : Ty),
    ((∃ b, src = .v b ∧ i = .cmp c d a b) ∨ (∃ h l, src = .lit l ∧ i = .cmpLit c d a h l)) →
    Issues i s x → x.t.ty? = some ty → ty ∈ wideTypes → regOk x ty.wide a.toNat → srcOk x ty.wide src →
    ∃ t', exec i s = .next (s.afterWord x i t' .next) ∧ maskWritten x.t t' x.sh.lanes d fun l =>
      if x.exec.getLsbD l then
        let u := intValue ty.signed ty.width (x.t.rdW ty.wide l a.toNat)
        let w := intValue ty.signed ty.width (x.t.src ty l src)
        if c = 0 then u == w else if c = 1 then u != w else if c = 2 then decide (u < w) else if c = 3 then decide (u ≤ w)
        else if c = 4 then decide (u > w) else decide (u ≥ w)
      else (x.t.rdK d.toNat).getLsbD l) ∧
  (∀ (c d : BitVec 3) (a b : BitVec 8) (s : State) (x : Ctx) (ty : Ty),
    Issues (.fcmp c d a b) s x → x.t.ty? = some ty → (ty = .f32 ∨ ty = .f64) → regOk x ty.wide a.toNat → regOk x ty.wide b.toNat →
    ∃ t', exec (.fcmp c d a b) s = .next (s.afterWord x (.fcmp c d a b) t' .next) ∧ maskWritten x.t t' x.sh.lanes d fun l =>
      if x.exec.getLsbD l then
        let u := ty.flt.flush x.t.ftz (x.t.rdW ty.wide l a.toNat)
        let w := ty.flt.flush x.t.ftz (x.t.rdW ty.wide l b.toNat)
        if ty.flt.isNan u || ty.flt.isNan w then c == 1 || c == 6
        else if c = 0 then ty.flt.key u == ty.flt.key w else if c = 1 then ty.flt.key u != ty.flt.key w
        else if c = 2 then decide (ty.flt.key u < ty.flt.key w) else if c = 3 then decide (ty.flt.key u ≤ ty.flt.key w)
        else if c = 4 then decide (ty.flt.key u > ty.flt.key w) else if c = 5 then decide (ty.flt.key u ≥ ty.flt.key w)
        else c == 7
      else (x.t.rdK d.toNat).getLsbD l) ∧
  (∀ (c : BitVec 3) (a b : BitVec 8), WellFormed (.cmp c 0 a b) = false ∧ WellFormed (.fcmp c 0 a b) = false)

/-! ### Float words, conversions and the generator (R36 to R41, R232 to R247, R407) -/

namespace Sys2Proof.Claims

open Sys2Proof.Machine

/-- One step of a lane generator (R38). -/
def genStep (x : W32) : W32 :=
  let a := x ^^^ (x <<< 13)
  let b := a ^^^ (a >>> 17)
  b ^^^ (b <<< 5)

/-- The generator after `n` draws. -/
def genAfter : Nat → W32 → W32
  | 0, x => x
  | n + 1, x => genStep (genAfter n x)

/-- The word that the lane's draw number `j`, from 0, yields: the high half of the state after it (R38). Only stochastic
rounding draws. -/
def drawn (t : Team) (l j : Nat) : Nat := if t.rnd = .sto then (genAfter (j + 1) (t.rdGen l) >>> 16).toNat else 0

/-- The generators after a word that draws `n` times in each live lane, when `draws` holds and MODE.RND is STO. -/
def generatorsAfter (x : Ctx) (t' : Team) (draws : Bool) (n : Nat) : Prop :=
  (∀ l, x.liveLane l → t'.rdGen l = if draws = true ∧ x.t.rnd = .sto then genAfter n (x.t.rdGen l) else x.t.rdGen l) ∧
    ∀ l, ¬ x.liveLane l → t'.rdGen l = x.t.rdGen l

/-- The word answers a team in which `P` holds of each live lane and its destination operand, nothing else of it changes but
the generators of live lanes, and those as `generatorsAfter` says. -/
def roundsLanes (i : Instr) (s : State) (x : Ctx) (wide : Bool) (d : BitVec 8) (draws : Bool) (n : Nat) (P : Nat → Nat → Prop) : Prop :=
  ∃ t', exec i s = .next (s.afterWord x i t' .next) ∧ VectorFrame x.t t' (fun l r => x.liveLane l ∧ operandRegs wide d.toNat r) ∧
    generatorsAfter x t' draws n ∧ ∀ l, x.liveLane l → P l (t'.rdW wide l d.toNat)

/-- A guarded float word: TYPEs, operands, and the exact result of an element from the rounding mode, the drawn word, the
values of d, a and b after FTZ, and the bits of b. -/
structure FloatForm where
  /-- Accepted TYPEs. -/
  types : List Ty
  /-- Destination. -/
  d : BitVec 8
  /-- First source. -/
  a : BitVec 8
  /-- Second source. -/
  b : VSrc
  /-- The result before it is rounded. -/
  exact : FloatFmt → Rnd → Nat → FVal → FVal → FVal → Nat → FVal

/-- The set FLT. -/
def fltTypes : List Ty := [.f32, .f64, .bf16x2, .f16x2]

/-- The arithmetic words of R232 to R234 and R240. -/
def floatForm : Instr → Option FloatForm
  | .fadd d a b => some ⟨fltTypes, d, a, .v b, fun _ r _ _ x y _ => x.add r y⟩
  | .faddLit d a _ l => some ⟨fltTypes, d, a, .lit l, fun _ r _ _ x y _ => x.add r y⟩
  | .fsub d a b => some ⟨fltTypes, d, a, .v b, fun _ r _ _ x y _ => x.add r y.neg⟩
  | .fmul d a b => some ⟨fltTypes, d, a, .v b, fun _ _ _ _ x y _ => x.mul y⟩
  | .fmulLit d a _ l => some ⟨fltTypes, d, a, .lit l, fun _ _ _ _ x y _ => x.mul y⟩
  | .fma d a b => some ⟨fltTypes, d, a, .v b, fun _ r _ z x y _ => (x.mul y).add r z⟩
  | .fmaLit d a _ l => some ⟨fltTypes, d, a, .lit l, fun _ r _ z x y _ => (x.mul y).add r z⟩
  | .fdivs d a b => some ⟨[.f32, .f64], d, a, .v b, fun _ _ _ _ x y _ => x.div y⟩
  | .frnd d a _ => some ⟨fltTypes, d, a, .v a, fun _ r g _ x _ _ => x.integral r g⟩
  | .fscale d a b => some ⟨[.f32, .f64], d, a, .v b, fun F _ _ _ x _ n => x.scale (toSigned F.width n)⟩
  | _ => none

/-- `y` is the magnitude (r + δ) × 2^e rounded once to binary32, where 0 ≤ δ < 1 and δ is 0 exactly when `exact` holds: `r` holds far more
bits than binary32, so the rounding is that of the exact number. -/
def roundsOnce (rnd : Rnd) (g : Nat) (z : Bool) (r : Nat) (e : Int) (exact : Bool) (y : Nat) : Prop :=
  2 ^ 64 ≤ r ∧ y = FloatFmt.b32.result rnd g z (.fin ⟨false, r, e, !exact⟩)

/-- FRCP of a value: 1 / a rounded once (R241). -/
def frcpIs (rnd : Rnd) (g : Nat) (z : Bool) (v : FVal) (y : Nat) : Prop :=
  y = FloatFmt.b32.result rnd g z (FVal.div (.num false 1 0) v)

/-- FSQRT of a value: √a rounded once, from the greatest r with r² ≤ a in units of 4^e (R241), and R243. -/
def fsqrtIs (rnd : Rnd) (g : Nat) (z : Bool) (v : FVal) (y : Nat) : Prop :=
  match v with
  | .nan => y = 0x7FC00000
  | .inf neg => y = if neg then 0x7FC00000 else 0x7F800000
  | .fin a =>
    if a.m = 0 then y = (if a.neg then 0x80000000 else 0)
    else if a.neg then y = 0x7FC00000
    else ∃ (r : Nat) (e : Int) (j : Nat), a.e = 2 * e + j ∧ r * r ≤ a.m * 2 ^ j ∧ a.m * 2 ^ j < (r + 1) * (r + 1) ∧
      roundsOnce rnd g z r e (r * r = a.m * 2 ^ j) y

/-- FRSQ of a value: 1 / √a rounded once, from the greatest r with r² × a ≤ 1 in units of 4^e (R241), and R243. -/
def frsqIs (rnd : Rnd) (g : Nat) (z : Bool) (v : FVal) (y : Nat) : Prop :=
  match v with
  | .nan => y = 0x7FC00000
  | .inf neg => y = if neg then 0x7FC00000 else 0
  | .fin a =>
    if a.m = 0 then y = (if a.neg then 0xFF800000 else 0x7F800000)
    else if a.neg then y = 0x7FC00000
    else ∃ (r : Nat) (e : Int) (j : Nat), 2 * e + a.e = -(j : Int) ∧ r * r * a.m ≤ 2 ^ j ∧ 2 ^ j < (r + 1) * (r + 1) * a.m ∧
      roundsOnce rnd g z r e (r * r * a.m = 2 ^ j) y

/-- The words of one binary32 source (R241): what the result has to be, from mode, drawn word, FTZ and the value of the source. -/
def rootForm : Instr → Option (BitVec 8 × BitVec 8 × (Rnd → Nat → Bool → FVal → Nat → Prop))
  | .frcp d a _ => some (d, a, frcpIs)
  | .frsq d a _ => some (d, a, frsqIs)
  | .fsqrt d a _ => some (d, a, fsqrtIs)
  | _ => none

/-- A finite number in units of 2^e, with its sign. -/
def inUnits (x : Exact) (e : Int) : Int := (if x.neg then -1 else 1) * (x.m * 2 ^ (x.e - e).toNat : Nat)

/-- FMAL: the three terms summed exactly and rounded once to binary32; NaN for a NaN term or for infinities of opposite sign, else an infinity
where a term is one (R235). A sum of zero is +0, or -0 under RDN, unless all terms are zeros of one sign. -/
def fmalIs (rnd : Rnd) (g : Nat) (z : Bool) (p q d : FVal) (y : Nat) : Prop :=
  match p, q, d with
  | .fin a, .fin b, .fin c => ∃ (e : Int) (n : Int), e ≤ a.e ∧ e ≤ b.e ∧ e ≤ c.e ∧ n = inUnits a e + inUnits b e + inUnits c e ∧
      y = FloatFmt.b32.result rnd g z (.fin ⟨if n = 0 then
        (if a.m = 0 ∧ b.m = 0 ∧ c.m = 0 ∧ a.neg = b.neg ∧ b.neg = c.neg then a.neg else decide (rnd = .rdn)) else decide (n < 0), n.natAbs, e, false⟩)
  | p, q, d =>
    if p = .nan ∨ q = .nan ∨ d = .nan ∨ (.inf true ∈ [p, q, d] ∧ .inf false ∈ [p, q, d]) then y = 0x7FC00000
    else y = if .inf true ∈ [p, q, d] then 0xFF800000 else 0x7F800000

/-- A finite number is the integer `n`. -/
def isInteger (x : Exact) (n : Int) : Prop := (if x.neg then -1 else 1) * (x.m * 2 ^ x.e.toNat : Nat) = n * 2 ^ (-x.e).toNat

/-- The faithful words (R242): destination, source, result by the source's bits and FTZ. -/
def faithfulForm : Instr → Option (BitVec 8 × BitVec 8 × (W32 → Bool → Nat))
  | .fexp2 d a _ => some (d, a, fexp2)
  | .flog2 d a _ => some (d, a, flog2)
  | .fsin d a _ => some (d, a, fsincos 0)
  | .fcos d a _ => some (d, a, fsincos 1)
  | .ftanh d a _ => some (d, a, ftanh)
  | _ => none

/-- FMIN, FMAX, FMINN and FMAXN: operands, and what an element pair after FTZ gives when neither is a NaN (the smaller or the
larger by the order in which -0 lies below +0), with what it gives when exactly one is (R236). -/
def minMaxForm : Instr → Option (BitVec 8 × BitVec 8 × BitVec 8 × Bool × Bool)
  | .fmin d a b => some (d, a, b, false, false)
  | .fmax d a b => some (d, a, b, true, false)
  | .fminn d a b => some (d, a, b, false, true)
  | .fmaxn d a b => some (d, a, b, true, true)
  | _ => none

/-- The result that R236 gives for two elements. -/
def minMaxResult (F : FloatFmt) (isMax number : Bool) (u v y : Nat) : Prop :=
  if F.isNan u = true ∧ F.isNan v = true then y = F.nanBits
  else if F.isNan u then y = if number then v else F.nanBits
  else if F.isNan v then y = if number then u else F.nanBits
  else (y = u ∨ y = v) ∧ if isMax then F.rank u ≤ F.rank y ∧ F.rank v ≤ F.rank y else F.rank y ≤ F.rank u ∧ F.rank y ≤ F.rank v

/-- The class of an element (R239), by its bits. -/
def classOf (F : FloatFmt) (x : Nat) : Nat :=
  let neg := decide (2 ^ (F.width - 1) ≤ x)
  let mag := x % 2 ^ (F.width - 1)
  let top := F.inf.getD 0
  if mag = top then (if neg then 0 else 7)
  else if top < mag then (if mag / 2 ^ (F.frac - 1) % 2 = 1 then 9 else 8)
  else if mag = 0 then (if neg then 3 else 4)
  else if mag < 2 ^ F.frac then (if neg then 2 else 5)
  else if neg then 1 else 6

end Sys2Proof.Claims

/-- Float arithmetic of lanes (R232 to R234, R240): each element is its exact result rounded once under MODE.RND with FTZ,
and under STO each live lane draws one word for each element, low element first, whatever the values. -/
def Obligations.FloatArithmeticRoundsOnce : Prop :=
  ∀ (i : Instr) (s : State) (x : Ctx) (F : FloatForm) (ty : Ty), Issues i s x → floatForm i = some F → x.t.ty? = some ty → ty ∈ F.types →
    regOk x ty.wide F.d.toNat → regOk x ty.wide F.a.toNat → srcOk x ty.wide F.b →
    roundsLanes i s x ty.wide F.d true ty.count fun l y => ∀ j, j < ty.count →
      let el (z : Nat) : Nat := elemOf ty.width z j
      let val (z : Nat) : FVal := ty.flt.decode (ty.flt.flush x.t.ftz (el z))
      elemOf ty.width y j = ty.flt.result x.t.rnd (drawn x.t l j) x.t.ftz
        (F.exact ty.flt x.t.rnd (drawn x.t l j) (val (x.t.rdW ty.wide l F.d.toNat)) (val (x.t.rdW ty.wide l F.a.toNat))
          (val (x.t.src ty l F.b)) (el (x.t.src ty l F.b)))

/-- FRCP, FRSQ and FSQRT give the exact reciprocal, reciprocal root or root of the source after FTZ, rounded once, with one draw under STO; FMAL
forms the exact sum of two products and the binary32 accumulator and rounds it once, with one draw (R235, R241, R243). That FRCP, FRSQ and FSQRT
draw one word under STO whatever the value (log entry 21), and the sign of FMAL's zero sum (log entry 24), are the model's choices. -/
def Obligations.RootsAndDotProductRoundOnce : Prop :=
  (∀ (i : Instr) (s : State) (x : Ctx) (d a : BitVec 8) (is : Rnd → Nat → Bool → FVal → Nat → Prop), Issues i s x →
    rootForm i = some (d, a, is) → x.t.ty? = some .f32 → regOk x false d.toNat → regOk x false a.toNat →
    roundsLanes i s x false d true 1 fun l y =>
      is x.t.rnd (drawn x.t l 0) x.t.ftz (FloatFmt.b32.decode (FloatFmt.b32.flush x.t.ftz (x.t.rdV l a.toNat).toNat)) y) ∧
  (∀ (d a b : BitVec 8) (s : State) (x : Ctx) (ty : Ty), Issues (.fmal d a b) s x → x.t.ty? = some ty → (ty = .bf16x2 ∨ ty = .f16x2) →
    regOk x false d.toNat → regOk x false a.toNat → regOk x false b.toNat →
    roundsLanes (.fmal d a b) s x false d true 1 fun l y =>
      let val (r j : Nat) : FVal := ty.flt.decode (ty.flt.flush x.t.ftz (elemOf 16 (x.t.rdV l r).toNat j))
      fmalIs x.t.rnd (drawn x.t l 0) x.t.ftz ((val a.toNat 0).mul (val b.toNat 0)) ((val a.toNat 1).mul (val b.toNat 1))
        (FloatFmt.b32.decode (FloatFmt.b32.flush x.t.ftz (x.t.rdV l d.toNat).toNat)) y)

/-- FEXP2, FLOG2, FSIN, FCOS and FTANH: the result in a lane is a function of the source's bits and FTZ alone, and nothing is
drawn; the results that R242 calls exact are the ones it gives, FEXP2 is +inf from 128 on and +0 below -150, and FTANH keeps the sign and does not
exceed 1 in magnitude (R242); and all the words on special inputs, for every rounding mode, drawn word and FTZ (R243). Which of the two neighbours an
inexact result is, is a free value (log entry 1). -/
def Obligations.SpecialFunctionsOfLanes : Prop :=
  (∀ (i : Instr) (s : State) (x : Ctx) (d a : BitVec 8) (f : W32 → Bool → Nat), Issues i s x → faithfulForm i = some (d, a, f) →
    x.t.ty? = some .f32 → regOk x false d.toNat → regOk x false a.toNat →
    writesLanes i s x false d fun l y => y = f (x.t.rdV l a.toNat) x.t.ftz % 2 ^ 32) ∧
  (∀ (r : Rnd) (g : Nat) (z : Bool),
    frcp r g z 0x7F800000 = 0 ∧ frcp r g z 0xFF800000 = 0x80000000 ∧ frcp r g z 0 = 0x7F800000 ∧ frcp r g z 0x80000000 = 0xFF800000 ∧
    frsq r g z 0x7F800000 = 0 ∧ frsq r g z 0xFF800000 = 0x7FC00000 ∧ frsq r g z 0 = 0x7F800000 ∧ frsq r g z 0x80000000 = 0xFF800000 ∧
    fsqrt r g z 0x7F800000 = 0x7F800000 ∧ fsqrt r g z 0xFF800000 = 0x7FC00000 ∧ fsqrt r g z 0 = 0 ∧ fsqrt r g z 0x80000000 = 0x80000000) ∧
  (∀ z : Bool,
    fexp2 0x7F800000 z = 0x7F800000 ∧ fexp2 0xFF800000 z = 0 ∧ fexp2 0 z = 0x3F800000 ∧ fexp2 0x80000000 z = 0x3F800000 ∧
    flog2 0x7F800000 z = 0x7F800000 ∧ flog2 0xFF800000 z = 0x7FC00000 ∧ flog2 0 z = 0xFF800000 ∧ flog2 0x80000000 z = 0xFF800000 ∧
    fsincos 0 0x7F800000 z = 0x7FC00000 ∧ fsincos 0 0xFF800000 z = 0x7FC00000 ∧ fsincos 0 0 z = 0 ∧ fsincos 0 0x80000000 z = 0x80000000 ∧
    fsincos 1 0x7F800000 z = 0x7FC00000 ∧ fsincos 1 0xFF800000 z = 0x7FC00000 ∧ fsincos 1 0 z = 0x3F800000 ∧
    fsincos 1 0x80000000 z = 0x3F800000 ∧
    ftanh 0x7F800000 z = 0x3F800000 ∧ ftanh 0xFF800000 z = 0xBF800000 ∧ ftanh 0 z = 0 ∧ ftanh 0x80000000 z = 0x80000000) ∧
  (∀ (r : Rnd) (g : Nat) (z : Bool) (u : W32), FloatFmt.b32.isNan u.toNat = true →
    frcp r g z u.toNat = 0x7FC00000 ∧ frsq r g z u.toNat = 0x7FC00000 ∧ fsqrt r g z u.toNat = 0x7FC00000 ∧ fexp2 u z = 0x7FC00000 ∧
    flog2 u z = 0x7FC00000 ∧ fsincos 0 u z = 0x7FC00000 ∧ fsincos 1 u z = 0x7FC00000 ∧ ftanh u z = 0x7FC00000) ∧
  (∀ (r : Rnd) (g : Nat) (z : Bool) (u : W32) (x : Exact), FloatFmt.b32.decode (FloatFmt.b32.flush z u.toNat) = .fin x → x.m ≠ 0 → x.neg = true →
    frsq r g z u.toNat = 0x7FC00000 ∧ fsqrt r g z u.toNat = 0x7FC00000 ∧ flog2 u z = 0x7FC00000) ∧
  (∀ (z : Bool) (u : W32) (x : Exact) (n : Int), FloatFmt.b32.decode (FloatFmt.b32.flush z u.toNat) = .fin x →
    (isInteger x n → -149 ≤ n → n ≤ 127 → fexp2 u z = FloatFmt.b32.result .rne 0 z (.num false 1 n)) ∧
    (x.neg = false → 128 * 2 ^ (-x.e).toNat ≤ x.m * 2 ^ x.e.toNat → fexp2 u z = 0x7F800000) ∧
    (x.neg = true → 150 * 2 ^ (-x.e).toNat < x.m * 2 ^ x.e.toNat → fexp2 u z = 0) ∧
    (∀ k : Nat, x.neg = false → x.m = 2 ^ k → flog2 u z = FloatFmt.b32.result .rne 0 z (.ofInt (k + x.e))) ∧
    (isInteger { x with e := x.e + 1 } n →
      fsincos 0 u z = (if n % 4 = 1 then 0x3F800000 else if n % 4 = 3 then 0xBF800000 else if x.neg then 0x80000000 else 0) ∧
      fsincos 1 u z = (if n % 4 = 0 then 0x3F800000 else if n % 4 = 2 then 0xBF800000 else 0)) ∧
    (x.m ≠ 0 → ∃ c, c ≤ 0x3F800000 ∧ ftanh u z = if x.neg then 0x80000000 + c else c))

/-- FMIN, FMAX, FMINN and FMAXN return one of their inputs, after FTZ, or the canonical NaN, as R236 tabulates. FABS clears the sign bit of each element and FNEG inverts it, and every other bit passes through (R237). FCLASS sets, for each element, exactly the bit of its class, in the place that R239 gives it. SEEDR writes each live lane's generator from its register, and 1 for a zero (R247); the generator state at team start is
the one of R38. -/
def Obligations.FloatExtremaSignsClassesAndSeeds : Prop :=
  (∀ (i : Instr) (s : State) (x : Ctx) (d a b : BitVec 8) (isMax number : Bool) (ty : Ty), Issues i s x →
    minMaxForm i = some (d, a, b, isMax, number) → x.t.ty? = some ty → ty ∈ fltTypes →
    regOk x ty.wide d.toNat → regOk x ty.wide a.toNat → regOk x ty.wide b.toNat →
    writesLanes i s x ty.wide d fun l y => ∀ j, j < ty.count →
      minMaxResult ty.flt isMax number (ty.flt.flush x.t.ftz (elemOf ty.width (x.t.rdW ty.wide l a.toNat) j))
        (ty.flt.flush x.t.ftz (elemOf ty.width (x.t.rdW ty.wide l b.toNat) j)) (elemOf ty.width y j)) ∧
  (∀ (d a : BitVec 8) (h : BitVec 4) (s : State) (x : Ctx) (ty : Ty), Issues (.fabs d a h) s x → x.t.ty? = some ty → ty ∈ fltTypes →
    regOk x ty.wide d.toNat → regOk x ty.wide a.toNat →
    writesLanes (.fabs d a h) s x ty.wide d fun l y => ∀ k, k < ty.count * ty.width →
      y.testBit k = ((x.t.rdW ty.wide l a.toNat).testBit k && decide (k % ty.width ≠ ty.width - 1))) ∧
  (∀ (d a : BitVec 8) (h : BitVec 4) (s : State) (x : Ctx) (ty : Ty), Issues (.fneg d a h) s x → x.t.ty? = some ty → ty ∈ fltTypes →
    regOk x ty.wide d.toNat → regOk x ty.wide a.toNat →
    writesLanes (.fneg d a h) s x ty.wide d fun l y => ∀ k, k < ty.count * ty.width →
      y.testBit k = ((x.t.rdW ty.wide l a.toNat).testBit k != decide (k % ty.width = ty.width - 1))) ∧
  (∀ (d a : BitVec 8) (h : BitVec 4) (s : State) (x : Ctx) (ty : Ty), Issues (.fclass d a h) s x → x.t.ty? = some ty → ty ∈ fltTypes →
    regOk x ty.wide d.toNat → regOk x ty.wide a.toNat →
    writesLanes (.fclass d a h) s x ty.wide d fun l y =>
      let c (j : Nat) : Nat := 2 ^ classOf ty.flt (elemOf ty.width (x.t.rdW ty.wide l a.toNat) j)
      y = if ty.count = 2 then c 0 + c 1 * 2 ^ 16 else c 0) ∧
  (∀ (a : BitVec 8) (h : BitVec 4) (s : State) (x : Ctx), Issues (.seedr a h) s x → regOk x false a.toNat →
    ∃ t', exec (.seedr a h) s = .next (s.afterWord x (.seedr a h) t' .next) ∧ { t' with gen := x.t.gen } = x.t ∧
      ∀ l, t'.rdGen l = if l < x.sh.lanes ∧ x.exec.getLsbD l = true then (if x.t.rdV l a.toNat = 0 then 1 else x.t.rdV l a.toNat) else x.t.rdGen l) ∧
  (∀ inst team lane : Nat, genInit inst team lane =
    let g := 0x9E3779B9#32 ^^^ (BitVec.ofNat 16 inst ++ 0#16) ^^^ BitVec.ofNat 32 (team * 2 ^ 10) ^^^ BitVec.ofNat 32 lane
    if g = 0 then 1 else g)

/-- CVT converts element by element between TYPEs of one row of R244; CVTN and PACKN convert into a narrow format (R245, R246);
each draws as R407 says: one word for each element under STO when the pair of formats is rounding, none otherwise. What minus infinity gives under an
unsigned destination (log entry 20), UNPKN of a negative element under n32 (log entry 22) and that integer narrowing saturates (log entry 23) are the
model's choices. UNPKN writes n registers, each the exact value of its element (R246), the sources read before any write. -/
def Obligations.ConversionsOfLanes : Prop :=
  (∀ (d a : BitVec 8) (t : BitVec 5) (s : State) (x : Ctx) (ty t2 : Ty), Issues (.cvt d a t) s x → x.t.ty? = some ty →
    Ty.ofCode t.toNat = some t2 → ty ≠ .b32 → ty ≠ .b64 → t2 ≠ .b32 → t2 ≠ .b64 → t2.count = ty.count →
    regOk x t2.wide d.toNat → regOk x ty.wide a.toNat →
    roundsLanes (.cvt d a t) s x t2.wide d (roundingPair ty.elem false t2.elem) ty.count fun l y => ∀ j, j < ty.count →
      let u := elemOf ty.width (x.t.rdW ty.wide l a.toNat) j
      elemOf t2.width y j = (if ty ∈ intTypes ∧ t2 ∈ intTypes then
          let v := intValue ty.signed ty.width u
          wrapInt t2.width (if x.t.sat then clampInt (intLo t2.signed t2.width) (intHi t2.signed t2.width) v else v)
        else t2.elem.encode x.t.rnd (if roundingPair ty.elem false t2.elem then drawn x.t l j else 0) x.t.sat (ty.elem.decode u)) % 2 ^ t2.width) ∧
  (∀ (d a : BitVec 8) (f : BitVec 6) (s : State) (x : Ctx) (ty : Ty) (g : ElemFmt), Issues (.cvtn d a f) s x → x.t.ty? = some ty →
    (ty = .f32 ∨ ty = .f64 ∨ ty = .i32 ∨ ty = .n32) → fmtElem f = some g → g.width ≤ 8 → regOk x false d.toNat → regOk x ty.wide a.toNat →
    roundsLanes (.cvtn d a f) s x false d (roundingPair ty.elem false g) 1 fun l y =>
      y = g.encode x.t.rnd (if roundingPair ty.elem false g then drawn x.t l 0 else 0) x.t.sat (ty.elem.decode (x.t.rdW ty.wide l a.toNat)) % 2 ^ 32) ∧
  (∀ (d a : BitVec 8) (f : BitVec 6) (s : State) (x : Ctx) (ty : Ty) (g : ElemFmt), Issues (.packn d a f) s x → x.t.ty? = some ty →
    (ty = .f32 ∨ ty = .i32 ∨ ty = .n32) → fmtElem f = some g → g.width ≤ 8 → regOk x false d.toNat → a.toNat + 32 / g.width ≤ x.t.allot →
    roundsLanes (.packn d a f) s x false d (roundingPair ty.elem false g) (32 / g.width) fun l y => ∀ j, j < 32 / g.width →
      elemOf g.width y j = g.encode x.t.rnd (if roundingPair ty.elem false g then drawn x.t l j else 0) x.t.sat
        (ty.elem.decode (x.t.rdV l (a.toNat + j)).toNat) % 2 ^ g.width) ∧
  (∀ (d a : BitVec 8) (f : BitVec 6) (s : State) (x : Ctx) (ty : Ty) (g : ElemFmt), Issues (.unpkn d a f) s x → x.t.ty? = some ty →
    (ty = .f32 ∨ ((ty = .i32 ∨ ty = .n32) ∧ g.isInt = true)) → fmtElem f = some g → g.width ≤ 8 → x.t.allot ≤ 256 →
    regOk x false a.toNat → d.toNat + 32 / g.width ≤ x.t.allot →
    ∃ t', exec (.unpkn d a f) s = .next (s.afterWord x (.unpkn d a f) t' .next) ∧
      VectorFrame x.t t' (fun l r => x.liveLane l ∧ d.toNat ≤ r ∧ r < d.toNat + 32 / g.width) ∧ t'.gen = x.t.gen ∧
      ∀ l j, x.liveLane l → j < 32 / g.width → (t'.rdV l (d.toNat + j)).toNat =
        ty.elem.encode .rne 0 false (g.decode (elemOf g.width (x.t.rdV l a.toNat).toNat j)) % 2 ^ 32)


/-! ### Bit streams and cross-lane words (R90 to R92, R250 to R252, R254 to R258) -/

namespace Sys2Proof.Claims

open Sys2Proof.Machine

/-- The spans that a node may have (R90). -/
def spanOk (x : Ctx) : Prop := x.sh.span = 16 ∨ x.sh.span = 32 ∨ x.sh.span = 64

/-- The source lane of a shuffle, from its place `p` in the span and the span (R255). -/
def shuffleForm : Instr → Option (BitVec 8 × BitVec 8 × (Nat → Int → Int))
  | .shflUp d a i => some (d, a, fun _ p => p - i.toNat)
  | .shflDn d a i => some (d, a, fun _ p => p + i.toNat)
  | .shflXor d a i => some (d, a, fun _ p => (p.toNat ^^^ i.toNat : Nat))
  | _ => none

/-- The lanes m of a vote, ballot or reduction: those of the span at `base` that exist and are in kb and in the execution
mask, ascending (R92). -/
def countedLanes (x : Ctx) (b : BitVec 3) (base : Nat) : List Nat :=
  ((List.range x.sh.span).map fun j => base + j).filter fun l =>
    decide (l < x.sh.lanes) && (x.t.rdK b.toNat).getLsbD l && x.exec.getLsbD l

/-- The fold of R257 over lanes in order: the first lane's value as it is, then one step for each further lane; stochastic
additions draw from the generator that goes along. -/
def foldOver (x : Ctx) (f : Fold) (ty : Ty) (r : Nat) : List Nat → Option Nat → W32 → Option Nat × W32
  | [], acc, g => (acc, g)
  | l :: ls, none, g => foldOver x f ty r ls (some (x.t.rdW ty.wide l r)) g
  | l :: ls, some v, g =>
    let n := foldStep x.t f ty g v (x.t.rdW ty.wide l r)
    foldOver x f ty r ls (some n.1) n.2

/-- The reductions and the scan. -/
def foldForm : Instr → Option (Fold × Bool × BitVec 8 × BitVec 8 × BitVec 3)
  | .rsum d a b => some (.sum, false, d, a, b)
  | .rmin d a b => some (.least, false, d, a, b)
  | .rmax d a b => some (.most, false, d, a, b)
  | .scanAdd d a b => some (.sum, true, d, a, b)
  | _ => none

/-- The lane is the lowest live lane of its span. -/
def lowestOfSpan (x : Ctx) (l : Nat) : Prop :=
  x.liveLane l ∧ ∀ j, j < l → j / x.sh.span = l / x.sh.span → ¬ x.liveLane j

/-- A word of a stream quad: it answers a team in which only the registers `w` of live lanes change, and `P` holds of each
live lane. -/
def streamWord (i : Instr) (s : State) (x : Ctx) (w : Nat → Prop) (P : Team → Nat → Prop) : Prop :=
  ∃ t', exec i s = .next (s.afterWord x i t' .next) ∧ VectorFrame x.t t' (fun l r => x.liveLane l ∧ w r) ∧ t'.gen = x.t.gen ∧
    ∀ l, x.liveLane l → P t' l

end Sys2Proof.Claims

/-- BSINI, BSRD, BSPK, BSSK and BSPOS act on the stream of each live lane as R252 says: the buffer, the count of valid bits and
the offset as they are after the word, and the bits or the position that it returns. -/
def Obligations.BitStreamWords : Prop :=
  (∀ (q a : BitVec 8) (h : BitVec 4) (s : State) (x : Ctx), Issues (.bsini q a h) s x → q.toNat + 4 ≤ x.t.allot → x.t.allot ≤ 256 → regOk x false a.toNat →
    streamWord (.bsini q a h) s x (fun r => q.toNat ≤ r ∧ r < q.toNat + 4) fun t' l =>
      t'.rdStream l q.toNat = ⟨0, 0, x.t.rdV l a.toNat⟩) ∧
  (∀ (d q b : BitVec 8) (s : State) (x : Ctx), Issues (.bsrd d q b) s x → q.toNat + 4 ≤ x.t.allot → x.t.allot ≤ 256 → regOk x false d.toNat →
    regOk x false b.toNat →
    streamWord (.bsrd d q b) s x (fun r => r = d.toNat ∨ (q.toNat ≤ r ∧ r < q.toNat + 4)) fun t' l =>
      let z := x.t.rdStream l q.toNat
      let m := min (x.t.rdV l b.toNat).toNat 32
      t'.rdStream l q.toNat = z.skip m ∧ (t'.rdV l d.toNat).toNat = z.b.toNat % 2 ^ m) ∧
  (∀ (d q b : BitVec 8) (s : State) (x : Ctx), Issues (.bspk d q b) s x → q.toNat + 4 ≤ x.t.allot → regOk x false d.toNat → regOk x false b.toNat →
    streamWord (.bspk d q b) s x (fun r => r = d.toNat) fun t' l =>
      (t'.rdV l d.toNat).toNat = (x.t.rdStream l q.toNat).b.toNat % 2 ^ min (x.t.rdV l b.toNat).toNat 32) ∧
  (∀ (q b : BitVec 8) (h : BitVec 4) (s : State) (x : Ctx), Issues (.bssk q b h) s x → q.toNat + 4 ≤ x.t.allot → x.t.allot ≤ 256 → regOk x false b.toNat →
    streamWord (.bssk q b h) s x (fun r => q.toNat ≤ r ∧ r < q.toNat + 4) fun t' l =>
      t'.rdStream l q.toNat = (x.t.rdStream l q.toNat).skip (x.t.rdV l b.toNat).toNat) ∧
  (∀ (d q : BitVec 8) (h : BitVec 4) (s : State) (x : Ctx), Issues (.bspos d q h) s x → q.toNat + 4 ≤ x.t.allot → regOk x false d.toNat →
    streamWord (.bspos d q h) s x (fun r => r = d.toNat) fun t' l =>
      t'.rdV l d.toNat = 8 * (x.t.rdStream l q.toNat).p - BitVec.ofInt 32 (x.t.rdStream l q.toNat).n)

/-- The shuffles move the register, or the pair, of a lane of the same span, as it stood before the word; a lane at or above L
gives zero (R91, R255). BCAST is not guarded: it writes sd from the register, or the pair, of lane s(b) mod L, sign-extended under i32 (R258). -/
def Obligations.ShufflesReadTheirSpan : Prop :=
  (∀ (i : Instr) (s : State) (x : Ctx) (d a : BitVec 8) (g : Nat → Int → Int) (ty : Ty), Issues i s x → shuffleForm i = some (d, a, g) →
    spanOk x → x.t.ty? = some ty → regOk x ty.wide d.toNat → regOk x ty.wide a.toNat →
    writesLanes i s x ty.wide d fun l y =>
      let src := l / x.sh.span * x.sh.span + (g x.sh.span (l % x.sh.span : Nat) % (x.sh.span : Int)).toNat
      y = if src < x.sh.lanes then x.t.rdW ty.wide src a.toNat else 0) ∧
  (∀ (d a b : BitVec 8) (s : State) (x : Ctx) (ty : Ty), Issues (.shflIdx d a b) s x → spanOk x → x.t.ty? = some ty →
    regOk x ty.wide d.toNat → regOk x ty.wide a.toNat → regOk x ty.wide b.toNat →
    writesLanes (.shflIdx d a b) s x ty.wide d fun l y =>
      let src := l / x.sh.span * x.sh.span + (x.t.rdV l b.toNat).toNat % x.sh.span
      y = if src < x.sh.lanes then x.t.rdW ty.wide src a.toNat else 0) ∧
  (∀ (d : BitVec 6) (a : BitVec 8) (b : BitVec 6) (s : State) (x : Ctx) (ty : Ty), Issues (.bcast d a b) s x → x.t.ty? = some ty →
    regOk x ty.wide a.toNat →
    let lane := (x.t.rdS b.toNat).toNat % x.sh.lanes
    exec (.bcast d a b) s = .next (s.afterWord x (.bcast d a b) (x.t.wrS d.toNat
      (if ty.wide then x.t.rdV lane (a.toNat + 1) ++ x.t.rdV lane a.toNat
       else if ty = .i32 then (x.t.rdV lane a.toNat).signExtend 64 else (x.t.rdV lane a.toNat).setWidth 64)) .next))

/-- VOTE.ANY and VOTE.ALL give each live lane whether ka holds for any or for all of the counted lanes of its span, and BALLOT
gives it the counted lanes for which ka holds (R92, R256). RSUM, RMIN, RMAX and SCAN.ADD fold the counted lanes of each span in ascending order; a scan gives a lane the fold up to it,
a reduction the whole fold or the identity; and the generator of the span's lowest live lane is the one that moves (R257). A step of the fold is the
sum modulo 2^w, the smaller or the larger by signedness, or FADD, FMIN or FMAX with one draw for each addition under STO; the identities are those of
R257. -/
def Obligations.VotesBallotsAndReductions : Prop :=
  (∀ (d a b : BitVec 3) (s : State) (x : Ctx), Issues (.voteAny d a b) s x →
    ∃ t', exec (.voteAny d a b) s = .next (s.afterWord x (.voteAny d a b) t' .next) ∧ maskWritten x.t t' x.sh.lanes d fun l =>
      if x.exec.getLsbD l then (countedLanes x b (l / x.sh.span * x.sh.span)).any fun j => (x.t.rdK a.toNat).getLsbD j
      else (x.t.rdK d.toNat).getLsbD l) ∧
  (∀ (d a b : BitVec 3) (s : State) (x : Ctx), Issues (.voteAll d a b) s x →
    ∃ t', exec (.voteAll d a b) s = .next (s.afterWord x (.voteAll d a b) t' .next) ∧ maskWritten x.t t' x.sh.lanes d fun l =>
      if x.exec.getLsbD l then (countedLanes x b (l / x.sh.span * x.sh.span)).all fun j => (x.t.rdK a.toNat).getLsbD j
      else (x.t.rdK d.toNat).getLsbD l) ∧
  (∀ (d : BitVec 8) (a b : BitVec 3) (s : State) (x : Ctx), Issues (.ballot d a b) s x → spanOk x → regOk x (x.sh.span = 64) d.toNat →
    writesLanes (.ballot d a b) s x (x.sh.span = 64) d fun l y => ∀ j,
      y.testBit j = (decide (j < x.sh.span) && (countedLanes x b (l / x.sh.span * x.sh.span)).contains (l / x.sh.span * x.sh.span + j) &&
        (x.t.rdK a.toNat).getLsbD (l / x.sh.span * x.sh.span + j))) ∧
  (∀ (i : Instr) (s : State) (x : Ctx) (f : Fold) (scan : Bool) (d a : BitVec 8) (b : BitVec 3) (ty : Ty), Issues i s x →
    foldForm i = some (f, scan, d, a, b) → spanOk x → x.t.ty? = some ty → (ty ∈ intTypes ∨ ty = .f32 ∨ ty = .f64) →
    regOk x ty.wide d.toNat → regOk x ty.wide a.toNat →
    ∃ t', exec i s = .next (s.afterWord x i t' .next) ∧ VectorFrame x.t t' (fun l r => x.liveLane l ∧ operandRegs ty.wide d.toNat r) ∧
      (∀ l low, x.liveLane l → lowestOfSpan x low → low / x.sh.span = l / x.sh.span →
        let m := countedLanes x b (l / x.sh.span * x.sh.span)
        t'.rdW ty.wide l d.toNat =
          (if scan then (foldOver x f ty a.toNat (m.filter fun j => j ≤ l) none (x.t.rdGen low)).1.getD 0
           else (foldOver x f ty a.toNat m none (x.t.rdGen low)).1.getD (foldIdentity f ty)) % 2 ^ (if ty.wide then 64 else 32)) ∧
      (∀ l, lowestOfSpan x l →
        t'.rdGen l = (foldOver x f ty a.toNat (countedLanes x b (l / x.sh.span * x.sh.span)) none (x.t.rdGen l)).2) ∧
      (∀ l, ¬ lowestOfSpan x l → t'.rdGen l = x.t.rdGen l)) ∧
  (∀ (t : Team) (f : Fold) (ty : Ty) (g : W32) (u v : Nat), ty ∈ intTypes → (foldStep t f ty g u v).2 = g ∧ ∀ j, j < ty.count →
    elemOf ty.width (foldStep t f ty g u v).1 j = wrapInt ty.width
      (let a := intValue ty.signed ty.width (elemOf ty.width u j)
       let b := intValue ty.signed ty.width (elemOf ty.width v j)
       match f with
       | .sum => a + b
       | .least => min a b
       | .most => max a b)) ∧
  (∀ (t : Team) (ty : Ty) (g : W32) (u v : Nat), (ty = .f32 ∨ ty = .f64) →
    let a := ty.flt.flush t.ftz u
    let b := ty.flt.flush t.ftz v
    foldStep t .sum ty g u v = (ty.flt.result t.rnd (if t.rnd = .sto then (genStep g >>> 16).toNat else 0) t.ftz ((ty.flt.decode a).add t.rnd (ty.flt.decode b)),
      if t.rnd = .sto then genStep g else g) ∧
    (foldStep t .least ty g u v).2 = g ∧ minMaxResult ty.flt false false a b (foldStep t .least ty g u v).1 ∧
    (foldStep t .most ty g u v).2 = g ∧ minMaxResult ty.flt true false a b (foldStep t .most ty g u v).1) ∧
  (∀ ty : Ty, foldIdentity .sum ty = 0 ∧ (ty ∈ intTypes → ∀ j, j < ty.count →
    elemOf ty.width (foldIdentity .least ty) j = (if ty.signed then 2 ^ (ty.width - 1) - 1 else 2 ^ ty.width - 1) ∧
    elemOf ty.width (foldIdentity .most ty) j = if ty.signed then 2 ^ (ty.width - 1) else 0)) ∧
  foldIdentity .least .f32 = 0x7F800000 ∧ foldIdentity .most .f32 = 0xFF800000 ∧
  foldIdentity .least .f64 = 0x7FF0000000000000 ∧ foldIdentity .most .f64 = 0xFFF0000000000000


/-! ### Control transfer, loops, MODE, roles, crews, system registers (R96 to R106, R197, R205, R206, R263 to R273) -/

namespace Sys2Proof.Claims

open Sys2Proof.Machine

/-- When a relative branch is taken, and its displacement in words (R263). -/
def branchForm (x : Ctx) : Instr → Option (Prop × W64)
  | .bra i => some (True, i.signExtend 64)
  | .bany k i => some (∃ l, (x.t.rdK k.toNat).getLsbD l = true ∧ x.exec.getLsbD l = true, i.signExtend 64)
  | .ball k i => some (∀ l, x.exec.getLsbD l = true → (x.t.rdK k.toNat).getLsbD l = true, i.signExtend 64)
  | .bnone k i => some (¬ ∃ l, (x.t.rdK k.toNat).getLsbD l = true ∧ x.exec.getLsbD l = true, i.signExtend 64)
  | .brs r i => some (x.t.rdS r.toNat ≠ 0, i.signExtend 64)
  | .brsZ r i => some (x.t.rdS r.toNat = 0, i.signExtend 64)
  | _ => none

/-- JMP and RET. -/
def jumpForm : Instr → Option (BitVec 6)
  | .jmp r _ => some r
  | .ret r _ => some r
  | _ => none

/-- A team that has gone on to `pc` with the loop state `l`; nothing else of it differs but the mark that ERET leaves for one word, and the
mark of a pre-emption point, which YIELD and a ROLE that switches leave (R102, R109). -/
def movedTo (t : Team) (i : Instr) (pc : W64) (l : LoopState) : Team :=
  { t with pc := pc, loop := l, noBreak := false, yielded := match i with
      | .yield _ _ => true
      | .role _ => true
      | _ => false }

/-- The address after a word: one word, or two with a literal (R197, R198). -/
def pcAfter (t : Team) (i : Instr) : Flow → W64
  | .goto p => p
  | _ => t.pc + if (literalOf i).isSome then 8 else 4

/-- The readable system registers but CYC (R96, R189, R273). -/
def sysValue (x : Ctx) : Nat → Option W64
  | 0x01 => some (BitVec.ofNat 64 x.sh.lanes)
  | 0x02 => some (BitVec.ofNat 64 x.sh.span)
  | 0x03 => some (BitVec.ofNat 64 (x.n % 32))
  | 0x04 => some (BitVec.ofNat 64 (x.sh.inst % 2 ^ 32))
  | 0x05 => some (BitVec.ofNat 64 (x.sh.node % 2 ^ 32))
  | 0x06 => some (BitVec.ofNat 64 (x.sh.core % 2 ^ 16))
  | 0x07 => some (x.t.pri.setWidth 64)
  | 0x08 => some (x.t.pricap.setWidth 64)
  | 0x09 => some (x.t.dlleft.setWidth 64)
  | 0x0A => some (x.t.roleix.setWidth 64)
  | 0x0B => some (x.t.crews.setWidth 64)
  | 0x0C => some (BitVec.ofNat 64 x.t.allot)
  | 0x10 => some (Sparse.get 0 x.t.bkpc 0)
  | 0x11 => some (Sparse.get 0 x.t.bkpc 1)
  | 0x12 => some (Sparse.get 0 x.t.bkpc 2)
  | 0x13 => some (Sparse.get 0 x.t.bkpc 3)
  | 0x14 => some (x.t.bkctl.setWidth 64)
  | _ => none

/-- A value of MODE that R206 allows: TYPE at most 13, RND at most 5, every unassigned bit zero. -/
def modeOk (m : W32) : Prop :=
  (m.extractLsb' 10 5).toNat ≤ 13 ∧ (m.extractLsb' 15 3).toNat ≤ 5 ∧ m.getLsbD 3 = false ∧ m.extractLsb' 5 5 = 0 ∧
    m.extractLsb' 20 3 = 0 ∧ m.extractLsb' 29 3 = 0

/-- SETM and SETML: the value that they write to MODE. -/
def modeForm (t : Team) : Instr → Option W32
  | .setm r _ => some ((t.rdS r.toNat).setWidth 32)
  | .setml _ l => some l
  | _ => none

/-- The word `i` takes the fault `e`, and has no other effect. -/
def faults (i : Instr) (s : State) (x : Ctx) (e : Trap) : Prop :=
  exec i s = .next (s.takeFault x.n e (BitVec.ofNat 32 (encodeNat i)) (literalOf i))

end Sys2Proof.Claims

/-- NOP goes on; a relative branch goes to PC + 4 × displacement when its condition holds and to the next word otherwise
(R263); JMP and RET go to an aligned target and fault ALIGN at any other; CALL writes the address of the next word and goes
(R264). Nothing but PC and CALL's register changes. The end of a word moves PC to the address that the word gives, outside loops (R197); at the end of a loop's body it
repeats or leaves the loop, the inner REP before the LOOPB that ends at the same word (R266). Of the state, only the issuing
team and the mark of the issuer change. That the word after a ROLE is a pre-emption point is the model's reading (log entry 170). REP with a count of 0 skips its body; otherwise it and LOOPB begin a loop whose body follows the word (R266). -/
def Obligations.ControlTransfersAndLoops : Prop :=
  (∀ (h : BitVec 4) (s : State) (x : Ctx), Issues (.nop h) s x → exec (.nop h) s = .next (s.settle x.n x.sh.lanes (.nop h) .next)) ∧
  (∀ (i : Instr) (s : State) (x : Ctx) (c : Prop) (disp : W64), Issues i s x → branchForm x i = some (c, disp) →
    (c → exec i s = .next (s.settle x.n x.sh.lanes i (.goto (x.t.pc + 4 * disp)))) ∧
    (¬ c → exec i s = .next (s.settle x.n x.sh.lanes i .next))) ∧
  (∀ (i : Instr) (s : State) (x : Ctx) (r : BitVec 6), Issues i s x → jumpForm i = some r →
    if (x.t.rdS r.toNat).toNat % 4 = 0 then exec i s = .next (s.settle x.n x.sh.lanes i (.goto (x.t.rdS r.toNat)))
    else faults i s x (.plain .align)) ∧
  (∀ (d : BitVec 6) (i : BitVec 16) (s : State) (x : Ctx), Issues (.call d i) s x →
    exec (.call d i) s = .next (s.afterWord x (.call d i) (x.t.wrS d.toNat (x.t.pc + 4)) (.goto (x.t.pc + 4 * i.signExtend 64)))) ∧
  (∀ (s : State) (n lanes : Nat) (i : Instr) (f : Flow) (t : Team), s.team? n = some t → f ≠ .stay →
    let dest := pcAfter t i f
    let ends (t' : Team) : Prop := s.settle n lanes i f = ({ s with cur := none, late := false } : State).setTeam n t'
    (((∀ r, t.loop.rep = some r → r.stop ≠ dest) ∧ ∀ b, t.loop.lb = some b → b.stop ≠ dest) → ends (movedTo t i dest t.loop)) ∧
    (∀ r, t.loop.rep = some r → r.stop = dest → r.left ≠ 1 →
      ends (movedTo t i r.start { t.loop with rep := some { r with left := r.left - 1, done := r.done + 1 } })) ∧
    (∀ r, t.loop.rep = some r → r.stop = dest → r.left = 1 → (∀ b, t.loop.lb = some b → b.stop ≠ dest) →
      ends (movedTo t i dest { t.loop with rep := none })) ∧
    (∀ b, t.loop.lb = some b → b.stop = dest → (∀ r, t.loop.rep = some r → r.stop = dest → r.left = 1) →
      let outer : LoopState := match t.loop.rep with
        | some r => if r.stop = dest then { t.loop with rep := none } else t.loop
        | none => t.loop
      if t.rdK b.k.toNat &&& t.exec lanes = 0 then ends (movedTo t i dest { outer with lb := none })
      else ends (movedTo t i b.start { outer with lb := some { b with done := b.done + 1 } }))) ∧
  (∀ (r : BitVec 6) (len : BitVec 8) (s : State) (x : Ctx), Issues (.rep r len) s x →
    (x.t.rdS r.toNat = 0 → exec (.rep r len) s =
      .next (s.settle x.n x.sh.lanes (.rep r len) (.goto (x.t.pc + 4 + BitVec.ofNat 64 (4 * len.toNat))))) ∧
    (x.t.rdS r.toNat ≠ 0 → exec (.rep r len) s = .next (s.afterWord x (.rep r len)
      { x.t with loop := { x.t.loop with rep := some ⟨x.t.pc + 4, x.t.pc + 4 + BitVec.ofNat 64 (4 * len.toNat), x.t.rdS r.toNat, 0⟩ } } .next))) ∧
  (∀ (k : BitVec 3) (len : BitVec 8) (s : State) (x : Ctx), Issues (.loopb k len) s x →
    exec (.loopb k len) s = .next (s.afterWord x (.loopb k len)
      { x.t with loop := { x.t.loop with lb := some ⟨x.t.pc + 4, x.t.pc + 4 + BitVec.ofNat 64 (4 * len.toNat), k, 0⟩ } } .next))

/-- EXIT takes the lanes of the execution mask out of k0, and goes on while lanes are left; with no lane left, and at END, the
team ends: it is out of every crew, its private region reads as zero, and no other team changes (R111, R143, R268). YIELD
re-arms the deadline (R106, R269). -/
def Obligations.ExitEndAndYield : Prop :=
  (∀ (h : BitVec 4) (s : State) (x : Ctx), Issues (.exit h) s x → x.exec = 0 →
    exec (.exit h) s = .next (s.settle x.n x.sh.lanes (.exit h) .next)) ∧
  (∀ (h : BitVec 4) (s : State) (x : Ctx), Issues (.exit h) s x → x.exec ≠ 0 → x.t.rdK 0 &&& ~~~x.exec ≠ 0 →
    exec (.exit h) s = .next (s.afterWord x (.exit h) (x.t.wrK x.sh.lanes 0 (x.t.rdK 0 &&& ~~~x.exec)) .next)) ∧
  (∀ (i : Instr) (s : State) (x : Ctx), Issues i s x →
    ((∃ h, i = .endTeam h) ∨ ∃ h, i = .exit h ∧ x.exec ≠ 0 ∧ x.t.rdK 0 &&& ~~~x.exec = 0) →
    ∃ s' t', exec i s = .next s' ∧ s'.cur = none ∧ s'.team? x.n = some t' ∧ t'.ended = true ∧ t'.crews = 0 ∧
      (∀ m, m ≠ x.n → s'.team? m = s.team? m) ∧
      ∀ a, s'.mem.byte a = if x.t.privBase ≤ a ∧ a < x.t.privBase + x.t.privLen then 0 else s.mem.byte a) ∧
  (∀ (n : BitVec 12) (h : BitVec 4) (s : State) (x : Ctx), Issues (.yield n h) s x →
    exec (.yield n h) s = .next (s.afterWord x (.yield n h)
      { x.t with dlleft := if n = 0 then x.sh.deadline else BitVec.ofNat 16 (16 * n.toNat) } .next))

/-- SETM and SETML write a valid MODE and fault ILLEGAL_FIELD on any other (R206, R272), GETM reads it, and SETPRI sets PRI to
the smaller of its operand and PRICAP (R104). RDSR reads each system register (R273); CYC, whose pace is left open, is a value not constrained by the operands (log
entry 7). WRSR writes the breakpoint registers, and faults ILLEGAL_FIELD on a bit that must be zero (R189). -/
def Obligations.ModeAndPriority : Prop :=
  (∀ (i : Instr) (s : State) (x : Ctx) (m : W32), Issues i s x → modeForm x.t i = some m →
    (modeOk m → exec i s = .next (s.afterWord x i { x.t with mode := m } .next)) ∧ (¬ modeOk m → faults i s x (.plain .illegalField))) ∧
  (∀ (d : BitVec 6) (h : BitVec 4) (s : State) (x : Ctx), Issues (.getm d h) s x →
    exec (.getm d h) s = .next (s.afterWord x (.getm d h) (x.t.wrS d.toNat (x.t.mode.setWidth 64)) .next)) ∧
  (∀ (n : BitVec 4) (s : State) (x : Ctx), Issues (.setpri n) s x → ∃ p : BitVec 4,
    exec (.setpri n) s = .next (s.afterWord x (.setpri n) { x.t with pri := p } .next) ∧ p.toNat = min n.toNat x.t.pricap.toNat) ∧
  (∀ (d : BitVec 6) (n : BitVec 8) (s : State) (x : Ctx) (v : W64), Issues (.rdsr d n) s x → sysValue x n.toNat = some v →
    exec (.rdsr d n) s = .next (s.afterWord x (.rdsr d n) (x.t.wrS d.toNat v) .next)) ∧
  (∀ (d : BitVec 6) (s : State) (x : Ctx), Issues (.rdsr d 0) s x → ∃ (v : W64) (s1 : State),
    exec (.rdsr d 0) s = .next (s1.afterWord x (.rdsr d 0) (x.t.wrS d.toNat v) .next) ∧
      Sparse.get 0 s1.cyc x.sh.core = v ∧ { s1 with cyc := s.cyc, fresh := s.fresh } = s) ∧
  (∀ (n : BitVec 8) (r : BitVec 6) (h : BitVec 4) (s : State) (x : Ctx), Issues (.wrsr n r h) s x →
    let v := x.t.rdS r.toNat
    (n = 0x14 → v.toNat < 32 → exec (.wrsr n r h) s = .next (s.afterWord x (.wrsr n r h) { x.t with bkctl := v.setWidth 5 } .next)) ∧
    (n = 0x14 → ¬ v.toNat < 32 → faults (.wrsr n r h) s x (.plain .illegalField)) ∧
    (n.toNat < 0x14 → v.getLsbD 1 = false → ∃ t', exec (.wrsr n r h) s = .next (s.afterWord x (.wrsr n r h) t' .next) ∧
      (∀ k, Sparse.get 0 t'.bkpc k = if k = n.toNat - 0x10 then v else Sparse.get 0 x.t.bkpc k) ∧ { t' with bkpc := x.t.bkpc } = x.t) ∧
    (n.toNat < 0x14 → v.getLsbD 1 = true → faults (.wrsr n r h) s x (.plain .illegalField)))

/-- ROLE switches to an entry of the table, faults ROLE without one, and parks where the registers do not suffice; ROLE_UNPARK
switches the oldest parked team once they do (R102). JOIN and LEAVE set and clear a crew bit (R98). -/
def Obligations.RolesAndCrews : Prop :=
  (∀ (n : BitVec 3) (s : State) (x : Ctx) (r : RoleEntry), Issues (.role n) s x → x.sh.roles[n.toNat]? = some r →
    ((r.allot ≤ x.t.allot ∨ (x.sh.parked = [] ∧ (r.allot - x.t.allot) * x.sh.lanes * 4 ≤ s.freeVreg (shopOf x.n))) →
      ∃ t', exec (.role n) s = .next (s.afterWord x (.role n) t' (.goto (r.entry.setWidth 64))) ∧
        t'.allot = r.allot ∧ t'.pricap = r.ceil ∧ t'.pri = r.pri ∧ t'.roleix = n ∧ t'.dlleft = x.sh.deadline ∧
        (∀ l q, q < 256 → t'.rdV l q = if q < min x.t.allot r.allot then x.t.rdV l q else 0) ∧ t'.sreg = x.t.sreg ∧ t'.kreg = x.t.kreg ∧ t'.creg = x.t.creg ∧ t'.mode = x.t.mode) ∧
    ((x.t.allot < r.allot ∧ (x.sh.parked ≠ [] ∨ s.freeVreg (shopOf x.n) < (r.allot - x.t.allot) * x.sh.lanes * 4)) →
      ∃ s', exec (.role n) s = .next s' ∧ s'.team? x.n = some { x.t with wait := .role n } ∧
        ∃ sh', s'.shop? (shopOf x.n) = some sh' ∧ sh'.parked = x.sh.parked ++ [x.n])) ∧
  (∀ (n : BitVec 3) (s : State) (x : Ctx), Issues (.role n) s x → x.sh.roles[n.toNat]? = none → faults (.role n) s x (.plain .role)) ∧
  (∀ (shop n : Nat) (rest : List Nat) (s : State) (sh : Shop) (t : Team) (k : BitVec 3) (r : RoleEntry),
    s.shop? shop = some sh → sh.phase = .running → sh.parked = n :: rest → s.team? n = some t → t.wait = .role k →
    sh.roles[k.toNat]? = some r → (r.allot - t.allot) * sh.lanes * 4 ≤ s.freeVreg shop →
    ∃ s' t' sh', exec (.roleUnpark shop) s = .next s' ∧ s'.team? n = some t' ∧ t'.allot = r.allot ∧ t'.wait = .none ∧
      s'.shop? shop = some sh' ∧ sh'.parked = rest) ∧
  (∀ (n : BitVec 3) (s : State) (x : Ctx), Issues (.join n) s x → ∃ c : BitVec 8,
    exec (.join n) s = .next (s.afterWord x (.join n) { x.t with crews := c } .next) ∧
      ∀ j, c.getLsbD j = (x.t.crews.getLsbD j || decide (j = n.toNat))) ∧
  (∀ (n : BitVec 3) (s : State) (x : Ctx), Issues (.leave n) s x → x.t.crews.getLsbD n.toNat = false →
    exec (.leave n) s = .next (s.settle x.n x.sh.lanes (.leave n) .next)) ∧
  (∀ (n : BitVec 3) (s : State) (x : Ctx), Issues (.leave n) s x → x.t.crews.getLsbD n.toNat = true → ∃ (c : BitVec 8) (sh' : Shop),
    exec (.leave n) s = .next (((s.setTeam x.n { x.t with crews := c }).setShop (shopOf x.n) sh').settle x.n x.sh.lanes (.leave n) .next) ∧
      (∀ j, c.getLsbD j = (x.t.crews.getLsbD j && decide (j ≠ n.toNat))) ∧ sh' = x.sh.crewLeave n.toNat (teamIx x.n))

/-! ### Faults, handlers, traps and the order of checks before a word (R178 to R191, R204, R408) -/

namespace Sys2Proof.Claims

open Sys2Proof.Machine

/-- The opcodes' own words: every constructor but the events. -/
def isWord (i : Instr) : Prop := hasWord i = true

/-- What handler entry leaves of the shop: all but waits of the team. -/
def sameShop (x x' : Shop) : Prop := { x' with qwait := x.qwait, barWait := x.barWait } = x

/-- The fault record (R181): registers s56 to s63. -/
def recordOk (t t' : Team) (e : Trap) (word : W32) (lit : Option W32) : Prop :=
  (t'.rdS 56).extractLsb' 56 8 = e.code.code ∧ (t'.rdS 56).extractLsb' 46 10 = BitVec.ofNat 10 e.lane ∧
  (t'.rdS 56).extractLsb' 42 4 = BitVec.ofNat 4 e.step ∧ (t'.rdS 56).extractLsb' 40 2 = BitVec.ofNat 2 e.src ∧
  (t'.rdS 56).extractLsb' 34 6 = BitVec.ofNat 6 e.creg ∧ (t'.rdS 56).getLsbD 33 = e.port ∧ (t'.rdS 56).getLsbD 32 = lit.isSome ∧
  (t'.rdS 56).extractLsb' 0 32 = 0 ∧ t'.rdS 57 = t.pc ∧ t'.rdS 58 = lit.getD 0 ++ word ∧ t'.rdS 59 = BitVec.ofNat 64 e.off ∧
  t'.rdS 60 = BitVec.ofNat 64 (e.addr % 2 ^ 57) ∧ t'.rdS 61 = BitVec.ofNat 64 e.aux ∧
  t'.rdS 62 = 0#16 ++ t.dlleft ++ t.mode ∧ t'.rdS 63 = 1 ∧ ∀ r, (r < 56 ∨ 63 < r) → t'.rdS r = t.rdS r

end Sys2Proof.Claims

/-- A fault other than DEADLINE, of a team that has a handler and is not in it, is one step into the handler: the record is
written, the loop state is shadowed, MODE is 0, DLLEFT is the node default, PC is HANDLER; every other register of the team, every
other team and memory are unchanged (R181, R182). -/
def Obligations.FaultEntersTheHandler : Prop :=
  ∀ (s : State) (n : Nat) (e : Trap) (word : W32) (lit : Option W32) (t : Team) (x : Shop) (h : BitVec 32),
    s.team? n = some t → s.shop? (shopOf n) = some x → t.ended = false → t.inHandler = false → x.handler = some h → e.code ≠ .deadline →
    ∃ t' x', s.takeFault n e word lit = (({ s with cur := none, late := false } : State).setShop (shopOf n) x').setTeam n t' ∧
      sameShop x x' ∧ recordOk t t' e word lit ∧ t'.pc = h.setWidth 64 ∧ t'.mode = 0 ∧ t'.dlleft = x.deadline ∧ t'.shadow = t.loop ∧
      t'.loop = .none ∧ t'.inHandler = true ∧ t'.wait = .none ∧ t'.yielded = false ∧
      { t' with sreg := t.sreg, pc := t.pc, mode := t.mode, dlleft := t.dlleft, shadow := t.shadow, loop := t.loop,
                inHandler := t.inHandler, wait := t.wait, noBreak := t.noBreak, yielded := t.yielded } = t

/-- A fault that no handler may receive ends the node: one with no handler, one in the handler, and DEADLINE. Every team of the
shop stops, and no team of another node changes (R128, R184, R185). -/
def Obligations.FaultEndsTheNode : Prop :=
  ∀ (s : State) (n : Nat) (e : Trap) (word : W32) (lit : Option W32) (t : Team) (x : Shop), s.team? n = some t →
    s.shop? (shopOf n) = some x → t.ended = false → (x.handler = none ∨ t.inHandler = true ∨ e.code = .deadline) →
    let s' := s.takeFault n e word lit
    s'.cur = none ∧ (∀ m u, s'.team? m = some u → shopOf m = shopOf n → u.ended = true) ∧
      (∃ x', s'.shop? (shopOf n) = some x' ∧ (x'.phase = .failed ∨ x'.phase = .discarded)) ∧
      ∀ m y, s.shop? (shopOf m) = some y → shopOf m ≠ shopOf n → (x.launch = none ∨ y.launch ≠ x.launch ∨ y.node ≠ x.node) →
        s'.team? m = s.team? m

/-- The error record of a launch queue in HBM is written whole while VALID is 0; while it is 1 only OVF changes, which counts and
saturates (R188). -/
def Obligations.ErrorRecordIsWrittenOnce : Prop :=
  ∀ (s : State) (fn q bits : Nat) (a : Nat),
    a = localOf ((s.root fn 0).addr + ((Sparse.look (s.func fn).queues q).getD LQueue.zero).err.toNat) → a + 64 ≤ hbmTop → bits < 2 ^ 512 →
    let s' := s.writeErrorRecord fn q bits
    (∀ b, (b < a ∨ a + 64 ≤ b) → s'.mem.byte b = s.mem.byte b) ∧
    (s.mem.byte a % 2 = 0 → ∀ j, j < 64 → s'.mem.byte (a + j) = BitVec.ofNat 8 (bits / 2 ^ (8 * j))) ∧
    (s.mem.byte a % 2 = 1 → (∀ j, j < 64 → j ≠ 6 → j ≠ 7 → s'.mem.byte (a + j) = s.mem.byte (a + j)) ∧
      (s'.mem.byte (a + 6)).toNat + 2 ^ 8 * (s'.mem.byte (a + 7)).toNat =
        min 0xFFFF ((s.mem.byte (a + 6)).toNat + 2 ^ 8 * (s.mem.byte (a + 7)).toNat + 1))

/-- TRAP outside the handler and BKPT raise BREAK with their operand in FAUX; TRAP in the handler ends the node (R184, R274). ERET
returns with MODE, PC and the loop state restored, a restored loop whose end is that PC repeats or ends (R266), and it is an ILLEGAL_FIELD outside
the handler (R183); that s57[1..0] are dropped is the
model's choice (log entry 169). DEADLINE is taken before a
word when DLLEFT is 0 (R106, R108). -/
def Obligations.TrapsBreakpointsAndReturn : Prop :=
  (∀ (v : BitVec 16) (s : State) (x : Ctx), Issues (.trap v) s x → x.t.inHandler = false →
    faults (.trap v) s x ⟨.brk, 0, 0, 0, 0, false, 0, 0, v.toNat⟩) ∧
  (∀ (v : BitVec 16) (s : State) (x : Ctx), Issues (.trap v) s x → x.t.inHandler = true → ∃ s',
    exec (.trap v) s = .next s' ∧ s'.cur = none ∧ (∀ m u, s'.team? m = some u → shopOf m = shopOf x.n → u.ended = true)) ∧
  (∀ (v : BitVec 16) (s : State) (x : Ctx), Issues (.bkpt v) s x → faults (.bkpt v) s x ⟨.brk, 0, 0, 0, 0, false, 0, 0, v.toNat⟩) ∧
  (∀ (h : BitVec 4) (s : State) (x : Ctx), Issues (.eret h) s x → x.t.inHandler = true → modeOk ((x.t.rdS 62).setWidth 32) →
    let pc := x.t.rdS 57 &&& ~~~3#64
    let back : Team := { x.t with
      mode := (x.t.rdS 62).setWidth 32, pc := pc, loop := x.t.shadow, shadow := .none, inHandler := false, dlleft := x.sh.deadline, noBreak := true
      yielded := false }
    exec (.eret h) s = .next (s.afterWord x (.eret h) (back.loopEnd x.sh.lanes pc) .stay) ∧
    (((∀ r, x.t.shadow.rep = some r → r.stop ≠ pc) ∧ ∀ b, x.t.shadow.lb = some b → b.stop ≠ pc) → back.loopEnd x.sh.lanes pc = back) ∧
    (∀ r, x.t.shadow.rep = some r → r.stop = pc → r.left ≠ 1 → back.loopEnd x.sh.lanes pc =
      { back with pc := r.start, loop := { x.t.shadow with rep := some { r with left := r.left - 1, done := r.done + 1 } } })) ∧
  (∀ (h : BitVec 4) (s : State) (x : Ctx), Issues (.eret h) s x → ¬ (x.t.inHandler = true ∧ modeOk ((x.t.rdS 62).setWidth 32)) →
    faults (.eret h) s x (.plain .illegalField)) ∧
  (∀ (s : State) (x : Ctx), s.cur = some x.n → s.team? x.n = some x.t → s.shop? (shopOf x.n) = some x.sh → x.t.ended = false →
    x.t.wait = .none → x.t.dlleft = 0 →
    exec .deadline s = .next (s.takeFault x.n (.plain .deadline) (s.rawWord x).1 (s.rawWord x).2))

/-- Every word that fails a check which the word alone decides faults at that word and has no other effect: ILLEGAL_OPCODE for
opcode 0x00 and for a matrix word on a V-core, ILLEGAL_FIELD for a reserved field value and for a word that the body of an
active loop refuses (R10, R204, R267, R268). -/
def Obligations.IllegalWordsFault : Prop :=
  ∀ (i : Instr) (s : State) (x : Ctx), isWord i → s.cur = some x.n → s.team? x.n = some x.t → s.shop? (shopOf x.n) = some x.sh →
    x.t.ended = false → x.t.wait = .none →
    let matrixOnV := x.sh.onV = true ∧ isMatrixOp (encodeNat i / 2 ^ 24) = true
    ((∃ d a b, i = .ill d a b) ∨ matrixOnV → faults i s x (.plain .illegalOpcode)) ∧
    (¬ (∃ d a b, i = .ill d a b) → ¬ matrixOnV → (WellFormed i = false ∨ loopRefuses x.t.loop x.t.pc i = true) →
      faults i s x (.plain .illegalField))

/-! ### Memory, capabilities in use, and the words that access memory (R53, R61 to R65, R89, R135, R144, R151, R152, R275 to
R284, R296 to R302, R306) -/

namespace Sys2Proof.Claims

open Sys2Proof.Machine

/-- A cell of memory: a byte of the HBM, or of a shop's scratchpad. -/
inductive Cell where
  /-- HBM, by local address. -/
  | hbm (a : Nat)
  /-- Scratchpad of a shop, by offset. -/
  | pad (shop a : Nat)
deriving DecidableEq, Repr

/-- The byte in a cell. -/
def byteIn (s : State) : Cell → Byte
  | .hbm a => s.mem.byte a
  | .pad shop a => (s.spad shop).byte a

/-- The tag of the granule of a cell. -/
def tagIn (s : State) : Cell → Bool
  | .hbm a => s.mem.tagAt a
  | .pad shop a => (s.spad shop).tagAt a

/-- The poison of the granule of a cell. -/
def poisonIn (s : State) : Cell → Bool
  | .hbm a => Sparse.get false s.mem.poison (a / 16)
  | .pad shop a => Sparse.get false (s.spad shop).poison (a / 16)

/-- The granule of a cell. -/
def granuleOf : Cell → Cell
  | .hbm a => .hbm (a / 16)
  | .pad shop a => .pad shop (a / 16)

/-- The cell of byte `j` of an access in the memory of the device: an interleaved private access of 8 bytes lies in two words
(R144, R278). -/
def cellOf (a : Access) (j : Nat) : Cell :=
  match a.place with
  | .home p => .hbm (p + j)
  | .split p q => if j < 4 then .hbm (p + j) else .hbm (q + (j - 4))
  | .spad shop off => .pad shop (off + j)
  | _ => .hbm 0

/-- The access lies in the HBM or in a scratchpad, each of its bytes in a cell of its own. -/
def inMemory (s : State) (a : Access) : Prop :=
  (match a.place with
    | .home p => p < hbmTop
    | .split p q => p < hbmTop ∧ q < hbmTop ∧ (p + 4 ≤ q ∨ q + 4 ≤ p) ∧ a.size = 8
    | .spad shop _ => (s.shop? shop).isSome = true
    | _ => False)

/-- The value of a register or element of a TYPE as an integer (R208). -/
def tyInt (ty : Ty) (v : Nat) : Int := if ty.signed then toSigned ty.width v else v % 2 ^ ty.width

/-- The new value of an atomic of a TYPE (R297), none where CAS does not match. -/
def atomicTable (ty : Ty) (old x y : Nat) : Nat → Option Nat
  | 0 => some ((old + x) % 2 ^ ty.width)
  | 1 => some (ty.flt.encode .rne 0 false (FVal.add .rne (ty.flt.decode old) (ty.flt.decode x)))
  | 2 => some (if tyInt ty old ≤ tyInt ty x then old else x)
  | 3 => some (if tyInt ty old ≤ tyInt ty x then x else old)
  | 4 => some (old &&& x)
  | 5 => some (old ||| x)
  | 6 => some (old ^^^ x)
  | 7 => some x
  | 8 => if old = x then some y else none
  | 9 => some (if x ≤ old then 0 else old + 1)
  | _ => none

/-- A capability operand is c`r`, or a quad that the team's allotment holds (R94). -/
def capOk (x : Ctx) : CapRef → Prop
  | .c _ => True
  | .quad q => 4 * q.toNat + 3 < x.t.allot

/-- The function's policy allows a scope (R165). -/
def scopeOk (x : Ctx) (s : State) (sc : BitVec 6) : Prop :=
  x.sh.band = 0 ∨ ((sc.getLsbD 1 = true → (s.func x.sh.fn).policy.getLsbD 1 = true) ∧ (sc.getLsbD 0 = true → (s.func x.sh.fn).policy.getLsbD 0 = true))

/-- What a memory word asks for: its operands in order, the lanes that access, the checked access of each, what a returned
access does to the team, and whether WAITC counts it with the stores. -/
structure MemForm where
  /-- The operand checks pass. -/
  ok : Prop
  /-- Lanes, ascending. -/
  lanes : List Nat
  /-- The access of a lane after R65, or its fault. -/
  access : Nat → Except Trap Access
  /-- The effect of a returned access on the team. -/
  put : Access → AccRes → Team → Team
  /-- Counted with stores by WAITC. -/
  store : Bool

/-- A load of `n` bytes for each lane, naturally aligned. -/
def loadForm (x : Ctx) (s : State) (ok : Prop) (m : CapRef) (kinds : List (BitVec 4)) (lanes : List Nat) (off : Nat → Nat) (n : Nat)
    (put : Access → AccRes → Team → Team) : MemForm :=
  ⟨ok, lanes, fun l => x.access s ⟨kinds, true, pLD, true, false⟩ m l (off l) n n .read, put, true⟩

/-- A store of `n` bytes for each lane. -/
def storeForm (x : Ctx) (s : State) (ok : Prop) (m : CapRef) (lanes : List Nat) (off : Nat → Nat) (n : Nat) (v : Nat → Nat) : MemForm :=
  ⟨ok, lanes, fun l => x.access s ⟨[kData, kLocal, kPrivate], true, pST, false, true⟩ m l (off l) n n (.write (natBytes n (v l))),
    fun _ _ t => t, true⟩

/-- The KINDs that a load takes (R275). -/
def ldKinds : List (BitVec 4) := [kData, kLocal, kCode, kLayout, kPrivate]

/-- The memory words under a TYPE. -/
def memForm (x : Ctx) (s : State) (ty : Ty) : Instr → Option MemForm
  | .ld d m o => some (loadForm x s (x.t.ty? = some ty ∧ regOk x ty.wide d.toNat ∧ capOk x m ∧ regOk x false o.toNat) m ldKinds x.lanes
      (fun l => (x.t.rdV l o.toNat).toNat) ty.bytes fun a r t => t.wrW ty.wide a.lane d.toNat (bytesNat r.data))
  | .ldAcq d m o => some (loadForm x s (x.t.ty? = some ty ∧ regOk x ty.wide d.toNat ∧ capOk x m ∧ regOk x false o.toNat ∧ (x.exec = 0 ∨ scopeOk x s x.t.scope))
      m ldKinds x.lanes (fun l => (x.t.rdV l o.toNat).toNat) ty.bytes fun a r t => t.wrW ty.wide a.lane d.toNat (bytesNat r.data))
  | .ldv d c o => some (loadForm x s (x.t.ty? = some ty ∧ regOk x ty.wide d.toNat) (.c c) ldKinds x.lanes
      (fun l => (x.t.rdS o.toNat).toNat + ty.bytes * l) ty.bytes fun a r t => t.wrW ty.wide a.lane d.toNat (bytesNat r.data))
  | .ldu d c o => some (loadForm x s (x.t.ty? = some ty) (.c c) ldKinds [0] (fun _ => (x.t.rdS o.toNat).toNat) ty.bytes
      fun _ r t => t.wrS d.toNat (if ty = .i32 then (BitVec.ofNat 32 (bytesNat r.data)).signExtend 64 else BitVec.ofNat 64 (bytesNat r.data)))
  | .st d m o => some (storeForm x s (x.t.ty? = some ty ∧ regOk x ty.wide d.toNat ∧ capOk x m ∧ regOk x false o.toNat) m x.lanes
      (fun l => (x.t.rdV l o.toNat).toNat) ty.bytes fun l => x.t.rdW ty.wide l d.toNat)
  | .stRel d m o => some (storeForm x s (x.t.ty? = some ty ∧ regOk x ty.wide d.toNat ∧ capOk x m ∧ regOk x false o.toNat ∧ (x.exec = 0 ∨ scopeOk x s x.t.scope))
      m x.lanes (fun l => (x.t.rdV l o.toNat).toNat) ty.bytes fun l => x.t.rdW ty.wide l d.toNat)
  | .stv d c o => some (storeForm x s (x.t.ty? = some ty ∧ regOk x ty.wide d.toNat) (.c c) x.lanes
      (fun l => (x.t.rdS o.toNat).toNat + ty.bytes * l) ty.bytes fun l => x.t.rdW ty.wide l d.toNat)
  | .stu d c o => some (storeForm x s (x.t.ty? = some ty) (.c c) [0] (fun _ => (x.t.rdS o.toNat).toNat) ty.bytes fun _ => (x.t.rdS d.toNat).toNat)
  | .ldq (.c r) m o => some ⟨True, [0], fun _ => x.access s ⟨ldKinds, true, pLD, true, false⟩ m 0 (x.t.rdS o.toNat).toNat 16 16 .readCap,
      fun a v t => t.wrC r.toNat (s.loadedCap a.cap v), true⟩
  | .ldq (.quad q) m o => some ⟨4 * q.toNat + 3 < x.t.allot ∧ capOk x m ∧ regOk x false o.toNat, x.lanes,
      fun l => x.access s ⟨ldKinds, true, pLD, true, false⟩ m l (x.t.rdV l o.toNat).toNat 16 16 .readCap,
      fun a v t => t.wrQuad a.lane q.toNat (s.loadedCap a.cap v), true⟩
  | .stq (.c r) m o => some ⟨True, [0], fun _ =>
      (x.capStore s (x.t.rdC r.toNat) m 0 (x.t.rdS o.toNat).toNat).map (Access.soiled (x.t.capPoison r.toNat)), fun _ _ t => t, true⟩
  | .stq (.quad q) m o => some ⟨4 * q.toNat + 3 < x.t.allot ∧ capOk x m ∧ regOk x false o.toNat, x.lanes,
      fun l => (x.capStore s (x.t.rdQuad l q.toNat) m l (x.t.rdV l o.toNat).toNat).map (Access.soiled (x.t.quadPoison l q.toNat)),
      fun _ _ t => t, true⟩
  | .bsld q c _ => some ⟨q.toNat + 3 < x.t.allot, x.lanes.filter fun l => (x.t.rdStream l q.toNat).n ≤ 32,
      fun l => x.access s ⟨[kData, kLocal], false, pLD, true, false⟩ (.c c) l (x.t.rdStream l q.toNat).p.toNat 4 4 .read,
      fun a r t => t.wrStream a.lane q.toNat ((x.t.rdStream a.lane q.toNat).refill (BitVec.ofNat 32 (bytesNat r.data))), true⟩
  | .atom p n r c o => some ⟨x.t.ty? = some ty ∧ atomicTy p.toNat ty = true ∧ 4 * n.toNat + 3 < x.t.allot ∧ regOk x false o.toNat ∧
        (r = 0 ∨ x.exec = 0 ∨ scopeOk x s x.t.scope), x.lanes,
      fun l => x.access s ⟨[kData, kLocal], true, pLD ||| pST ||| pAT, false, true⟩ (.c c) l (x.t.rdV l o.toNat).toNat ty.bytes ty.bytes
        (.atomic p.toNat ty.code (x.t.rdW ty.wide l (4 * n.toNat)) (x.t.rdW ty.wide l (4 * n.toNat + 2))),
      fun a v t => t.wrW ty.wide a.lane (4 * n.toNat) (bytesNat v.data), false⟩
  | .red p n r c o => some ⟨x.t.ty? = some ty ∧ atomicTy p.toNat ty = true ∧ 4 * n.toNat + 1 < x.t.allot ∧ regOk x false o.toNat ∧
        (r = 0 ∨ x.exec = 0 ∨ scopeOk x s x.t.scope), x.lanes,
      fun l => x.access s ⟨[kData, kLocal], true, pLD ||| pST ||| pAT, false, true⟩ (.c c) l (x.t.rdV l o.toNat).toNat ty.bytes ty.bytes
        (.atomic p.toNat ty.code (x.t.rdW ty.wide l (4 * n.toNat)) 0),
      fun _ _ t => t, true⟩
  | .atomu p m r c o => some ⟨x.t.ty? = some ty ∧ atomicTy p.toNat ty = true ∧ (r = 0 ∨ scopeOk x s x.t.scope), [0],
      fun _ => x.access s ⟨[kData, kLocal], true, pLD ||| pST ||| pAT, false, true⟩ (.c c) 0 (x.t.rdS o.toNat).toNat ty.bytes ty.bytes
        (.atomic p.toNat ty.code ((x.t.rdS (4 * m.toNat)).toNat % 2 ^ ty.width) ((x.t.rdS (4 * m.toNat + 1)).toNat % 2 ^ ty.width)),
      fun _ v t => t.wrS (4 * m.toNat) (if ty = .i32 then (BitVec.ofNat 32 (bytesNat v.data)).signExtend 64 else BitVec.ofNat 64 (bytesNat v.data)), false⟩
  | _ => none

/-- The state after accesses have been performed in order and given to the team: the word is over. -/
def afterAccesses (s : State) (x : Ctx) (i : Instr) (F : MemForm) (accs : List Access) : State :=
  let r := s.performAll accs
  let t0 := (r.1.team? x.n).getD x.t
  let t := r.2.foldl (fun t p => F.put p.1 p.2 t) t0
  ((r.1.setTeam x.n { t with wait := .none, outStores := t.outStores ++ (if F.store then s.storesOf accs else []) }).dropReqs accs).settle
    x.n x.sh.lanes i .next

/-- Unacknowledged stores hold a word back: an SO or SY access waits for such a store at a peer, and at a peer for every such store (R161); a
release, and under revision 2 an RC store (R177), waits for the stores at peers, and at a peer for every earlier store (R166, R173). -/
def heldBack (rev2 : Bool) (out : List OutStore) (i : Instr) (accs : List Access) : Prop :=
  ((∃ a ∈ accs, a.isSo = true) ∧ ∃ o ∈ out, o.isSo = true ∧ o.isPeer = true) ∨
    ((∃ a ∈ accs, a.unsent = true ∧ a.isSo = true) ∧ ∃ o ∈ out, o.isSo = true) ∨
    ((isRelease i = true ∨ (rev2 = true ∧ ∃ a ∈ accs, a.isRcStore = true)) ∧
      ((∃ o ∈ out, o.isPeer = true) ∨ ((∃ a ∈ accs, a.unsent = true) ∧ out ≠ [])))

/-- The event `ev` acknowledges the entry `o` of a team, with the entries `before` older than it: its oldest store, or its oldest DEAD. -/
def acknowledges (n : Nat) (before : List OutStore) (o : OutStore) (ev : Instr) : Prop :=
  (o.isStore = true ∧ (∀ b ∈ before, b.isStore = false) ∧ ev = .storeAck n) ∨
    (o.isStore = false ∧ (∀ b ∈ before, b.isStore = true) ∧ ev = .deadComplete n)

/-- The requests of a word are under way: each access at a peer has a request of its team that nothing has answered, and no other access differs. -/
def sent (s s' : State) (n : Nat) (old new : List Access) : Prop :=
  new.length = old.length ∧ ∀ (j : Nat) (a b : Access), old[j]? = some a → new[j]? = some b →
    (a.unsent = false → b = a) ∧
    (a.unsent = true → ∃ id r, b = { a with place := .remote id } ∧ s.nextId < id ∧ Sparse.look s'.reqs id = some r ∧ r.team = some n ∧ r.answer = none)

/-- The checks of an access of `size` bytes at `off` in the order of R65, each with the code and the step of its failure: the alignment that the word
asks for, and for the MMIO window R136's; private accesses pass the limit of the word or the quad view (R144); the last is R402's. -/
def useChecks (x : Ctx) (s : State) (u : Use) (c : Cap) (off size align : Nat) : List (Prop × FaultCode × Nat) :=
  let addr := (c.addr + off) % 2 ^ 57
  let there : Bool := c.dev ≠ s.devId.toNat
  let mmio : Prop := isGlobal c.kind = true ∧ mmioBase ≤ localOf addr ∧ localOf addr < mmioBase + 0x10000000
  let plim := c.len / (4 * x.sh.lanes)
  let early : Bool := there && !s.devSet
  let priv : Bool := c.kind = kPrivate
  [(c.tag = true, .tag, 1),
    (if c.kind = kSealed then u.sealedOk = true ∧ (there = true → c.inner ∈ u.kinds) else c.kind ∈ u.kinds, .kind, 2),
    ((c.kind = kSealed → there = true) ∧ (isGlobal c.kind = true → there = false), if early then .remoteAbsent else .sealed, if early then 0 else 3),
    (x.sh.band = 0 ∨ c.band = x.sh.band ∨ (c.band = 255 ∧ u.reads = true),
      if c.band = 255 ∧ (u.writes = true ∨ u.perm &&& pGO ≠ 0) then .perm else .band, 4),
    (c.perm &&& u.perm = u.perm ∧ (mmio → x.sh.band = 0), .perm, 5),
    (c.kind ≠ kSealed → ∀ q ∈ s.quar, c.affected q.base q.top = false, .quarantine, 6),
    (if priv then (if size = 16 then 4 * (off / 16) + 3 < plim else (off + size - 1) / 4 < plim) else off + size ≤ c.len,
      if priv then .stackLimit else .bounds, 7),
    (off % align = 0 ∧ (mmio → (size = 4 ∨ size = 8) ∧ localOf addr % size = 0), .align, 8),
    (u.writes = true → c.kind = kData ∨ c.kind = kSealed → c.perm &&& pCW ≠ pCW, .cow, 9),
    (c.kind = kSealed → s.devSet = true, .remoteAbsent, 0)]

/-- Nothing outside the device has to answer an access, it reads no poison, and it can be performed now. -/
def readyNow (s : State) (a : Access) : Prop := a.unsent = false ∧ s.accessReady a = true ∧ s.returnFault a = none

end Sys2Proof.Claims

/-- The check of a use of a capability (R65, for the MMIO window also R136): it passes exactly when every condition of the rule holds, and then names the
place that base and offset give, for a private capability that of the word or the quad view (R144), for a sealed one the peer (R70); else the first
condition that fails gives the code and the step. The model's choice in it: what an address on another device gives before DEVID is written (log entry
34). -/
def Obligations.CapabilityCheckIsExact : Prop :=
  ∀ (x : Ctx) (s : State) (u : Use) (c : Cap) (lane src creg off size align : Nat),
    let addr := (c.addr + off) % 2 ^ 57
    let base := c.addr + if size = 16 then 16 * (off / 16 * x.sh.lanes + lane) else 4 * (off / 4 * x.sh.lanes + lane) + off % 4
    let site : Place × Nat :=
      if c.kind = kPrivate then (if size = 8 then .split (localOf base) (localOf base + 4 * x.sh.lanes) else .home (localOf base), base % 2 ^ 57)
      else (if c.kind = kSealed then .remote 0 else if c.kind = kLocal then .spad (shopOf x.n) (localOf c.addr + off) else .home (localOf addr), addr)
    ((∀ k ∈ useChecks x s u c off size align, k.1) → x.place s u c lane src creg off size align = .ok site) ∧
    (∀ (i : Nat) (ok : Prop) (code : FaultCode) (step : Nat), (useChecks x s u c off size align)[i]? = some (ok, code, step) → ¬ ok →
      (∀ (j : Nat) (k : Prop × FaultCode × Nat), j < i → (useChecks x s u c off size align)[j]? = some k → k.1) →
      ∃ a aux, x.place s u c lane src creg off size align = .error ⟨code, lane, step, src, creg, false, off, a, aux⟩ ∧
        (¬ (c.kind = kPrivate ∧ step = 8) → a = addr) ∧ (code ≠ .quarantine → aux = 0) ∧
        (code = .quarantine → ∃ q ∈ s.quar, c.affected q.base q.top = true ∧ aux = q.pass))

/-- The memory words make the checked access of each of their lanes in ascending order and give what it returned to the team;
the lowest lane whose check fails faults and nothing is accessed, and the lowest lane whose access returns a fault faults the
word (R65, R89, R275 to R278, R282, R296, R298). The model's choices in it: the sum of LDV and STV is not wrapped (log entry 12), SCOPE is not raised
with an empty mask (log entry 35), an atomic needs LD, ST and AT (log entry 37), loads that are not late return at once (log entry 6), lanes of one
atomic word on one target go in ascending order (log entry 180), a word's stores are one entry (log entry 63). -/
def Obligations.MemoryWordsPerformTheirAccesses : Prop :=
  ∀ (i : Instr) (s : State) (x : Ctx) (ty : Ty) (F : MemForm), Issues i s x → s.late = false → memForm x s ty i = some F → F.ok →
    (∀ acc : Nat → Access, (∀ l ∈ F.lanes, F.access l = .ok (acc l) ∧ readyNow s (acc l)) →
      ¬ heldBack x.sh.rev2 x.t.outStores i (F.lanes.map acc) → exec i s = .next (afterAccesses s x i F (F.lanes.map acc))) ∧
    (∀ l ∈ F.lanes, ∀ e, F.access l = .error e → (∀ k ∈ F.lanes, k < l → ∃ a, F.access k = .ok a) → faults i s x e) ∧
    (∀ acc : Nat → Access, (∀ l ∈ F.lanes, F.access l = .ok (acc l) ∧ (acc l).unsent = false ∧ s.accessReady (acc l) = true) →
      ¬ heldBack x.sh.rev2 x.t.outStores i (F.lanes.map acc) → ∀ l ∈ F.lanes, ∀ e, s.returnFault (acc l) = some e → (∀ k ∈ F.lanes, k < l → s.returnFault (acc k) = none) → faults i s x e)

/-- In the memory of the device a read gives the bytes of its cells and changes nothing of memory; a write stores its bytes in
its cells, clears the tag of every granule that it touches, and changes no other byte and no other tag (R61, R62, R135, R277). An atomic in the memory of the device returns the old bytes and stores the value that R297 tabulates, or nothing where a CAS
does not match; a capability read gives the granule with its tag, and a capability write stores a granule with its tag
(R61, R62, R297), cleared where a quarantined region or a remote range affects the capability by then (R63); the granule loses its poison, or is
poisoned where the data came from a poisoned quad (R186). -/
def Obligations.AccessesOfMemory : Prop :=
  (∀ (s : State) (a : Access), inMemory s a →
    (a.op = .read → (s.perform a).2.data = (List.range a.size).map (fun j => byteIn s (cellOf a j)) ∧
      (∀ c, byteIn (s.perform a).1 c = byteIn s c ∧ tagIn (s.perform a).1 c = tagIn s c) ∧ (s.perform a).1.teams = s.teams) ∧
    (∀ bs, a.op = .write bs → bs.length = a.size →
      (∀ j, j < a.size → byteIn (s.perform a).1 (cellOf a j) = bs.getD j 0 ∧ tagIn (s.perform a).1 (cellOf a j) = false) ∧
      (∀ c, (∀ j, j < a.size → cellOf a j ≠ c) → byteIn (s.perform a).1 c = byteIn s c) ∧
      (∀ c, (∀ j, j < a.size → granuleOf (cellOf a j) ≠ granuleOf c) → tagIn (s.perform a).1 c = tagIn s c) ∧
      (s.perform a).1.teams = s.teams)) ∧
  (∀ (s : State) (a : Access), inMemory s a → (∀ p q, a.place ≠ .split p q) →
    (∀ (p : Nat) (ty : Ty) (x y : Nat), a.op = .atomic p ty.code x y → p < 10 → a.size = ty.bytes →
      let old := bytesNat ((List.range a.size).map fun j => byteIn s (cellOf a j))
      bytesNat (s.perform a).2.data = old ∧ (s.perform a).1.teams = s.teams ∧
      (atomicTable ty old x y p = none → ∀ c, byteIn (s.perform a).1 c = byteIn s c ∧ tagIn (s.perform a).1 c = tagIn s c) ∧
      (∀ v, atomicTable ty old x y p = some v →
        (∀ j, j < a.size → byteIn (s.perform a).1 (cellOf a j) = BitVec.ofNat 8 (v / 2 ^ (8 * j))) ∧
        (∀ c, (∀ j, j < a.size → cellOf a j ≠ c) → byteIn (s.perform a).1 c = byteIn s c))) ∧
    (a.op = .readCap → bytesNat (s.perform a).2.data = bytesNat ((List.range 16).map fun j => byteIn s (cellOf a j)) ∧
      (s.perform a).2.tag = tagIn s (cellOf a 0) ∧ ∀ c, byteIn (s.perform a).1 c = byteIn s c ∧ tagIn (s.perform a).1 c = tagIn s c) ∧
    (∀ c, (a.op = .writeCap c ∨ a.op = .writePoison c) → (∃ k, cellOf a 0 = .hbm (16 * k) ∨ ∃ n, cellOf a 0 = .pad n (16 * k)) →
      (∀ j, j < 16 → byteIn (s.perform a).1 (cellOf a j) = BitVec.ofNat 8 (c.toNat / 2 ^ (8 * j))) ∧
      tagIn (s.perform a).1 (cellOf a 0) = (c.tag && !s.struck c) ∧ poisonIn (s.perform a).1 (cellOf a 0) = decide (a.op = .writePoison c) ∧
      ∀ b, granuleOf b ≠ granuleOf (cellOf a 0) → byteIn (s.perform a).1 b = byteIn s b ∧ tagIn (s.perform a).1 b = tagIn s b))

/-- A memory word that unacknowledged stores hold back waits; one whose access a peer has to answer has a request under way for each such access and
waits; one whose access cannot be performed yet, or whose loads return late, waits; LOAD_DATA_RETURN ends the wait by performing
the accesses. STORE_ACK and DEAD_COMPLETE retire the oldest store and DEAD, and a word that the retired entry alone held back has its requests sent,
or its accesses performed (R151, R161, R166, R173, R177, R279, R353, R355). That the waits are those of the whole team (log entry 202), the mark `late` (log entry 6) and one entry for each word's stores (log entry 63) are the model's choices. -/
def Obligations.MemoryWordsThatWait : Prop :=
  (∀ (i : Instr) (s : State) (x : Ctx) (ty : Ty) (F : MemForm) (acc : Nat → Access), Issues i s x → memForm x s ty i = some F → F.ok →
    (∀ l ∈ F.lanes, F.access l = .ok (acc l)) →
    (heldBack x.sh.rev2 x.t.outStores i (F.lanes.map acc) →
      exec i s = .next (s.afterWord x i { x.t with wait := .access i (F.lanes.map acc) } .stay)) ∧
    (¬ heldBack x.sh.rev2 x.t.outStores i (F.lanes.map acc) → F.lanes.any (fun l => (acc l).unsent) = true →
      ∃ (s' : State) (accs : List Access), exec i s = .next s' ∧ s'.team? x.n = some { x.t with wait := .access i accs } ∧
        s'.mem = s.mem ∧ s'.shops = s.shops ∧ sent s s' x.n (F.lanes.map acc) accs) ∧
    (F.lanes.any (fun l => (acc l).unsent) = false →
      (F.lanes.all (fun l => s.accessReady (acc l)) = false ∨ (s.late = true ∧ F.lanes.any (fun l => (acc l).isHomeLoad) = true)) →
      exec i s = .next (s.afterWord x i { x.t with wait := .access i (F.lanes.map acc) } .stay))) ∧
  (∀ (i : Instr) (s : State) (x : Ctx) (ty : Ty) (F : MemForm) (accs : List Access), s.team? x.n = some x.t → s.shop? (shopOf x.n) = some x.sh →
    x.t.wait = .access i accs → memForm x s ty i = some F → x.t.ty? = some ty → ¬ heldBack x.sh.rev2 x.t.outStores i accs →
    (∀ a ∈ accs, (∀ q, a.place ≠ .remote q) ∧ s.accessReady a = true ∧ s.returnFault a = none) →
    exec (.loadDataReturn x.n) s = .next (afterAccesses s x i F accs)) ∧
  (∀ (s : State) (n : Nat) (t : Team) (before after : List OutStore) (o : OutStore) (ev : Instr), s.team? n = some t →
    t.outStores = before ++ o :: after → acknowledges n before o ev →
    let held := heldBack ((s.shop? (shopOf n)).any Shop.rev2)
    let t1 : Team := { t with outStores := before ++ after }
    ((∀ i accs, t.wait = .access i accs → ¬ held t.outStores i accs ∨ held (before ++ after) i accs) → exec ev s = .next (s.setTeam n t1)) ∧
    (∀ i accs sh, t.wait = .access i accs → s.shop? (shopOf n) = some sh → held t.outStores i accs → ¬ held (before ++ after) i accs →
      (accs.any Access.unsent = true → ∃ (s' : State) (new : List Access), exec ev s = .next s' ∧
        s'.team? n = some { t1 with wait := .access i new } ∧ s'.mem = s.mem ∧ s'.shops = s.shops ∧ sent s s' n accs new) ∧
      (∀ (ty : Ty) (F : MemForm), memForm ⟨n, t1, sh⟩ (s.setTeam n t1) ty i = some F → t1.ty? = some ty →
        (∀ a ∈ accs, (∀ q, a.place ≠ .remote q) ∧ (s.setTeam n t1).accessReady a = true ∧ (s.setTeam n t1).returnFault a = none) →
        exec ev s = .next (afterAccesses (s.setTeam n t1) ⟨n, t1, sh⟩ i F accs))))

namespace Sys2Proof.Claims

open Sys2Proof.Machine

/-- What LDW and STN use of a lane's capability: its format, its layout, and whether its blocks are scaled. -/
structure Wide where
  /-- Element format. -/
  f : ElemFmt
  /-- Blocks carry scales. -/
  blk : Bool
  /-- Its element access, and the access to its scale byte. -/
  elem : Access
  /-- Scale byte. -/
  scale : Access

/-- A lane of LDW or STN passes (R280, R281): format and TYPE pair, the registers exist, the accesses pass R65, and a scaled
element does not lie in a trailer. -/
def wideOk (x : Ctx) (s : State) (store : Bool) (ty : Ty) (d : BitVec 8) (m : CapRef) (o : BitVec 8) (l : Nat) (w : Wide) : Prop :=
  let c := (x.operand m l).1
  let off := (x.t.rdV l o.toNat).toNat
  let n := wideBytes w.f ty
  let kinds : List (BitVec 4) := if store then [kData, kLocal] else [kData, kLocal, kCode, kLayout]
  wideFmt c ty = some w.f ∧ w.blk = isBlockScaled c.fmt c.geo ∧ (widePair w.f ty = true → d.toNat + 1 < x.t.allot) ∧
    x.access s (if store then ⟨kinds, true, if w.blk then pLD ||| pST else pST, false, true⟩ else ⟨kinds, true, pLD, true, false⟩) m l off n n
      (if store then .write [] else .read) = .ok w.elem ∧
    readyNow s w.elem ∧ inMemory s w.elem ∧
    (w.blk = true → inTrailer w.f.width off = false ∧
      x.access s ⟨kinds, true, pLD, true, false⟩ m l (blockScaleByte w.f.width (blockElemAt w.f.width off)) 1 1 .read = .ok w.scale ∧
      readyNow s w.scale ∧ inMemory s w.scale)

/-- The bytes of an access as memory holds them. -/
def bytesOf (s : State) (a : Access) : Nat := bytesNat ((List.range a.size).map fun j => byteIn s (cellOf a j))

/-- The scale of a lane's block. -/
def scaleOf (s : State) (w : Wide) : Option Nat := if w.blk then some (bytesOf s w.scale) else none

/-- The generator after a lane's draws (R407). -/
def wideGen (x : Ctx) (ty : Ty) (w : Wide) (draws : Bool) (l : Nat) : W32 :=
  if draws = true ∧ x.t.rnd = .sto then genAfter (wideCount w.f ty) (x.t.rdGen l) else x.t.rdGen l

/-- The bytes that STN stores in a lane. -/
def narrowed (x : Ctx) (s : State) (ty : Ty) (d : BitVec 8) (l : Nat) (w : Wide) : List Byte :=
  natBytes (wideBytes w.f ty) (joinElems w.f.width (fun j =>
    let v := if widePair w.f ty then (x.t.rdV l (d.toNat + j)).toNat else elemOf ty.width (x.t.rdV l d.toNat).toNat j
    w.f.encode x.t.rnd (if roundingPair ty.elem w.blk w.f then drawn x.t l j else Config.undrawnWord (x.t.rdGen l).toNat j v) x.t.sat
      (unscale (scaleOf s w) (ty.elem.decode v))) (wideCount w.f ty))

/-- An MCAS entry in the HBM. -/
def entryIn (e : McasEntry) : Prop := e.addr + e.width ≤ hbmTop ∧ (e.width = 4 ∨ e.width = 8 ∨ e.width = 16) ∧ e.addr % e.width = 0

/-- What memory holds at an entry. -/
def heldAt (s : State) (e : McasEntry) : Nat × Bool :=
  (bytesNat ((List.range e.width).map fun j => s.mem.byte (e.addr + j)), s.mem.tagAt e.addr && decide (e.width = 16))

end Sys2Proof.Claims

/-- LDW decodes each element with its block scale and rounds it into TYPE; STN reads the scales, converts and then stores the
element bytes alone; both draw as R407 says, and write what R280 and R281 place in vd and vd+1. The model's choices in it: an integer pair
with block scales rounds by a word that is not drawn (log entry 19), integer narrowing saturates (log entry 23), FORMAT comes before the checks of R65 (log entry 28), the scale byte is an access of its
own and STN through blocks needs LD (log entry 29), and 4-bit forms take any vd (log entry 30). -/
def Obligations.WideLoadsAndNarrowStores : Prop :=
  (∀ (d : BitVec 8) (m : CapRef) (o : BitVec 8) (s : State) (x : Ctx) (ty : Ty) (w : Nat → Wide), Issues (.ldw d m o) s x → s.late = false →
    x.t.ty? = some ty → regOk x false d.toNat → capOk x m → regOk x false o.toNat → x.t.allot ≤ 256 →
    (∀ l ∈ x.lanes, wideOk x s false ty d m o l (w l)) → (∀ r, m = .c r → x.wideCheck ty d (x.t.rdC r.toNat) 0 1 r.toNat = .ok ()) →
    ¬ heldBack x.sh.rev2 x.t.outStores (.ldw d m o) (((x.lanes.filter fun l => (w l).blk).map fun l => (w l).scale) ++ x.lanes.map fun l => (w l).elem) →
    ∃ (s1 : State) (t' : Team), exec (.ldw d m o) s = .next (s1.afterWord x (.ldw d m o) t' .next) ∧ { s1 with updMode := s.updMode } = s ∧
      VectorFrame x.t t' (fun l r => x.liveLane l ∧ (r = d.toNat ∨ (r = d.toNat + 1 ∧ widePair (w l).f ty = true))) ∧
      (∀ l, ¬ x.liveLane l → t'.rdGen l = x.t.rdGen l) ∧
      ∀ l, x.liveLane l → t'.rdGen l = wideGen x ty (w l) (roundingPair (w l).f (w l).blk ty.elem) l ∧
        ∀ j, j < wideCount (w l).f ty →
          let v := elemOf (w l).f.width (bytesOf s (w l).elem) j
          (if widePair (w l).f ty then (t'.rdV l (d.toNat + j)).toNat else elemOf ty.width (t'.rdV l d.toNat).toNat j) =
            ty.elem.encode x.t.rnd (if roundingPair (w l).f (w l).blk ty.elem then drawn x.t l j else Config.undrawnWord (x.t.rdGen l).toNat j v) x.t.sat
              (scaled (w l).f (scaleOf s (w l)) v) % 2 ^ (if widePair (w l).f ty then 32 else ty.width)) ∧
  (∀ (d : BitVec 8) (m : CapRef) (o : BitVec 8) (s : State) (x : Ctx) (ty : Ty) (w : Nat → Wide), Issues (.stn d m o) s x → s.late = false →
    x.t.ty? = some ty → regOk x false d.toNat → capOk x m → regOk x false o.toNat →
    (∀ l ∈ x.lanes, wideOk x s true ty d m o l (w l)) → (∀ r, m = .c r → x.wideCheck ty d (x.t.rdC r.toNat) 0 1 r.toNat = .ok ()) →
    let reads := (x.lanes.filter fun l => (w l).blk).map fun l => (w l).scale
    let writes := x.lanes.map fun l => { (w l).elem with op := .write (narrowed x s ty d l (w l)) }
    ¬ heldBack x.sh.rev2 x.t.outStores (.stn d m o) (reads ++ writes) →
    ∃ t', exec (.stn d m o) s = .next (((s.performAll (reads ++ writes)).1.setTeam x.n t').settle x.n x.sh.lanes (.stn d m o) .next) ∧
      { t' with gen := x.t.gen, outStores := x.t.outStores } = x.t ∧ t'.outStores = x.t.outStores ++ s.storesOf writes ∧
      (∀ l, ¬ x.liveLane l → t'.rdGen l = x.t.rdGen l) ∧
      ∀ l, x.liveLane l → t'.rdGen l = wideGen x ty (w l) (roundingPair ty.elem (w l).blk (w l).f) l)

/-- MCAS whose checks pass waits for its locks with its entries (R300); its event then, no store of its team at a peer being unacknowledged (R166), compares all targets with EXP, stores all
DES when they are equal, writes the observed values back to the block when they are not, and writes nothing when poison lies in a
target; sd holds the status and the lowest entry that differed. DES of 16 bytes is stored with its tag, unless a quarantined region or a remote range
affects it by then; observed tags are kept in the block when its capability has STC; nothing else of memory or of the block changes (R62, R63, R301). -/
def Obligations.McasChecksThenEvent : Prop :=
  (∀ (d : BitVec 6) (c : BitVec 5) (h : BitVec 4) (s : State) (x : Ctx) (a : Access) (es : List McasEntry), Issues (.mcas d c h) s x →
    let block := localOf (x.t.rdC c.toNat).addr
    let head := bytesNat (x.sh.spad.read block 16)
    let n := head % 2 ^ 5
    let raws := (List.range n).map fun i => s.mcasRaw x.sh.spad block i (x.t.rdC c.toNat).loadsTags
    x.access s ⟨[kLocal], false, pLD ||| pST, false, true⟩ (.c c) 0 0 16 16 .read = .ok a → 1 ≤ n → n ≤ 16 → head / 2 ^ 5 % 2 ^ 3 = 0 →
    head / 2 ^ 14 = 0 → 16 + 64 * n ≤ (x.t.rdC c.toNat).len → (∀ g, g ∈ granules block (16 + 64 * n) → Sparse.get false x.sh.spad.poison g = false) →
    (∀ r ∈ raws, r.clean = true) → scopeOk x s (BitVec.ofNat 6 (head / 2 ^ 8)) → x.mcasEntries s 0 raws = .ok es →
    es.Pairwise (fun e f => rangesMeet e.addr e.width f.addr (f.addr + f.width) = false) →
    exec (.mcas d c h) s = .next (s.afterWord x (.mcas d c h)
      { x.t with wait := .mcas d block ((x.t.rdC c.toNat).has pSTC) es } .stay)) ∧
  (∀ (s : State) (x : Ctx) (d : BitVec 6) (block : Nat) (stc : Bool) (es : List McasEntry), s.team? x.n = some x.t →
    s.shop? (shopOf x.n) = some x.sh → x.t.wait = .mcas d block stc es → (∀ e ∈ es, entryIn e) →
    es.Pairwise (fun e f => rangesMeet e.addr e.width f.addr (f.addr + f.width) = false) → (∀ o ∈ x.t.outStores, o.isPeer = false) →
    let t (v : Nat) : Team := ({ x.t with wait := .none } : Team).wrS d.toNat (BitVec.ofNat 64 v)
    ((∃ e ∈ es, s.mem.poisoned e.addr e.width = true) →
      ∃ u, exec (.mcasLockGrant x.n) s = .next (({ s with updMode := u } : State).afterWord x (.mcas d 0 0) (t 2) .next)) ∧
    ((∀ e ∈ es, s.mem.poisoned e.addr e.width = false) → (∀ e ∈ es, heldAt s e = (e.exp, e.expTag)) →
      ∃ s' : State, exec (.mcasLockGrant x.n) s = .next (s'.afterWord x (.mcas d 0 0) (t 0) .next) ∧ s'.teams = s.teams ∧ s'.shops = s.shops ∧
        { s' with mem := s.mem, live := s.live, updMode := s.updMode } = s ∧
        (∀ e ∈ es, ∀ j, j < e.width → s'.mem.byte (e.addr + j) = BitVec.ofNat 8 (e.des / 2 ^ (8 * j))) ∧
        (∀ a, (∀ e ∈ es, a < e.addr ∨ e.addr + e.width ≤ a) → s'.mem.byte a = s.mem.byte a) ∧
        (∀ e ∈ es, s'.mem.tagAt e.addr = (decide (e.width = 16) && e.desTag && !s.struck (Cap.ofNat e.des e.desTag))) ∧
        ∀ a, (∀ e ∈ es, a / 16 ≠ e.addr / 16) → s'.mem.tagAt a = s.mem.tagAt a) ∧
    (∀ (pre : List McasEntry) (e : McasEntry) (post : List McasEntry), es = pre ++ e :: post →
      (∀ f ∈ es, s.mem.poisoned f.addr f.width = false) → (∀ f ∈ pre, heldAt s f = (f.exp, f.expTag)) → heldAt s e ≠ (e.exp, e.expTag) →
      ∃ sh' u, exec (.mcasLockGrant x.n) s =
          .next ((({ s with updMode := u } : State).setShop (shopOf x.n) sh').afterWord x (.mcas d 0 0) (t (1 + pre.length * 2 ^ 8)) .next) ∧
        { sh' with spad := x.sh.spad } = x.sh ∧
        (∀ i f, es[i]? = some f → ∀ j, j < f.width → sh'.spad.byte (block + 48 + 64 * i + j) = s.mem.byte (f.addr + j)) ∧
        (∀ b, (∀ i f, es[i]? = some f → b < block + 48 + 64 * i ∨ block + 48 + 64 * i + f.width ≤ b) → sh'.spad.byte b = x.sh.spad.byte b) ∧
        (block % 16 = 0 →
          (∀ i f, es[i]? = some f → sh'.spad.tagAt (block + 48 + 64 * i) =
            (decide (f.width = 16) && (s.moved (Cap.ofNat (heldAt s f).1 ((heldAt s f).2 && stc))).tag)) ∧
          ∀ b, (∀ i f, es[i]? = some f → b / 16 ≠ (block + 48 + 64 * i) / 16) → sh'.spad.tagAt b = x.sh.spad.tagAt b)))

/-- DEAD makes its range of the HBM read as zero and untagged, and nothing else, once no SO store at a peer holds back a DEAD through an SO capability
(R151, R161); in the host window it stores zeros; a length of 0 changes nothing; a
length that is no multiple of 16 is an ALIGN. PRF changes nothing (R151, R152, R283, R284). The zeros stored in the host window, and that a DEAD of the
MMIO window or of a reserved range does nothing, are the model's choices (log entry 64). -/
def Obligations.DeadAndPrefetch : Prop :=
  (∀ (l : BitVec 6) (c : BitVec 5) (o : BitVec 6) (s : State) (x : Ctx) (p addr : Nat), Issues (.dead l c o) s x →
    let n := (x.t.rdS l.toNat).toNat
    let off := (x.t.rdS o.toNat).toNat
    n % 16 = 0 → x.place s ⟨[kData], false, pST, false, true⟩ (x.t.rdC c.toNat) 0 1 c.toNat off n 16 = .ok (.home p, addr) → p < hbmTop →
    (n = 0 → exec (.dead l c o) s = .next (s.settle x.n x.sh.lanes (.dead l c o) .next)) ∧
    let so := (x.t.rdC c.toNat).isSo
    let held : Prop := so = true ∧ ∃ o ∈ x.t.outStores, o.isSo = true ∧ o.isPeer = true
    (n ≠ 0 → held → exec (.dead l c o) s = .next (s.afterWord x (.dead l c o) { x.t with wait := .blocked (.dead l c o) false } .stay)) ∧
    (n ≠ 0 → ¬ held → ∃ s' : State, exec (.dead l c o) s =
        .next (s'.afterWord x (.dead l c o) { x.t with wait := .none, outStores := x.t.outStores ++ [.dead p n so] } .next) ∧
      { s' with mem := s.mem, live := s.live, updMode := s.updMode } = s ∧
      (∀ a, s'.mem.byte a = if p ≤ a ∧ a < p + n then 0 else s.mem.byte a) ∧
      (p % 16 = 0 → ∀ a, s'.mem.tagAt a = if p ≤ a ∧ a < p + n then false else s.mem.tagAt a) ∧
      ∀ b, Sparse.get false s'.live b =
        if (p + 4095) / 4096 ≤ b ∧ b < (p + n) / 4096 then false
        else if p / 4096 ≤ b ∧ b ≤ (p + n - 1) / 4096 then true else Sparse.get false s.live b)) ∧
  (∀ (l : BitVec 6) (c : BitVec 5) (o : BitVec 6) (s : State) (x : Ctx) (p addr : Nat), Issues (.dead l c o) s x → s.late = false →
    let n := (x.t.rdS l.toNat).toNat
    let off := (x.t.rdS o.toNat).toNat
    n % 16 = 0 → n ≠ 0 → x.place s ⟨[kData], false, pST, false, true⟩ (x.t.rdC c.toNat) 0 1 c.toNat off n 16 = .ok (.home p, addr) →
    (∀ w, s.region p = .host w → s.halvesReady w n true = true → (∀ o ∈ x.t.outStores, ¬ (o.isSo = true ∧ o.isPeer = true)) → exec (.dead l c o) s = .next (afterAccesses s x (.dead l c o)
      ⟨True, [0], fun _ => .error (.plain .kind), fun _ _ t => t, true⟩
      [⟨0, .home p, n, .write (List.replicate n 0), x.t.rdC c.toNat, 1, c.toNat, off, addr⟩])) ∧
    (((∃ w, s.region p = .mmio w) ∨ s.region p = .reserved) → exec (.dead l c o) s = .next (s.settle x.n x.sh.lanes (.dead l c o) .next))) ∧
  (∀ (l : BitVec 6) (c : BitVec 5) (o : BitVec 6) (s : State) (x : Ctx) (q : Place × Nat), Issues (.dead l c o) s x →
    let n := (x.t.rdS l.toNat).toNat
    let off := (x.t.rdS o.toNat).toNat
    n % 16 ≠ 0 → x.place s ⟨[kData], false, pST, false, true⟩ (x.t.rdC c.toNat) 0 1 c.toNat off n 16 = .ok q →
    faults (.dead l c o) s x ⟨.align, 0, 8, 1, c.toNat, false, off, q.2, 0⟩) ∧
  (∀ (l : BitVec 1) (m : CapRef) (o : BitVec 8) (s : State) (x : Ctx), Issues (.prf l m o) s x → capOk x m → regOk x false o.toNat →
    exec (.prf l m o) s = .next (s.afterWord x (.prf l m o) x.t .next))

/-! ### Capability words, revocation, fences and counts (R59 to R79, R165, R166, R168, R285 to R295, R304 to R306) -/

namespace Sys2Proof.Claims

open Sys2Proof.Machine

/-- R65 steps 1 to 6 for a derivation from `c`. -/
def derivable (x : Ctx) (s : State) (c : Cap) : Prop :=
  c.tag = true ∧ c.kind ≠ 0 ∧ c.kind.toNat < 8 ∧ (c.kind.toNat < 6 → c.dev = s.devId.toNat) ∧
    (x.sh.band = 0 ∨ c.band = x.sh.band ∨ c.band = 255) ∧ c.perm &&& pDERIVE = pDERIVE ∧ ∀ q ∈ s.quar, c.affected q.base q.top = false

/-- The region [o, o + n) of `c` may become a capability (R57, R287). -/
def boundable (lanes : Nat) (c : Cap) (o n : Nat) : Prop :=
  o + n ≤ c.len ∧ (c.addr + o) % 16 = 0 ∧ (lenFields n).isSome = true ∧ (c.kind = kPrivate → o % (16 * lanes) = 0 ∧ n % (16 * lanes) = 0)

/-- `r` is `c` with the region [o, o + n). -/
def boundTo (c r : Cap) (o n : Nat) : Prop :=
  r.addr = (c.addr + o) % 2 ^ 57 ∧ r.len = n ∧ { r with base := c.base, lexp := c.lexp, lman := c.lman } = c

/-- The order changes that keep or weaken what a capability may ask (R59). -/
def ordMay (a b : BitVec 2) : Prop := a = b ∨ (a = 0 ∧ (b = 1 ∨ b = 2)) ∨ (a = 1 ∧ b = 2)

/-- A KIND that PLOCK and DELEG seal (R68). -/
def sealable (k : BitVec 4) : Prop := k = kData ∨ k = kCode ∨ k = kCommand ∨ k = kLayout ∨ k = kGroup

/-- PINFO's fields (R291). -/
def infoOf (c : Cap) : Nat → Option W64
  | 0 => some (c.kind.setWidth 64)
  | 1 => some (c.band.setWidth 64)
  | 2 => some (c.perm.setWidth 64)
  | 3 => some (c.fmt.setWidth 64)
  | 4 => some (c.geo.setWidth 64)
  | 5 => some (c.ord.setWidth 64)
  | 6 => some (BitVec.ofNat 64 (c.base.toNat * 16))
  | 7 => some (BitVec.ofNat 64 (c.lman.toNat * 16 * 2 ^ c.lexp.toNat))
  | 8 => some (if c.tag then 1 else 0)
  | 9 => some (c.aux.setWidth 64)
  | 10 => some (BitVec.ofNat 64 (c.base.toNat * 16 + c.lman.toNat * 16 * 2 ^ c.lexp.toNat))
  | _ => none

/-- The conditions of PWITHIN's bits 0 to 5 (R292). -/
def withinBit (a b : Cap) : Nat → Prop
  | 0 => a.tag = true ∧ b.tag = true
  | 1 => a.kind ≠ kSealed ∧ b.kind ≠ kSealed
  | 2 => a.band = b.band ∧ a.kind = b.kind
  | 3 => a.addr ≤ b.addr ∧ b.addr + b.len ≤ a.addr + a.len
  | 4 => (∀ j, 0 < j → j < 12 → b.perm.getLsbD j = true → a.perm.getLsbD j = true) ∧ (a.perm.getLsbD 0 = true → b.perm.getLsbD 0 = true)
  | 5 => (a.fmt = 0 ∨ (b.fmt = a.fmt ∧ b.geo = a.geo)) ∧ ordMay a.ord b.ord
  | _ => False

/-- The word writes the capability `r` into its c register and nothing else. -/
def derives (i : Instr) (s : State) (x : Ctx) (d : BitVec 5) (r : Cap) : Prop :=
  exec i s = .next (s.afterWord x i (x.t.wrC d.toNat r) .next)

/-- A command of a queue that is no fence. -/
def isWork (c : Cmd) : Bool :=
  match c.body with
  | .fence _ => false
  | _ => true

/-- The counts of WAITC (R306): stores, commands of the copy and fabric queues, and of the matrix queue. -/
def waitCounts (s : State) (x : Ctx) : Nat × Nat × Nat :=
  (x.t.outStores.length, (s.cmds.filter fun c => decide (c.team = some x.n) && isWork c && (decide (c.queue < 4) || decide (c.queue = 5))).length,
    (s.cmds.filter fun c => decide (c.team = some x.n) && isWork c && decide (c.queue = 4)).length)

end Sys2Proof.Claims

/-- PBOUND, PBOUNDV, PPERM and PFORM derive what R59 allows: a region inside the source, PERM no wider, a format, an order, a band
and a KIND that the source may reach; and fault BOUNDS, REPRESENT, PERM, FORMAT, BAND or KIND where it may not (R287 to R289), with the fields that R181 gives the record: that FOFF is the
requested length for REPRESENT and else 0 (log entry 31), and STEP 0 (log entry 39), are the model's choices. c0 reads as the null capability and a write to it is discarded; every other register reads as it was last written (R61). -/
def Obligations.CapabilityDerivations : Prop :=
  (∀ (d a : BitVec 5) (b : BitVec 6) (s : State) (x : Ctx), Issues (.pbound d a b) s x → derivable x s (x.t.rdC a.toNat) →
    let c := x.t.rdC a.toNat
    let o := (x.t.rdS b.toNat).toNat
    let n := (x.t.rdS (b.toNat + 1)).toNat
    (boundable x.sh.lanes c o n → ∃ r, derives (.pbound d a b) s x d r ∧ boundTo c r o n) ∧
    (c.len < o + n → faults (.pbound d a b) s x ⟨.bounds, 0, 0, 1, a.toNat, false, 0, 0, 0⟩) ∧
    (o + n ≤ c.len → ¬ boundable x.sh.lanes c o n → faults (.pbound d a b) s x ⟨.represent, 0, 0, 1, a.toNat, false, n, 0, 0⟩)) ∧
  (∀ (q : BitVec 8) (a : BitVec 5) (b : BitVec 8) (s : State) (x : Ctx), Issues (.pboundv q a b) s x → q.toNat + 4 ≤ x.t.allot →
    b.toNat + 2 ≤ x.t.allot → x.t.allot ≤ 256 → derivable x s (x.t.rdC a.toNat) →
    (∀ l, x.liveLane l → boundable x.sh.lanes (x.t.rdC a.toNat) (x.t.rdV l b.toNat).toNat (x.t.rdV l (b.toNat + 1)).toNat) →
    ∃ t', exec (.pboundv q a b) s = .next (s.afterWord x (.pboundv q a b) t' .next) ∧
      { t' with v := x.t.v, vtag := x.t.vtag, vpoison := x.t.vpoison } = x.t ∧
      (∀ l, x.liveLane l → boundTo (x.t.rdC a.toNat) (t'.rdQuad l (q.toNat / 4)) (x.t.rdV l b.toNat).toNat (x.t.rdV l (b.toNat + 1)).toNat ∧
        t'.quadPoison l (q.toNat / 4) = false) ∧
      ∀ l r, r < 256 → (¬ x.liveLane l ∨ r / 4 ≠ q.toNat / 4) → t'.rdV l r = x.t.rdV l r ∧
        Sparse.get false t'.vtag (l * 64 + r / 4) = Sparse.get false x.t.vtag (l * 64 + r / 4) ∧ t'.quadPoison l (r / 4) = x.t.quadPoison l (r / 4)) ∧
  (∀ (d a : BitVec 5) (b : BitVec 6) (s : State) (x : Ctx), Issues (.pperm d a b) s x → derivable x s (x.t.rdC a.toNat) →
    let c := x.t.rdC a.toNat
    let v := x.t.rdS b.toNat
    ((v.getLsbD 13 = false ∨ c.band = 0) → ∃ p : BitVec 12, derives (.pperm d a b) s x d { c with perm := p } ∧
      (∀ j, 0 < j → j < 12 → p.getLsbD j = (c.perm.getLsbD j && v.getLsbD j)) ∧
      p.getLsbD 0 = (!v.getLsbD 13 && (c.perm.getLsbD 0 || v.getLsbD 12))) ∧
    (v.getLsbD 13 = true → c.band ≠ 0 → faults (.pperm d a b) s x ⟨.perm, 0, 0, 1, a.toNat, false, 0, 0, 0⟩)) ∧
  (∀ (d a : BitVec 5) (b : BitVec 6) (s : State) (x : Ctx), Issues (.pform d a b) s x → derivable x s (x.t.rdC a.toNat) →
    let c := x.t.rdC a.toNat
    let v := x.t.rdS b.toNat
    let band : BitVec 8 := if v.getLsbD 10 then v.extractLsb' 11 8 else c.band
    let kind : BitVec 4 := if v.getLsbD 10 then v.extractLsb' 19 4 else c.kind
    let fmtOk : Prop := c.band = 0 ∨ c.fmt = 0 ∨ (v.extractLsb' 0 6 = c.fmt ∧ v.extractLsb' 6 2 = c.geo)
    let ordOk : Prop := c.band = 0 ∨ ordMay c.ord (v.extractLsb' 8 2)
    let bandOk : Prop := c.band = 0 ∨ band = c.band
    let kindOk : Prop := v.getLsbD 10 = true → kind.toNat < 6 ∧
      (kind = c.kind ∨ (c.band = 0 ∧ c.kind = kData ∧ (kind = kCode ∨ kind = kCommand ∨ kind = kLayout ∨ kind = kGroup)))
    let bad (e : FaultCode) : Prop := faults (.pform d a b) s x ⟨e, 0, 0, 1, a.toNat, false, 0, 0, 0⟩
    (fmtOk → ordOk → bandOk → kindOk → derives (.pform d a b) s x d
      { c with fmt := v.extractLsb' 0 6, geo := v.extractLsb' 6 2, ord := v.extractLsb' 8 2, band := band, kind := kind }) ∧
    (¬ fmtOk → bad .format) ∧ (fmtOk → ¬ ordOk → bad .perm) ∧ (fmtOk → ordOk → ¬ bandOk → bad .band) ∧
    (fmtOk → ordOk → bandOk → ¬ kindOk → bad .kind)) ∧
  (∀ (t : Team) (c : Cap) (r k : Nat), t.rdC 0 = Cap.null ∧ t.wrC 0 c = t ∧
    (t.wrC r c).rdC k = if k = r ∧ r ≠ 0 then c else t.rdC k)

/-- PLOCK seals for a device and adds it to the export set, and raises SEALED for another device before DEVID is written (R402); PUNLOCK gives the inner KIND back; PINFO, PWITHIN and PSAME report and
never fault; PMOV copies bits, tag and poison (R62, R68, R69, R78, R290 to R293). DELEG stores its source with the permissions of the mask, in the band of the mailbox and sealed for its device, as a
capability store through the mailbox, tagged unless a quarantined region affects it (R63, R71, R294). The model's choices in it: DELEG's source skips step 6 of R65 (log entry 38), the mailbox's device
is in the export set once the store is made (log entry 40), and SEALED before DEVID has STEP 0 and comes last (log entry 53). -/
def Obligations.SealingAndInspection : Prop :=
  (∀ (d a : BitVec 5) (b : BitVec 6) (s : State) (x : Ctx), Issues (.plock d a b) s x → derivable x s (x.t.rdC a.toNat) →
    let c := x.t.rdC a.toNat
    let target := (x.t.rdS b.toNat).toNat % 2 ^ 14
    sealable c.kind → c.perm &&& pSEAL = pSEAL → (target = s.devId.toNat ∨ c.perm &&& pEXPORT = pEXPORT) →
    ((target = s.devId.toNat ∨ s.devSet = true) →
      ∃ (s1 : State) (r : Cap), exec (.plock d a b) s = .next (s1.afterWord x (.plock d a b) (x.t.wrC d.toNat r) .next) ∧
        { s1 with expset := s.expset } = s ∧ (target ≠ s.devId.toNat → Sparse.get false s1.expset target = true) ∧
        { r with kind := c.kind, aux := c.aux } = c ∧ r.kind = kSealed ∧ r.aux = c.kind ++ BitVec.ofNat 14 target ++ (0 : BitVec 7)) ∧
    (target ≠ s.devId.toNat → s.devSet = false → faults (.plock d a b) s x ⟨.sealed, 0, 0, 1, a.toNat, false, 0, 0, 0⟩)) ∧
  (∀ (d a : BitVec 5) (h : BitVec 4) (s : State) (x : Ctx), Issues (.punlock d a h) s x →
    let c := x.t.rdC a.toNat
    c.tag = true → c.kind = kSealed → c.target = s.devId.toNat → c.dev = s.devId.toNat → c.perm &&& pUNSEAL = pUNSEAL →
    (x.sh.band = 0 ∨ c.band = x.sh.band) → derives (.punlock d a h) s x d { c with kind := c.aux.extractLsb' 21 4, aux := 0 }) ∧
  (∀ (d : BitVec 6) (a : BitVec 5) (f : BitVec 4) (s : State) (x : Ctx) (v : W64), Issues (.pinfo d a f) s x →
    infoOf (x.t.rdC a.toNat) f.toNat = some v → exec (.pinfo d a f) s = .next (s.afterWord x (.pinfo d a f) (x.t.wrS d.toNat v) .next)) ∧
  (∀ (d : BitVec 6) (a b : BitVec 5) (s : State) (x : Ctx), Issues (.pwithin d a b) s x → ∃ v : W64,
    exec (.pwithin d a b) s = .next (s.afterWord x (.pwithin d a b) (x.t.wrS d.toNat v) .next) ∧
      (∀ j, j < 6 → (v.getLsbD j = true ↔ withinBit (x.t.rdC a.toNat) (x.t.rdC b.toNat) j)) ∧ v.getLsbD 6 = false ∧
      (v.getLsbD 7 = true ↔ ∀ j, j < 6 → v.getLsbD j = true) ∧ v.toNat < 2 ^ 8) ∧
  (∀ (d : BitVec 6) (a b : BitVec 5) (s : State) (x : Ctx), Issues (.psame d a b) s x → ∃ v : W64,
    exec (.psame d a b) s = .next (s.afterWord x (.psame d a b) (x.t.wrS d.toNat v) .next) ∧
      (v.getLsbD 0 = true ↔ { x.t.rdC a.toNat with tag := false } = { x.t.rdC b.toNat with tag := false }) ∧
      (v.getLsbD 1 = true ↔ (x.t.rdC a.toNat).tag = (x.t.rdC b.toNat).tag) ∧ (v.getLsbD 2 = (v.getLsbD 0 && v.getLsbD 1)) ∧ v.toNat < 8) ∧
  (∀ (d a : BitVec 5) (h : BitVec 4) (s : State) (x : Ctx), Issues (.pmov (.c d) (.c a) h) s x →
    exec (.pmov (.c d) (.c a) h) s = .next (s.afterWord x (.pmov (.c d) (.c a) h)
      ((x.t.wrC d.toNat (x.t.rdC a.toNat)).soilCap d.toNat (x.t.capPoison a.toNat)) .next)) ∧
  (∀ (q : BitVec 6) (a : CapRef) (h : BitVec 4) (s : State) (x : Ctx), Issues (.pmov (.quad q) a h) s x → 4 * q.toNat + 3 < x.t.allot → capOk x a →
    ∃ t', exec (.pmov (.quad q) a h) s = .next (s.afterWord x (.pmov (.quad q) a h) t' .next) ∧
      { t' with v := x.t.v, vtag := x.t.vtag, vpoison := x.t.vpoison } = x.t ∧
      (∀ l, x.liveLane l → t'.rdQuad l q.toNat = (x.operand a l).1 ∧ t'.quadPoison l q.toNat = x.operandPoison a l) ∧
      ∀ l r, r < 256 → (¬ x.liveLane l ∨ r / 4 ≠ q.toNat) → t'.rdV l r = x.t.rdV l r ∧
        Sparse.get false t'.vtag (l * 64 + r / 4) = Sparse.get false x.t.vtag (l * 64 + r / 4) ∧ t'.quadPoison l (r / 4) = x.t.quadPoison l (r / 4)) ∧
  (∀ (m a : BitVec 5) (b : BitVec 6) (s : State) (x : Ctx) (acc : Access), Issues (.deleg m a b) s x → s.late = false →
    let src := x.t.rdC a.toNat
    let mbox := x.t.rdC m.toNat
    let mask : BitVec 12 := (x.t.rdS b.toNat).setWidth 12 ||| pCW
    src.tag = true → sealable src.kind → src.dev = s.devId.toNat → (x.sh.band = 0 ∨ src.band = x.sh.band ∨ src.band = 255) →
    src.perm &&& pDERIVE = pDERIVE → src.perm &&& pSEAL = pSEAL → (mbox.dev = s.devId.toNat ∨ (src.perm &&& pEXPORT = pEXPORT ∧ s.devSet = true)) →
    x.access s ⟨[kData, kLocal, kPrivate], true, pST ||| pSTC, false, true⟩ (.c m) 0 (x.t.rdS (b.toNat + 1)).toNat 16 16 (.writeCap Cap.null) = .ok acc →
    (mbox.band = src.band ∨ s.delegAllowed x.sh src.band mbox.band = true) → readyNow s acc → inMemory s acc →
    ¬ heldBack x.sh.rev2 x.t.outStores (.deleg m a b) [acc] →
    ∃ c : Cap, exec (.deleg m a b) s = .next ((afterAccesses s x (.deleg m a b) ⟨True, [0], fun _ => .ok acc, fun _ _ t => t, true⟩
        [{ acc with op := .writeCap c }]).delegated (.deleg m a b) [{ acc with op := .writeCap c }]) ∧
      c.perm = src.perm &&& mask ∧ c.band = mbox.band ∧ c.kind = kSealed ∧ c.aux = src.kind ++ BitVec.ofNat 14 mbox.dev ++ (0 : BitVec 7) ∧
      c.tag = !s.struck { c with tag := true } ∧ { c with perm := src.perm, band := src.band, kind := src.kind, aux := src.aux, tag := src.tag } = src)

/-- REVOKE posts its region and returns the number of the pass that will sweep it, or waits where the filter is full; SWEEPQ
returns the last completed pass (R73, R75, R76, R295). FENCE waits for DEAD, and with P or H in its scope for stores at a peer and in the host window;
its scope is checked when it issues, and not again while it waits; WAITC waits for counts, and QFENCE orders queues (R165, R166, R168, R170, R304 to
R306). The model's choices in it: REVOKE skips step 6 of R65 (log entry 38), the band's limit is the QUAR of the accepted launch (log entry 42), SWEEPQ
checks the scope (log entry 36), a FENCE waits for acknowledgements alone (log entry 4), a word's stores are one entry (log entry 63). -/
def Obligations.RevocationFencesAndCounts : Prop :=
  (∀ (d : BitVec 6) (a : BitVec 5) (h : BitVec 4) (s : State) (x : Ctx),
    (Issues (.revoke d a h) s x ∨ ∃ p, Reissues (.revoke d a h) s x p) →
    let c := x.t.rdC a.toNat
    c.tag = true → c.kind = kData → c.dev = s.devId.toNat → (x.sh.band = 0 ∨ c.band = x.sh.band) → c.perm &&& pDERIVE = pDERIVE →
    let pass := s.lehrDone + if s.lehr = .idle then 1 else 2
    let room : Prop := s.quar.length < 32 ∧
      (x.sh.band = 0 ∨ (s.quar.filter fun q => decide (q.band = x.sh.band)).length < ((s.launchOf x.sh).map Launch.quar).getD 0)
    (room → exec (.revoke d a h) s = .next
      (({ s with quar := s.quar ++ [⟨c.addr, c.addr + c.len, x.sh.band, pass⟩], lehr := if s.lehr = .idle then .waiting else s.lehr } : State).afterWord x
        (.revoke d a h) (({ x.t with wait := .none } : Team).wrS d.toNat (BitVec.ofNat 64 pass)) .next)) ∧
    (¬ room → exec (.revoke d a h) s =
      .next (s.afterWord x (.revoke d a h) { x.t with wait := .blocked (.revoke d a h) false } .stay))) ∧
  (∀ (d : BitVec 6) (h : BitVec 4) (s : State) (x : Ctx), Issues (.sweepq d h) s x → scopeOk x s x.t.scope →
    exec (.sweepq d h) s = .next (s.afterWord x (.sweepq d h) (x.t.wrS d.toNat (BitVec.ofNat 64 s.lehrDone)) .next)) ∧
  (∀ (m : BitVec 1) (sc : BitVec 6) (s : State) (x : Ctx),
    let scope := if m = 1 then x.t.scope else sc
    ((Issues (.fence m sc) s x ∧ scopeOk x s scope) ∨ ∃ p, Reissues (.fence m sc) s x p) →
    let held : Prop := (∃ a n so, OutStore.dead a n so ∈ x.t.outStores) ∨ ((scope.getLsbD 1 = true ∨ scope.getLsbD 0 = true) ∧
      ∃ peer host so, OutStore.store peer host so ∈ x.t.outStores ∧ (peer = true ∨ host = true))
    (¬ held → exec (.fence m sc) s = .next (s.afterWord x (.fence m sc) { x.t with wait := .none } .next)) ∧
    (held → exec (.fence m sc) s = .next (s.afterWord x (.fence m sc) { x.t with wait := .blocked (.fence m sc) false } .stay)) ∧
    (Issues (.fence m sc) s x → ¬ scopeOk x s scope → faults (.fence m sc) s x (.plain .scope))) ∧
  (∀ (l st cp tl : BitVec 6) (s : State) (x : Ctx), (Issues (.waitc l st cp tl) s x ∨ ∃ p, Reissues (.waitc l st cp tl) s x p) →
    let n := waitCounts s x
    let done : Prop := (st = 63 ∨ n.1 ≤ st.toNat) ∧ (cp = 63 ∨ n.2.1 ≤ cp.toNat) ∧ (tl = 63 ∨ n.2.2 ≤ tl.toNat)
    (done → exec (.waitc l st cp tl) s = .next (s.afterWord x (.waitc l st cp tl) { x.t with wait := .none } .next)) ∧
    (¬ done → exec (.waitc l st cp tl) s = .next (s.afterWord x (.waitc l st cp tl) { x.t with wait := .blocked (.waitc l st cp tl) false } .stay))) ∧
  (∀ (q : BitVec 6) (s : State) (x : Ctx), Issues (.qfence q) s x → ∃ s1 : State,
    exec (.qfence q) s = .next (s1.settle x.n x.sh.lanes (.qfence q) .next) ∧ { s1 with cmds := s.cmds, nextId := s.nextId } = s ∧
      s1.cmds.filter isWork = s.cmds.filter isWork ∧
      ((∃ j k : Nat, j < k ∧ k < 6 ∧ q.getLsbD j = true ∧ q.getLsbD k = true) →
        (∃ c ∈ s.cmds, isWork c = true ∧ c.team = some x.n ∧ q.getLsbD c.queue = true) →
        ∃ c ∈ s1.cmds, c.team = some x.n ∧ c.body = .fence q))

/-! ### Barriers, queues, monitors and waits (R98, R99, R164, R165, R270, R307, R308, R326 to R332) -/

namespace Sys2Proof.Claims

open Sys2Proof.Machine

/-- A phase completes (R328). -/
def phaseDone (b : Bar) : Prop := b.expect ≤ b.arrived ∧ b.pending = 0 ∧ (b.opened = true ∨ b.expect = 0)

/-- The barrier after check (R328). -/
def checked (b r : Bar) : Prop :=
  (phaseDone b → r = { b with phase := !b.phase, arrived := 0, opened := false, arrset := 0 }) ∧ (¬ phaseDone b → r = b)

/-- The barrier's field values fit their widths (R326). -/
def barFits (b : Bar) : Prop :=
  b.crew < 8 ∧ -2 ^ 27 ≤ b.pending ∧ b.pending < 2 ^ 27 ∧ b.arrived < 2 ^ 16 ∧
    (b.crewmode = true → b.expect < 2 ^ 8) ∧ (b.crewmode = false → b.expect < 2 ^ 16 ∧ b.arrset = 0)

/-- A barrier operand passes R65: `n` aligned bytes of the scratchpad, at offset `o` of it. -/
def syncOk (x : Ctx) (s : State) (c : BitVec 5) (off n o : Nat) : Prop :=
  (∃ a, x.access s ⟨[kLocal], false, pLD ||| pST, false, true⟩ (.c c) 0 off n n .read = .ok a) ∧ o = localOf (x.t.rdC c.toNat).addr + off

/-- A barrier operand whose zero fields are zero. -/
def barOk (x : Ctx) (s : State) (c : BitVec 5) (off o : Nat) : Prop := syncOk x s c off 16 o ∧ barClean (bytesNat (x.sh.spad.read o 16)) = true

/-- Whether the team may arrive (R327). -/
def mayArrive (x : Ctx) (b : Bar) : Prop :=
  b.crewmode = true → x.t.crews.getLsbD b.crew = true ∧ (b.opened = true → b.arrset.getLsbD (teamIx x.n) = false)

/-- The barrier after an arrival of the issuing team. -/
def arrived (s : State) (x : Ctx) (b : Bar) : Bar := b.arrive (s.crewSize (shopOf x.n) b.crew) (teamIx x.n)

/-- Where a wait for the phase `p` stands at a barrier: it has ended with a phase, or with ERR, or goes on (R329). -/
def waitEnd (b : Bar) (p : Bool) : Option W64 := if b.phase ≠ p then some 0 else if b.err then some 1 else none

/-- A queue operand (R331): descriptor offset `o`, ring offset `ring` in the scratchpad, and the descriptor. -/
def queueOk (x : Ctx) (s : State) (c : BitVec 5) (off o ring : Nat) (q : QDesc) : Prop :=
  syncOk x s c off 64 o ∧ q = QDesc.read x.sh.spad o ∧ qClean x.sh.spad o = true ∧ q.ring + 8 * q.cap ≤ (x.t.rdC c.toNat).len ∧
    1 ≤ q.cap ∧ q.cap ≤ 4096 ∧ q.ring % 8 = 0 ∧ ring = localOf (x.t.rdC c.toNat).addr + q.ring

/-- A push by team `ix` blocks (R332): the ring is full, or its allowance is 0. -/
def pushBlocked (q : QDesc) (ix : Nat) : Prop := q.tail - q.head = BitVec.ofNat 64 q.cap ∨ (q.granted = true ∧ (q.allow.getD ix 0).toNat = 0)

/-- No team that could go on blocked before this one on the descriptor, of its kind (R332). -/
def firstInLine (x : Ctx) (q : QDesc) (o : Nat) (push : Bool) : Prop :=
  ∀ m ∈ ((x.sh.qwait.filter fun w => w.1 = o && w.2.1 = push).map fun w => w.2.2).takeWhile fun m => m ≠ x.n,
    push = true ∧ pushBlocked q (teamIx m)

/-- The team waits at a word that it issues again. -/
def waitsAt (i : Instr) (s' : State) (x : Ctx) : Prop :=
  s'.cur = none ∧ s'.team? x.n = some { x.t with wait := .blocked i false }

/-- The shop without the team's place among blocked teams, and with its scratchpad written. -/
def afterQueue (x : Ctx) (spad : Mem) : Shop := { x.sh with spad := spad, qwait := x.sh.qwait.filter fun w => w.2.2 ≠ x.n }

/-- The shop with its scratchpad written. -/
def padded (x : Ctx) (spad : Mem) : Shop := { x.sh with spad := spad }

/-- A queue with an allowance given. -/
def QDesc.granting (q : QDesc) (t : Nat) (v : Byte) : QDesc := { q with granted := true, allow := q.allow.set t v }

/-- A queue after a push by team `ix`. -/
def QDesc.pushed (q : QDesc) (ix : Nat) : QDesc :=
  let mine := (q.allow.getD ix 0).toNat
  { q with tail := q.tail + 1, allow := if q.granted = true ∧ mine ≠ 255 then q.allow.set ix (BitVec.ofNat 8 (mine - 1)) else q.allow }

/-- A queue after a pop. -/
def QDesc.taken (q : QDesc) : QDesc := { q with head := q.head + 1 }

end Sys2Proof.Claims

/-- What each barrier operation does to the fields (R328): an initialised barrier, an arrival, a change of the pending bytes, which
freezes the barrier where it would leave its range, a member that leaves; and the 16 bytes hold the fields (R326). BARI, BARA and BARX update the barrier at their operand; BARW and BARY return 0 when the phase has completed, 1 when ERR is
set, and wait otherwise, as they do when they issue again (R326 to R329). The model's choices in it: BARI stores CREW under CREWMODE 0 too (log entry
54), EXPECT 0 and counts of 16 bits (log entry 55), waits kept beside the scratchpad (log entry 56), and that an arrival of a team that joined during the
phase counts as R328's pseudocode has it (log entry 184). -/
def Obligations.BarrierUpdatesAndWords : Prop :=
  (∀ (e c : Nat) (m : Bool), Bar.init e c m = ⟨false, false, m, c, 0, if m then 0 else e, 0, false, 0⟩) ∧
  (∀ (b : Bar) (n ix : Nat), b.err = true → b.arrive n ix = b ∧ (∀ k, b.adjust k = b) ∧ b.leave ix = b) ∧
  (∀ (b : Bar) (n ix : Nat), b.err = false → ix < 32 → ∃ r : Bar, checked r (b.arrive n ix) ∧ r.opened = true ∧ r.arrived = b.arrived + 1 ∧
    r.expect = (if b.opened = false ∧ b.crewmode = true then n else b.expect) ∧
    (b.crewmode = true → ∀ j, r.arrset.getLsbD j = (decide (j = ix) || (b.opened && b.arrset.getLsbD j))) ∧
    { r with opened := b.opened, arrived := b.arrived, expect := b.expect, arrset := b.arrset } = b) ∧
  (∀ (b : Bar) (k : Int), b.err = false →
    (-2 ^ 27 ≤ b.pending + k → b.pending + k < 2 ^ 27 → checked { b with pending := b.pending + k } (b.adjust k)) ∧
    ((b.pending + k < -2 ^ 27 ∨ 2 ^ 27 ≤ b.pending + k) → b.adjust k = { b with err := true })) ∧
  (∀ (b : Bar) (ix : Nat), b.err = false →
    (b.crewmode = true → b.opened = true → b.arrset.getLsbD ix = false → checked { b with expect := b.expect - 1 } (b.leave ix)) ∧
    ((b.crewmode = false ∨ b.opened = false ∨ b.arrset.getLsbD ix = true) → b.leave ix = b)) ∧
  (∀ b : Bar, barFits b → Bar.ofNat b.toNat = b ∧ b.toNat < 2 ^ 128 ∧ barClean b.toNat = true) ∧
  (∀ (c : BitVec 5) (b : BitVec 6) (s : State) (x : Ctx) (o : Nat), Issues (.bari c b) s x → syncOk x s c (x.t.rdS b.toNat).toNat 16 o →
    let v := x.t.rdS (b.toNat + 1)
    (v.toNat < 2 ^ 20 → exec (.bari c b) s = .next ((s.setShop (shopOf x.n) (x.sh.setBar o
      (Bar.init (v.extractLsb' 0 16).toNat (v.extractLsb' 16 3).toNat (v.getLsbD 19)))).settle x.n x.sh.lanes (.bari c b) .next)) ∧
    (2 ^ 20 ≤ v.toNat → faults (.bari c b) s x (.plain .engine))) ∧
  (∀ (d : BitVec 6) (c : BitVec 5) (b : BitVec 6) (s : State) (x : Ctx) (o : Nat), Issues (.bara d c b) s x → scopeOk x s x.t.scope →
    barOk x s c (x.t.rdS b.toNat).toNat o →
    (mayArrive x (x.sh.bar o) → exec (.bara d c b) s = .next ((s.setShop (shopOf x.n) (x.sh.setBar o (arrived s x (x.sh.bar o)))).afterWord x
      (.bara d c b) (x.t.wrS d.toNat (if (x.sh.bar o).phase then 1 else 0)) .next)) ∧
    (¬ mayArrive x (x.sh.bar o) → faults (.bara d c b) s x (.plain .engine))) ∧
  (∀ (c : BitVec 5) (b : BitVec 6) (s : State) (x : Ctx) (o : Nat), Issues (.barx c b) s x → barOk x s c (x.t.rdS b.toNat).toNat o →
    let n := (x.t.rdS (b.toNat + 1)).toNat
    (1 ≤ n → n < 2 ^ 27 → exec (.barx c b) s = .next ((s.setShop (shopOf x.n) (x.sh.setBar o ((x.sh.bar o).adjust n))).settle
      x.n x.sh.lanes (.barx c b) .next)) ∧
    ((n = 0 ∨ 2 ^ 27 ≤ n) → faults (.barx c b) s x (.plain .engine))) ∧
  (∀ (i : Instr) (d : BitVec 6) (c : BitVec 5) (b : BitVec 6) (s : State) (x : Ctx) (o : Nat), (i = .barw d c b ∨ i = .bary d c b) → Issues i s x →
    (∀ w ∈ x.sh.barWait, w.team ≠ x.n) → scopeOk x s x.t.scope → barOk x s c (x.t.rdS b.toNat).toNat o →
    (i = .bary d c b → mayArrive x (x.sh.bar o) ∧ barFits (arrived s x (x.sh.bar o))) →
    let bar := if i = .bary d c b then arrived s x (x.sh.bar o) else x.sh.bar o
    let p := if i = .bary d c b then (x.sh.bar o).phase else (x.t.rdS (b.toNat + 1)).getLsbD 0
    ∃ (s' : State) (sh' : Shop), exec i s = .next s' ∧ s'.shop? (shopOf x.n) = some sh' ∧
      (i = .barw d c b → sh'.spad = x.sh.spad) ∧ (i = .bary d c b → sh'.bar o = bar) ∧ s'.mem = s.mem ∧
      (∀ m, m ≠ x.n → s'.team? m = s.team? m) ∧
      (∀ v, waitEnd bar p = some v → sh'.barWait.all (fun w => w.team ≠ x.n) = true ∧
        s' = (s.setShop (shopOf x.n) sh').afterWord x i (x.t.wrS d.toNat v) .next) ∧
      (waitEnd bar p = none → s'.team? x.n = some { x.t with wait := .blocked i p } ∧ ⟨x.n, o, p, none⟩ ∈ sh'.barWait)) ∧
  (∀ (i : Instr) (d : BitVec 6) (c : BitVec 5) (b : BitVec 6) (s : State) (x : Ctx) (p : Bool) (w : BarWait),
    (i = .barw d c b ∨ i = .bary d c b) → Reissues i s x p → (x.sh.barWait.find? fun w => w.team = x.n) = some w →
    (w.ended = none → waitEnd (x.sh.bar w.off) w.phase = none → exec i s = .next (s.afterWord x i x.t .stay)) ∧
    (∀ v, (w.ended = some false ∧ v = 0) ∨ (w.ended = some true ∧ v = 1) ∨ (w.ended = none ∧ waitEnd (x.sh.bar w.off) w.phase = some v) →
      ∃ sh', exec i s = .next ((s.setShop (shopOf x.n) sh').afterWord x i (({ x.t with wait := .none } : Team).wrS d.toNat v) .next) ∧
        sh' = { x.sh with barWait := x.sh.barWait.filter fun w => w.team ≠ x.n }))

/-- The queue words (R330 to R332): QDEF and QGRANT write the descriptor, QPUSH and QPOP move a handle through the ring or block,
also behind teams blocked before that could go on, and QTRY never blocks; the scope is checked when a word issues, and not again while its team is blocked (R165), and
a team that is blocked stays so where the descriptor no longer passes. The model's choices in it: RING is an offset in the capability (log entry 14), the
order of the checks (log entry 57), a team that arrives waits behind blocked ones that can go on (log entry 58), QTRY always checks the scope (log entry
59). -/
def Obligations.QueueWords : Prop :=
  (∀ (c : BitVec 5) (b : BitVec 6) (s : State) (x : Ctx) (o : Nat), Issues (.qdef c b) s x → syncOk x s c (x.t.rdS b.toNat).toNat 64 o →
    let v := x.t.rdS (b.toNat + 1)
    let ring := (v.extractLsb' 0 32).toNat
    let cap := (v.extractLsb' 32 16).toNat
    ring + 8 * cap ≤ (x.t.rdC c.toNat).len → 1 ≤ cap → cap ≤ 4096 → ring % 8 = 0 → v.toNat < 2 ^ 48 →
    exec (.qdef c b) s = .next ((s.setShop (shopOf x.n) (padded x (x.sh.spad.write o
      (QDesc.bytes ⟨0, 0, false, cap, ring, List.replicate 32 0⟩)))).settle x.n x.sh.lanes (.qdef c b) .next)) ∧
  (∀ (t c : BitVec 5) (b : BitVec 6) (s : State) (x : Ctx) (o ring : Nat) (q : QDesc), Issues (.qgrant t c b) s x →
    queueOk x s c (x.t.rdS b.toNat).toNat o ring q → (x.t.rdS (b.toNat + 1)).toNat < 2 ^ 8 →
    exec (.qgrant t c b) s = .next ((s.setShop (shopOf x.n) (padded x (x.sh.spad.write o
      (QDesc.granting q t.toNat ((x.t.rdS (b.toNat + 1)).setWidth 8)).bytes))).settle x.n x.sh.lanes (.qgrant t c b) .next)) ∧
  (∀ (d : BitVec 6) (c : BitVec 5) (b : BitVec 6) (s : State) (x : Ctx) (o ring : Nat) (q : QDesc),
    ((Issues (.qpush d c b) s x ∧ scopeOk x s x.t.scope) ∨ ∃ p, Reissues (.qpush d c b) s x p) → queueOk x s c (x.t.rdS b.toNat).toNat o ring q →
    let blocks : Prop := pushBlocked q (teamIx x.n)
    (¬ blocks → firstInLine x q o true → exec (.qpush d c b) s = .next ((s.setShop (shopOf x.n) (afterQueue x
      ((x.sh.spad.write (ring + 8 * (q.tail.toNat % q.cap)) (natBytes 8 (x.t.rdS d.toNat).toNat)).write o (QDesc.pushed q (teamIx x.n)).bytes))).afterWord x
      (.qpush d c b) { x.t with wait := .none } .next)) ∧
    ((blocks ∨ ¬ firstInLine x q o true) → ∃ s', exec (.qpush d c b) s = .next s' ∧ waitsAt (.qpush d c b) s' x ∧ s'.mem = s.mem ∧
      ∃ sh', s'.shop? (shopOf x.n) = some sh' ∧ { sh' with qwait := x.sh.qwait } = x.sh ∧
        ((∀ w ∈ x.sh.qwait, w.2.2 ≠ x.n) → sh'.qwait = x.sh.qwait ++ [(o, true, x.n)]))) ∧
  (∀ (d : BitVec 6) (c : BitVec 5) (b : BitVec 6) (s : State) (x : Ctx) (o ring : Nat) (q : QDesc),
    ((Issues (.qpop d c b) s x ∧ scopeOk x s x.t.scope) ∨ ∃ p, Reissues (.qpop d c b) s x p) → queueOk x s c (x.t.rdS b.toNat).toNat o ring q →
    let handle := BitVec.ofNat 64 (bytesNat (x.sh.spad.read (ring + 8 * (q.head.toNat % q.cap)) 8))
    (q.head ≠ q.tail → firstInLine x q o false → exec (.qpop d c b) s = .next ((s.setShop (shopOf x.n) (afterQueue x
      (x.sh.spad.write o (QDesc.taken q).bytes))).afterWord x (.qpop d c b) (({ x.t with wait := .none } : Team).wrS d.toNat handle) .next)) ∧
    ((q.head = q.tail ∨ ¬ firstInLine x q o false) → ∃ s', exec (.qpop d c b) s = .next s' ∧ waitsAt (.qpop d c b) s' x ∧ s'.mem = s.mem ∧
      ∃ sh', s'.shop? (shopOf x.n) = some sh' ∧ { sh' with qwait := x.sh.qwait } = x.sh ∧
        ((∀ w ∈ x.sh.qwait, w.2.2 ≠ x.n) → sh'.qwait = x.sh.qwait ++ [(o, false, x.n)]))) ∧
  (∀ (i : Instr) (d : BitVec 6) (c : BitVec 5) (b : BitVec 6) (s : State) (x : Ctx) (p : Bool), (i = .qpush d c b ∨ i = .qpop d c b) →
    Reissues i s x p → (∀ o ring q, ¬ queueOk x s c (x.t.rdS b.toNat).toNat o ring q) →
    exec i s = .next (s.afterWord x i { x.t with wait := .blocked i false } .stay)) ∧
  (∀ (d : BitVec 6) (c : BitVec 5) (b : BitVec 6) (s : State) (x : Ctx) (o ring : Nat) (q : QDesc), Issues (.qtry d c b) s x →
    scopeOk x s x.t.scope → queueOk x s c (x.t.rdS b.toNat).toNat o ring q →
    let handle := BitVec.ofNat 64 (bytesNat (x.sh.spad.read (ring + 8 * (q.head.toNat % q.cap)) 8))
    (q.head = q.tail → exec (.qtry d c b) s = .next (s.afterWord x (.qtry d c b) (x.t.wrS (d.toNat + 1) 0) .next)) ∧
    (q.head ≠ q.tail → exec (.qtry d c b) s = .next ((s.setShop (shopOf x.n) (padded x (x.sh.spad.write o (QDesc.taken q).bytes))).afterWord x (.qtry d c b) ((x.t.wrS d.toNat handle).wrS (d.toNat + 1) 1) .next)))

/-- MONARM arms the monitor after the checks of a load; MONWAIT returns the value when it differs and waits while it is equal, and
returns 0 with no monitor; a write to the line or an unspecified wake-up makes it read again and return or wait on, and a peer's answer is read by
MONITOR_POLL (R307, R308). YIELDC goes on at its continuation when its event has occurred and parks otherwise; YIELDC_RESUME is its
event (R270, R312). An SO or SY read of a monitor or stamp waits for the stores that R161 names. The model's choices in it: MONWAIT without a monitor checks no scope (log entry 61), polls of a peer are events (log entry 62), a parked
team's later fault keeps the re-arm of DLLEFT (log entry 60), barrier events are kept for a waiting team (log entry 56). -/
def Obligations.MonitorsAndYieldc : Prop :=
  (∀ (c : BitVec 5) (o : BitVec 6) (s : State) (x : Ctx) (a : Access), Issues (.monarm c o) s x →
    x.access s ⟨[kData, kLocal], true, pLD, true, false⟩ (.c c) 0 (x.t.rdS o.toNat).toNat 8 8 .read = .ok a →
    exec (.monarm c o) s = .next (s.afterWord x (.monarm c o) { x.t with monitor := some (x.t.rdC c.toNat, x.t.rdS o.toNat) } .next)) ∧
  (∀ (d a : BitVec 6) (h : BitVec 4) (s : State) (x : Ctx), Issues (.monwait d a h) s x → x.t.monitor = none →
    exec (.monwait d a h) s = .next (s.afterWord x (.monwait d a h) (x.t.wrS d.toNat 0) .next)) ∧
  (∀ (d a : BitVec 6) (h : BitVec 4) (s : State) (x : Ctx) (m : Cap × W64) (acc : Access),
    ((Issues (.monwait d a h) s x ∧ scopeOk x s x.t.scope) ∨ ∃ p, Reissues (.monwait d a h) s x p) → x.t.monitor = some m →
    x.monitorAccess s m = .ok acc → readyNow s acc → inMemory s acc → acc.size = 8 →
    (heldBack x.sh.rev2 x.t.outStores (.monwait d a h) [acc] →
      exec (.monwait d a h) s = .next (s.afterWord x (.monwait d a h) { x.t with wait := .blocked (.monwait d a h) false } .stay)) ∧
    ∃ u : Sparse Bool, (¬ heldBack x.sh.rev2 x.t.outStores (.monwait d a h) [acc] → BitVec.ofNat 64 (bytesOf s acc) ≠ x.t.rdS a.toNat → exec (.monwait d a h) s = .next (({ s with updMode := u } : State).afterWord x
      (.monwait d a h) (({ x.t with wait := .none } : Team).wrS d.toNat (BitVec.ofNat 64 (bytesOf s acc))) .next)) ∧
    (¬ heldBack x.sh.rev2 x.t.outStores (.monwait d a h) [acc] → BitVec.ofNat 64 (bytesOf s acc) = x.t.rdS a.toNat → exec (.monwait d a h) s = .next (({ s with updMode := u } : State).afterWord x
      (.monwait d a h) { x.t with wait := .blocked (.monwait d a h) false } .stay))) ∧
  (∀ (i : Instr) (d a : BitVec 6) (h : BitVec 4) (s : State) (x : Ctx) (p : Bool), (i = .monitorWake x.n ∨ i = .unspecifiedWakeUp x.n) →
    s.team? x.n = some x.t → s.shop? (shopOf x.n) = some x.sh → x.sh.phase = .running → x.t.wait = .blocked (.monwait d a h) p →
    exec i s = exec (.monwait d a h) { s with cur := some x.n }) ∧
  (∀ (i : Instr) (d a : BitVec 6) (h : BitVec 4) (s : State) (x : Ctx) (p : Bool) (m : Cap × W64) (acc : Access),
    (i = .monitorWake x.n ∨ i = .unspecifiedWakeUp x.n) → Reissues (.monwait d a h) { s with cur := some x.n } x p → x.sh.phase = .running →
    x.t.monitor = some m → x.monitorAccess s m = .ok acc → readyNow s acc → inMemory s acc → acc.size = 8 →
    ¬ heldBack x.sh.rev2 x.t.outStores (.monwait d a h) [acc] →
    ∃ u : Sparse Bool, (BitVec.ofNat 64 (bytesOf s acc) ≠ x.t.rdS a.toNat → exec i s = .next (({ s with updMode := u } : State).afterWord x
      (.monwait d a h) (({ x.t with wait := .none } : Team).wrS d.toNat (BitVec.ofNat 64 (bytesOf s acc))) .next)) ∧
    (BitVec.ofNat 64 (bytesOf s acc) = x.t.rdS a.toNat → exec i s = .next (({ s with updMode := u } : State).afterWord x
      (.monwait d a h) { x.t with wait := .blocked (.monwait d a h) false } .stay))) ∧
  (∀ (i : Instr) (d a : BitVec 6) (h : BitVec 4) (s : State) (x : Ctx) (p : Bool) (m : Cap × W64) (acc : Access),
    (i = .monitorWake x.n ∨ i = .unspecifiedWakeUp x.n) → Reissues (.monwait d a h) { s with cur := some x.n } x p → x.sh.phase = .running →
    x.t.monitor = some m → x.monitorAccess s m = .ok acc → acc.isRemote = true →
    exec i s = .next (s.afterWord x (.monwait d a h) { x.t with wait := .blocked (.monwait d a h) false } .stay)) ∧
  (∀ (d a : BitVec 6) (h : BitVec 4) (s : State) (x : Ctx) (p : Bool) (m : Cap × W64) (acc : Access) (ans : Answer), s.team? x.n = some x.t →
    s.shop? (shopOf x.n) = some x.sh → x.sh.phase = .running → x.t.wait = .blocked (.monwait d a h) p → x.t.monitor = some m →
    x.monitorAccess s m = .ok acc → acc.isRemote = true → ans.timeout = false → ans.step = 0 →
    ans.poison.getD (acc.addr % 128 / 16) false = false → s.portsOpen = true →
    ¬ heldBack x.sh.rev2 x.t.outStores (.monwait d a h) [acc] →
    let v := BitVec.ofNat 64 (bytesNat ((ans.data.drop (acc.addr % 128)).take 8))
    (v = x.t.rdS a.toNat → exec (.monitorPoll x.n ans) s = .next s) ∧
    (v ≠ x.t.rdS a.toNat → exec (.monitorPoll x.n ans) s =
      .next (s.afterWord x (.monwait d a h) (({ x.t with wait := .none } : Team).wrS d.toNat v) .next))) ∧
  (∀ (c : BitVec 5) (a b : BitVec 6) (s : State) (x : Ctx) (acc : Access), Issues (.yieldc 0 c a b) s x → scopeOk x s x.t.scope →
    let off := x.t.rdS a.toNat
    let cont := x.t.rdS b.toNat
    let o := localOf (x.t.rdC c.toNat).addr + off.toNat
    let armed : Team := { x.t with dlleft := x.sh.rearm ((x.t.rdS (b.toNat + 1)).toNat % 2 ^ 12) true }
    cont.toNat % 4 = 0 → x.access s ⟨[kLocal], false, pLD, true, false⟩ (.c c) 0 off.toNat 16 16 .read = .ok acc → s.returnFault acc = none →
    ((x.sh.bar o).err = true → exec (.yieldc 0 c a b) s = .next (s.afterWord x (.yieldc 0 c a b) armed (.goto cont))) ∧
    ((x.sh.bar o).err = false → exec (.yieldc 0 c a b) s = .next (((s.setTeam x.n { armed with
        wait := .yieldc (.yieldc 0 c a b) false (x.t.rdC c.toNat) off 0 (x.sh.bar o).phase cont }).setShop (shopOf x.n)
        { x.sh with barWait := x.sh.barWait ++ [⟨x.n, o, (x.sh.bar o).phase, none⟩] }).settle x.n x.sh.lanes (.yieldc 0 c a b) .stay))) ∧
  (∀ (c : BitVec 5) (a b : BitVec 6) (s : State) (x : Ctx) (acc : Access), Issues (.yieldc 1 c a b) s x → scopeOk x s x.t.scope →
    let off := x.t.rdS a.toNat
    let want := x.t.rdS (a.toNat + 1)
    let cont := x.t.rdS b.toNat
    let armed : Team := { x.t with dlleft := x.sh.rearm ((x.t.rdS (b.toNat + 1)).toNat % 2 ^ 12) true }
    cont.toNat % 4 = 0 → x.access s ⟨[kData, kLocal], true, pLD, true, false⟩ (.c c) 0 off.toNat 8 8 .read = .ok acc → readyNow s acc → inMemory s acc →
    let parked : Team := { armed with wait := .yieldc (.yieldc 1 c a b) true (x.t.rdC c.toNat) off want false cont }
    let held : Prop := heldBack x.sh.rev2 x.t.outStores (.yieldc 1 c a b) [acc]
    let v := bytesOf s acc
    let met : Prop := v = want.toNat ∨ v / 2 ^ 8 % 2 ^ 56 = 2 ^ 56 - 1
    (held → exec (.yieldc 1 c a b) s = .next (s.afterWord x (.yieldc 1 c a b) parked .stay)) ∧
    ∃ u : Sparse Bool, (¬ held → met → exec (.yieldc 1 c a b) s = .next (({ s with updMode := u } : State).afterWord x (.yieldc 1 c a b) armed (.goto cont))) ∧
    (¬ held → ¬ met → exec (.yieldc 1 c a b) s =
      .next (({ s with updMode := u } : State).afterWord x (.yieldc 1 c a b) parked .stay))) ∧
  (∀ (i : Instr) (c : Cap) (off want cont : W64) (p : Bool) (s : State) (x : Ctx), s.team? x.n = some x.t → s.shop? (shopOf x.n) = some x.sh →
    x.sh.phase = .running →
    (x.t.wait = .yieldc i false c off want p cont → ∀ e, x.sh.barEnded x.n = some e → ∃ sh',
      exec (.yieldcResume x.n) s = .next (((s.setTeam x.n { x.t with wait := .none }).setShop (shopOf x.n) sh').settle x.n x.sh.lanes i (.goto cont)) ∧
        sh' = { x.sh with barWait := x.sh.barWait.filter fun w => w.team ≠ x.n }) ∧
    (x.t.wait = .yieldc i true c off want p cont → readyNow s (x.stampAccess c off.toNat) → inMemory s (x.stampAccess c off.toNat) →
      ¬ heldBack x.sh.rev2 x.t.outStores i [x.stampAccess c off.toNat] →
      (let v := bytesOf s (x.stampAccess c off.toNat)
       v = want.toNat ∨ v / 2 ^ 8 % 2 ^ 56 = 2 ^ 56 - 1) → ∃ u : Sparse Bool, exec (.yieldcResume x.n) s =
        .next (({ s with updMode := u } : State).afterWord x i { x.t with wait := .none } (.goto cont))))

/-! ### Engine words (R309 to R325, R349, R360 to R362, R367, R368, R374, R375, R382) -/

namespace Sys2Proof.Claims

open Sys2Proof.Machine

/-- Register `j` of a command group (R310). -/
def groupReg (x : Ctx) (g : BitVec 3) (j : Nat) : Nat := (x.t.rdS (8 * g.toNat + j)).toNat

/-- Bits [lo, lo + n) of a number. -/
def bitsOf (v lo n : Nat) : Nat := v / 2 ^ lo % 2 ^ n

/-- The control word: COMPK is not 11, CREG is zero without a completion, and bits outside the common fields and `used` are zero. -/
def controlOk (ctl : Nat) (used : Nat → Prop) : Prop :=
  bitsOf ctl 12 2 ≠ 3 ∧ (bitsOf ctl 12 2 = 0 → bitsOf ctl 14 5 = 0) ∧
    ∀ j, j < 64 → 2 ≤ j → ¬ (12 ≤ j ∧ j < 19) → ¬ used j → bitsOf ctl j 1 = 0

/-- The rows that planes of rows move (R315). -/
def rowsOfPlanes (soff doff len planes rows sps srs dps drs : Nat) : List Move :=
  (List.range planes).flatMap fun p => (List.range rows).map fun r => ⟨soff + p * sps + r * srs, doff + p * dps + r * drs, len⟩

/-- A raw copy: destination, source, group, used control bits, whether tags may travel, extra conditions, and moves (R315). -/
structure RawCopy where
  /-- Destination register. -/
  d : BitVec 5
  /-- Source register. -/
  a : BitVec 5
  /-- Group. -/
  g : BitVec 3
  /-- Used control bits. -/
  used : Nat → Prop
  /-- Tags travel. -/
  tags : Bool
  /-- The form takes lanes of the execution mask (R86, R309). -/
  masked : Bool
  /-- The fields of the control word are in their ranges. -/
  ok : Prop
  /-- What moves. -/
  moves : List Move

/-- The lanes of a mask word. -/
def wordLanes (x : Ctx) (w : Nat) : List Nat := (List.range x.sh.lanes).filter fun l => x.exec.getLsbD l && decide (l / 32 = w)

/-- The raw copies (R314, R315). -/
def rawForm (x : Ctx) : Instr → Option RawCopy
  | .cpy d a g => some ⟨d, a, g, fun _ => False, true, false, True, [⟨groupReg x g 1, groupReg x g 0, groupReg x g 2⟩]⟩
  | .cpyt d a g =>
    let r := groupReg x g
    some ⟨d, a, g, fun j => 32 ≤ j, true, false, bitsOf (r 3) 48 16 ≠ 0,
      rowsOfPlanes (r 1) (r 0) (r 2) (bitsOf (r 3) 48 16) (bitsOf (r 3) 32 16) (bitsOf (r 7) 0 32) (bitsOf (r 6) 0 32) (bitsOf (r 7) 32 32) (bitsOf (r 6) 32 32)⟩
  | .cpyg d a g =>
    let r := groupReg x g
    some ⟨d, a, g, fun j => 19 ≤ j ∧ j < 32, false, true, bitsOf (r 3) 24 8 < x.t.allot ∧ bitsOf (r 3) 19 5 < x.sh.lanes / 32,
      (wordLanes x (bitsOf (r 3) 19 5)).map fun l =>
        ⟨r 1 + (x.t.rdV l (bitsOf (r 3) 24 8)).toNat * bitsOf (r 6) 0 32, r 0 + l % 32 * bitsOf (r 6) 32 32, r 2⟩⟩
  | .cpys d a g =>
    let r := groupReg x g
    some ⟨d, a, g, fun j => 19 ≤ j ∧ j < 32, false, true, bitsOf (r 3) 24 8 < x.t.allot ∧ bitsOf (r 3) 19 5 < x.sh.lanes / 32,
      (wordLanes x (bitsOf (r 3) 19 5)).map fun l =>
        ⟨r 1 + l % 32 * bitsOf (r 6) 0 32, r 0 + (x.t.rdV l (bitsOf (r 3) 24 8)).toNat * bitsOf (r 6) 32 32, r 2⟩⟩
  | _ => none

/-- Bytes of moves. -/
def moved (ms : List Move) : Nat := (ms.map Move.len).sum

/-- The state with a command entered in a queue of the issuing team (R309). -/
def entered (s : State) (x : Ctx) (queue : Nat) (body : CmdBody) (done : Completion) : State :=
  { s with nextId := s.nextId + 1
           cmds := s.cmds ++ [⟨s.nextId + 1, some x.n, shopOf x.n, queue, x.sh.band, body, done, 0, false, s.postPass - 1, []⟩] }

/-- The word enters a command and goes on; a wait that it began ends. -/
def enters (i : Instr) (s : State) (x : Ctx) (queue : Nat) (body : CmdBody) (done : Completion) : Prop :=
  exec i s = .next ((entered (s.setTeam x.n x.awake) x queue body done).settle x.n x.sh.lanes i .next)

/-- The same, where the lines of the `n` bytes that the word has read at `off` through an SY capability are in update mode then
(R149). -/
def entersFrom (i : Instr) (s : State) (x : Ctx) (c : Cap) (off n : Nat) (queue : Nat) (body : CmdBody) (done : Completion) : Prop :=
  exec i s = .next ((entered ((s.setTeam x.n x.awake).markSy c off n) x queue body done).settle x.n x.sh.lanes i .next)

/-- The word issues, for the first time or again. -/
def issuesAny (i : Instr) (s : State) (x : Ctx) : Prop := Issues i s x ∨ ∃ p, Reissues i s x p

/-- Whether the bytes [o, o + n) of a block through `c` can be read without waiting, and hold no poison. -/
def blockReadable (s : State) (x : Ctx) (c : Cap) (n : Nat) : Prop :=
  s.rowReady (shopOf x.n) c 0 16 false = true ∧ s.rowReady (shopOf x.n) c 0 n false = true ∧
    ((s.readRow (shopOf x.n) c 0 16 []).1.poison.any id) = false ∧ ((s.readRow (shopOf x.n) c 0 n []).1.poison.any id) = false

/-- A GO's capability passes and its block, of kind `k`, is here and valid (R323, R324). -/
def goOk (s : State) (x : Ctx) (a : BitVec 5) (g : BitVec 3) (k : Nat) (r : Row) : Prop :=
  let c := x.t.rdC a.toNat
  let n := if k = 4 then 64 else 128
  bitsOf (groupReg x g 3) 12 2 ≠ 3 ∧ (bitsOf (groupReg x g 3) 12 2 = 0 → bitsOf (groupReg x g 3) 14 5 = 0) ∧
    s.capFails x.sh.band goUse c false = none ∧ c.kind = kCommand ∧ inMmio c.addr = false ∧ blockReadable s x c n ∧ n ≤ c.len ∧ r = (s.readRow (shopOf x.n) c 0 n []).1 ∧
    (let h := (s.readRow (shopOf x.n) c 0 16 []).1
     headerOk h = true ∧ h.num 0 1 = k ∧ r.num 0 1 = k)

end Sys2Proof.Claims

/-- The check of the rows of an engine's command through an unsealed capability: steps 1 to 7 and 9 of R65, and the size rule of
the MMIO window (R66, R136). It passes exactly when every condition holds. The raw copies check the control word, then the source and the destination over every row, then the completion, and enter
their queue; one that moves nothing completes at once when no earlier command of the queue is left (R310, R311, R314, R315). CPYG and CPYS
with an empty execution mask do nothing (R88, R309). CMDMK makes a command or layout capability (R322). The model's choices in it: the order
of the checks (log entry 72), a non-zero CREG with COMPK 00 raises ENGINE (log entry 73), what rows without bytes check and mark (log entry 74),
CMDMK's faults have STEP 0 (log entry 83), and R88 before R315's empty mask word (log entry 185). -/
def Obligations.EngineCheckIsExact : Prop :=
  (∀ (s : State) (band : BitVec 8) (u : Use) (c : Cap) (src creg : Nat) (rows : List (Nat × Nat)), c.kind ≠ kSealed →
    let inWindow (r : Nat × Nat) : Prop := isGlobal c.kind = true ∧ c.localAt r.1 < mmioBase + 0x10000000 ∧ mmioBase < c.localAt r.1 + r.2
    (s.engineCheck band u c src creg rows = .ok () ↔
      c.tag = true ∧ c.kind ∈ u.kinds ∧ (isGlobal c.kind = true → c.dev = s.devId.toNat) ∧
      (band = 0 ∨ c.band = band ∨ (c.band = 255 ∧ u.reads = true)) ∧ c.perm &&& u.perm = u.perm ∧
      ((∃ r ∈ rows, inWindow r) → band = 0) ∧ (∀ q ∈ s.quar, c.affected q.base q.top = false) ∧
      (∀ r ∈ rows, r.1 + r.2 ≤ c.len ∧ (inWindow r → (r.2 = 4 ∨ r.2 = 8) ∧ c.localAt r.1 % r.2 = 0)) ∧
      (u.writes = true → c.kind = kData → c.perm &&& pCW ≠ pCW))) ∧
  (∀ (i : Instr) (s : State) (x : Ctx) (F : RawCopy), Issues i s x → rawForm x i = some F →
    let src := x.t.rdC F.a.toNat
    let dst := x.t.rdC F.d.toNat
    let ctl := groupReg x F.g 3
    let read := s.engineCheck x.sh.band ⟨[kData, kLocal], true, pLD, true, false⟩ src 1 F.a.toNat (F.moves.map fun m => (m.src, m.len))
    let write := s.engineCheck x.sh.band ⟨[kData, kLocal], true, pST, false, true⟩ dst 1 F.d.toNat (F.moves.map fun m => (m.dst, m.len))
    (F.masked = true → x.exec = 0 → exec i s = .next (s.settle x.n x.sh.lanes i .next)) ∧
    ((F.masked = true → x.exec ≠ 0) →
    (¬ (controlOk ctl F.used ∧ F.ok) → faults i s x (.plain .engine)) ∧
    (controlOk ctl F.used → F.ok → ∀ e, (read = .error e ∨ (read = .ok () ∧ write = .error e)) → faults i s x e) ∧
    (controlOk ctl F.used → F.ok → read = .ok () → write = .ok () →
      (∀ e, x.completion s (x.group8 F.g) (moved F.moves) = .error e → faults i s x e) ∧
      (∀ done, x.completion s (x.group8 F.g) (moved F.moves) = .ok done →
        let s1 := entered s x (bitsOf ctl 0 2) (.copy src dst F.moves F.tags) done
        (moved F.moves ≠ 0 ∨ s1.turn? s1.nextId = none → exec i s = .next (s1.settle x.n x.sh.lanes i .next)) ∧
        (∀ c, moved F.moves = 0 → s1.turn? s1.nextId = some c → s1.reportReady c = true →
          exec i s = .next ((s1.endCmd c 0 none).settle x.n x.sh.lanes i .next)))))) ∧
  (∀ (i : Instr) (d a : BitVec 5) (h : BitVec 4) (layout : Bool) (s : State) (x : Ctx),
    i = (if layout then .cmdmkL d a h else .cmdmk d a h) → Issues i s x →
    let c := x.t.rdC a.toNat
    let needs := if layout then pLD ||| pLDC else pLD ||| pLDC ||| pGO
    let keeps := if layout then pLD ||| pLDC ||| pSEAL ||| pEXPORT ||| pDERIVE else pLD ||| pLDC ||| pGO ||| pSEAL ||| pEXPORT ||| pDERIVE
    derivable x s c → c.kind = kData → c.perm &&& needs = needs → c.addr % 64 = 0 → (if layout then 256 else 64) ≤ c.len →
    derives i s x d { c with kind := if layout then 4 else 3, perm := c.perm &&& keeps, fmt := 0, geo := 0 })

/-- CPYB reads its table, checks every block, and enters a gather into the scratchpad, a gather to a stream, or an append
(R317 to R320); CPYM enters a copy into the shops of the named cores (R321). The model's choices in it: the order of CPYB's checks and the
alignment of its table entries (log entry 75), and which checks CPYM's completion meets and what COFF is an offset in (log entry 76). -/
def Obligations.BlockTableAndMultiCopies : Prop :=
  (∀ (d a : BitVec 5) (g : BitVec 3) (s : State) (x : Ctx) (blocks : List Cap) (done : Completion), issuesAny (.cpyb d a g) s x →
    let r := groupReg x g
    let append := bitsOf (r 3) 8 1 = 1
    let dist := bitsOf (r 3) 9 1 = 1
    let out16 : Bool := decide (bitsOf (r 3) 10 1 = 1)
    let rows := bitsOf (r 3) 32 16
    let cx := x.t.rdC d.toNat
    let ct := x.t.rdC a.toNat
    let sh := shopOf x.n
    let rnd := (x.t.mode.toNat / 2 ^ 15) % 2 ^ 3
    let bytes := if append then r 2 else 2 * r 2 * rows
    controlOk (r 3) (fun j => (32 ≤ j ∧ j < 48) ∨ j = 8 ∨ (¬ append ∧ (j = 9 ∨ j = 10))) → (append → rows = 1) →
    (¬ append → 1 ≤ rows) →
    (¬ append → dist → d = 0 ∧ r 2 ≤ 512 ∧ r 0 < 64 ∧ bitsOf (r 6) 32 32 = 0 ∧ bitsOf (r 3) 12 2 ≠ 1) →
    s.rowReady sh ct (r 1) (16 * rows) false = true →
    (append → s.engineCheck x.sh.band ⟨[kLocal], false, pLD, true, false⟩ cx 1 d.toNat [(r 0, r 2)] = .ok ()) →
    s.engineCheck x.sh.band ⟨[kData, kLocal], false, pLD ||| pLDC, true, false⟩ ct 1 a.toNat [(r 1, 16 * rows)] = .ok () →
    blocks.length = rows →
    (∀ (i : Nat) (b : Cap), blocks[i]? = some b →
      let q := (s.readRow sh ct (r 1 + 16 * i) 16 []).1
      q.poison.any id = false ∧ (r 1 + 16 * i) % 16 = 0 ∧ b = s.moved (q.capAt 0) ∧ b.tag = true ∧
      (append → s.engineCheck x.sh.band ⟨[kData, kLocal], true, pST, false, true⟩ b 3 0 [(r 7, r 2)] = .ok ()) ∧
      (¬ append → s.engineCheck x.sh.band ⟨[kData, kLocal], true, pLD, true, false⟩ b 3 0 [] = .ok () ∧ ∃ f, fmtElem b.fmt = some f ∧
        (b.fmt = 0x0D ∨ b.fmt = 0x0F ∨ b.fmt = 0x10 ∨ b.fmt = 0x11) ∧
        s.engineCheck x.sh.band ⟨[kData, kLocal], true, pLD, true, false⟩ b 3 0 (elemRows b f.width (r 7) (r 2)) = .ok ())) →
    (¬ append → ¬ dist → s.engineCheck x.sh.band ⟨[kLocal], false, pST, false, true⟩ cx 1 d.toNat
      ((List.range rows).map fun i => (r 0 + i * bitsOf (r 6) 32 32, 2 * r 2)) = .ok ()) →
    x.completion s (x.group8 g) bytes = .ok done → bytes ≠ 0 →
    (append → ∀ b, blocks = [b] → entersFrom (.cpyb d a g) s x ct (r 1) (16 * rows) (bitsOf (r 3) 0 2) (.copy cx b [⟨r 0, r 7, r 2⟩] false) done) ∧
    (¬ append → dist → entersFrom (.cpyb d a g) s x ct (r 1) (16 * rows) (bitsOf (r 3) 0 2) (.publishRows blocks (r 7) (r 2) (r 0) out16 rnd x.t.sat) done) ∧
    (¬ append → ¬ dist → entersFrom (.cpyb d a g) s x ct (r 1) (16 * rows) (bitsOf (r 3) 0 2)
      (.gather blocks (r 7) (r 2) cx (r 0) (bitsOf (r 6) 32 32) out16 rnd x.t.sat) done)) ∧
  (∀ (d a : BitVec 5) (g : BitVec 3) (s : State) (x : Ctx) (at_ : Place × Nat) (done : Completion), Issues (.cpym d a g) s x →
    let r := groupReg x g
    let cl := x.t.rdC d.toNat
    let cs := x.t.rdC a.toNat
    let cores := ((List.range 64).filter fun j => (BitVec.ofNat 64 (r 7)).getLsbD j).map fun j => bitsOf (r 6) 0 16 + j
    controlOk (r 3) (fun _ => False) → bitsOf (r 3) 12 2 = 1 → s.disten.getLsbD (dieOf x.sh.core) = false →
    (∀ c ∈ cores, c < 288 ∧ dieOf c = dieOf x.sh.core) →
    s.engineCheck x.sh.band ⟨[kData, kLocal], true, pLD, true, false⟩ cs 1 a.toNat [(r 1, r 2)] = .ok () →
    s.engineCheck x.sh.band ⟨[kLocal], false, pST, false, true⟩ cl 1 d.toNat [(r 0, r 2)] = .ok () →
    x.place s ⟨[kLocal], false, pST, false, true⟩ cl 0 1 d.toNat (r 4) 16 16 = .ok at_ →
    x.completion s (x.group8 g) (r 2) = .ok done →
    exec (.cpym d a g) s = .next ((entered s x (bitsOf (r 3) 0 2)
      (.multi cs (r 1) (localOf cl.addr + r 0) (r 2) (localOf cl.addr + r 4) cores) done).settle x.n x.sh.lanes (.cpym d a g) .next))

/-- GO enters the command of its block: a copy in the named queue, a group command, a gateway message or a re-shard in the fabric
queue, and sends a command capability of a peer to its owner once no earlier command of its queue is left (R168, R323 to R325, R367, R368, R375).
A block in the MMIO window is an ALIGN (R136). A GO whose control word holds a reserved
value, whose block is too short for its header or holds poison in it, or whose header no rule assigns, faults; POISON gives the first poisoned
granule (R181, R310, R323, R324). The model's choices in it: the order of
the checks (log entry 72), a capability without room for the header (log entry 84), SRC and CREG of the faults (log entry 85). -/
def Obligations.GoEntersItsBlock : Prop :=
  ∀ (a : BitVec 5) (g : BitVec 3) (s : State) (x : Ctx), issuesAny (.go a g) s x →
    let c := x.t.rdC a.toNat
    let queue := bitsOf (groupReg x g 3) 0 2
    (∀ (r : Row) (src dst : Cap) (ms : List Move) (done : Completion), goOk s x a g 1 r → s.copyBlock x.sh.band c r = .ok (src, dst, ms) →
      x.completion s (x.group8 g) (moved ms) = .ok done → moved ms ≠ 0 → entersFrom (.go a g) s x c 0 128 queue (.copy src dst ms true) done) ∧
    (∀ (r : Row) (body : CmdBody) (bytes : Nat) (done : Completion), goOk s x a g 2 r → s.groupReady (shopOf x.n) (s.blockCap c r 16) = true →
      x.groupBlock s c r = .ok (body, bytes) → x.completion s (x.group8 g) bytes = .ok done → entersFrom (.go a g) s x c 0 128 5 body done) ∧
    (∀ (r : Row) (body : CmdBody) (bytes : Nat) (done : Completion), goOk s x a g 4 r →
      s.gatewayBlock x.sh.band c r = .ok (body, bytes) → x.completion s (x.group8 g) bytes = .ok done → entersFrom (.go a g) s x c 0 64 5 body done) ∧
    (∀ (r : Row) (p : PlanCmd) (accs : List Access), goOk s x a g 3 r → bitsOf (groupReg x g 3) 12 2 = 0 →
      let s0 := s.setTeam x.n x.awake
      let y : Ctx := { x with t := x.awake }
      y.planCaps s0 c r = .ok () → s0.planReady (shopOf x.n) c r = true → y.planOf s0 c r = .ok p → y.recordReads s0 p.prog 3 0 p.progOff = .ok accs →
      (∀ b ∈ accs, readyNow s0 b) → bytesNat (((s0.performAll accs).2.flatMap fun q => q.2.data).take 8) ≤ p.count →
      let s2 := entered ((((s0.performAll accs).1.dropReqs accs).updTeam x.n fun t => { t with wait := .none })) x 5 (.reshard p) .none
      exec (.go a g) s = .next (({ s2 with rseQueue := rseReached s2.rseQueue s2.cmds } : State).settle x.n x.sh.lanes (.go a g) .next)) ∧
    (bitsOf (groupReg x g 3) 12 2 = 3 ∨ (bitsOf (groupReg x g 3) 12 2 = 0 ∧ bitsOf (groupReg x g 3) 14 5 ≠ 0) →
      faults (.go a g) s x (.plain .engine)) ∧
    (bitsOf (groupReg x g 3) 12 2 ≠ 3 → (bitsOf (groupReg x g 3) 12 2 = 0 → bitsOf (groupReg x g 3) 14 5 = 0) →
      s.capFails x.sh.band goUse c (isGlobal c.kind && inMmio c.addr) = none → c.kind = kCommand →
      (16 ≤ c.len → inMmio c.addr = true → faults (.go a g) s x ⟨.align, 0, 8, 1, a.toNat, false, 0, wrapAddr c.addr, 0⟩) ∧
      (c.len < 16 → faults (.go a g) s x ⟨.bounds, 0, 7, 1, a.toNat, false, 16, wrapAddr (c.addr + 16), 0⟩) ∧
      (16 ≤ c.len → inMmio c.addr = false → s.rowReady (shopOf x.n) c 0 16 false = true →
        let h := (s.readRow (shopOf x.n) c 0 16 []).1
        (h.poison.any id = true → faults (.go a g) s x
          ⟨.poison, 0, 0, 0, 0, false, 0, wrapAddr c.addr, wrapAddr (c.addr + h.poison.findIdx id) / 16 * 16⟩) ∧
        (h.poison.any id = false → headerOk h = false → faults (.go a g) s x (.plain .engine)))) ∧
    (∀ done : Completion, bitsOf (groupReg x g 3) 12 2 ≠ 3 → (bitsOf (groupReg x g 3) 12 2 = 0 → bitsOf (groupReg x g 3) 14 5 = 0) →
      s.capFails x.sh.band goUse c (isGlobal c.kind && inMmio c.addr) = none → c.kind = kSealed → s.devSet = true → x.completion s (x.group8 g) 0 = .ok done →
      let s1 (sent : Bool) : State := entered (s.setTeam x.n x.awake) x queue (.remoteGo c sent) done
      exec (.go a g) s = .next ((s1 false).sendGos.settle x.n x.sh.lanes (.go a g) .next) ∧
      (s.portsOpen = true → (∀ d ∈ s.cmds, d.id ≤ s.nextId ∧ ∀ cap, d.body ≠ .remoteGo cap false) →
        let holds (d : Cmd) : Prop := d.team = some x.n ∧ match d.body with
          | .fence q => q.getLsbD queue = true
          | _ => d.queue = queue
        ((∀ d ∈ s.cmds, ¬ holds d) → (s1 false).sendGos = { s1 true with
          out := .peerGo (s.nextId + 1) c x.sh.band (match done with | .barrier _ _ => true | _ => false) :: s.out }) ∧
        ((∃ d ∈ s.cmds, holds d) → (s1 false).sendGos = s1 false)))

/-- MLRED and MSTM check the group, then the lengths and the control word, then the local buffer, and enter the fabric queue (R362). GRPMK checks the record and
every member, marks it as being set up and enters the fabric queue; GRPQ reads the record or releases the group; NSPAWN hands a
graph to the gaffer; RSQ reads a progress record (R349, R360, R361, R382). The scope is checked when a word issues, and not again while its team is
blocked (R165). The model's choices in it: both LD and GO of a group (log entry 103), the bytes of an MSTM's completion (log entry 105), the order of
GRPMK's checks (log entry 109), a release as a blocking wait (log entry 110). -/
def Obligations.GroupSpawnAndProgressWords : Prop :=
  (∀ (i : Instr) (d a : BitVec 5) (g : BitVec 3) (s : State) (x : Ctx) (at_ : Place × Nat) (done : Completion), i = .mlred d a g →
    issuesAny i s x →
    let r := groupReg x g
    let grp := x.t.rdC a.toNat
    let bf16 : Bool := decide (x.t.ty? = some .bf16x2)
    let bytes := if bf16 then r 2 else 2 * r 2
    (x.t.ty? = some .f32 ∨ x.t.ty? = some .bf16x2) → controlOk (r 3) (fun _ => False) → s.groupReady (shopOf x.n) grp = true →
    x.place s ⟨[kGroup], false, pLD ||| pGO, false, false⟩ grp 0 1 a.toNat 0 8 8 = .ok at_ →
    128 ≤ r 2 → r 2 ≤ 4096 → r 2 % 128 = 0 → r 1 % 128 = 0 →
    s.engineCheck x.sh.band ⟨[kData, kLocal], false, pST, false, true⟩ (x.t.rdC d.toNat) 1 d.toNat [(r 0, bytes)] = .ok () →
    x.completion s (x.group8 g) bytes = .ok done →
    enters i s x 5 (.mlred grp (x.t.rdC d.toNat) (r 1) (r 0) (r 2) bf16 ((x.t.mode.toNat / 2 ^ 15) % 2 ^ 3) x.t.sat) done) ∧
  (∀ (i : Instr) (d a : BitVec 5) (g : BitVec 3) (s : State) (x : Ctx) (at_ : Place × Nat) (done : Completion), i = .mstm d a g →
    issuesAny i s x →
    let r := groupReg x g
    let grp := x.t.rdC d.toNat
    controlOk (r 3) (fun _ => False) → s.groupReady (shopOf x.n) grp = true →
    x.place s ⟨[kGroup], false, pLD ||| pGO, false, false⟩ grp 0 1 d.toNat 0 8 8 = .ok at_ →
    128 ≤ r 2 → r 2 ≤ 65536 → r 2 % 128 = 0 → r 0 % 128 = 0 →
    s.engineCheck x.sh.band ⟨[kData, kLocal], false, pLD, true, false⟩ (x.t.rdC a.toNat) 1 a.toNat [(r 1, r 2)] = .ok () →
    x.completion s (x.group8 g) (r 2 * s.groupCount (shopOf x.n) grp) = .ok done →
    enters i s x 5 (.mstm grp (x.t.rdC a.toNat) (r 1) (r 0) (r 2)) done) ∧
  (∀ (d a : BitVec 5) (h : BitVec 4) (s : State) (x : Ctx) (at_ : Place × Nat), issuesAny (.grpmk d a h) s x →
    let c := x.t.rdC a.toNat
    let sh := shopOf x.n
    let n := s.groupCount sh c
    let made : Cap := { c with kind := 5, fmt := 0, perm := c.perm &&& (pLD ||| pGO ||| pSEAL ||| pEXPORT ||| pDERIVE) }
    x.place s ⟨[kData], false, pLD ||| pST ||| pLDC ||| pDERIVE, false, true⟩ c 0 1 a.toNat 0 16 16 = .ok at_ → c.addr % 64 = 0 →
    s.rowReady sh c 0 16 true = true → (s.groupRow sh c 0 2).poison.any id = false → 2 ≤ n → n ≤ 9216 → 1216 + 16 * n ≤ c.len →
    s.groupReady sh c = true →
    (∀ i, i < n → let m := s.groupMember sh c i
      (s.groupRow sh c (1216 + 16 * i) 16).poison.any id = false ∧ m.tag = true ∧ m.kind = kSealed ∧ m.inner = kData ∧
        m.target = s.devId.toNat ∧ m.band = x.sh.band) →
    exec (.grpmk d a h) s = .next ((entered (((s.groupWrite sh c 2 [4]).markSy c 0 (1216 + 16 * n)).setTeam x.n (x.awake.wrC d.toNat made)) x 5 (.groupSetup made) .none).settle
      x.n x.sh.lanes (.grpmk d a h) .next)) ∧
  (∀ (d : BitVec 6) (a : BitVec 5) (sel : BitVec 8) (s : State) (x : Ctx) (at_ : Place × Nat),
    ((Issues (.grpq d a sel) s x ∧ scopeOk x s x.t.scope) ∨ ∃ p, Reissues (.grpq d a sel) s x p) →
    let grp := x.t.rdC a.toNat
    let sh := shopOf x.n
    let off := if sel = 0 then 0 else 64 + 8 * (sel.toNat - 1)
    (sel ≠ 0xFF → x.place s ⟨[kGroup], false, pLD, true, false⟩ grp 0 1 a.toNat off 8 8 = .ok at_ → s.rowReady sh grp off 8 false = true →
      (s.groupRow sh grp off 8).poison.any id = false →
      exec (.grpq d a sel) s =
        .next ((s.markSy grp off 8).afterWord x (.grpq d a sel) (x.awake.wrS d.toNat (BitVec.ofNat 64 (bytesNat ((s.groupRow sh grp off 8).data.take 8)))) .next)) ∧
    (sel = 0xFF → x.place s ⟨[kGroup], false, pLD ||| pGO, false, false⟩ grp 0 1 a.toNat 0 8 8 = .ok at_ → s.fabricBusy x.n = false →
      s.rowReady sh grp 2 1 true = true →
      exec (.grpq d a sel) s = .next (({ s.groupWrite sh grp 2 [3] with
        groups := (s.groupWrite sh grp 2 [3]).groups.filter fun r => r.record ≠ grp.localAt 0 } : State).afterWord x (.grpq d a sel) (x.awake.wrS d.toNat 0) .next))) ∧
  (∀ (g a st : BitVec 5) (s : State) (x : Ctx) (at1 at2 : Place × Nat), Issues (.nspawn g a st) s x →
    let ca := x.t.rdC a.toNat
    x.place s ⟨[kData], false, pLD, true, false⟩ (x.t.rdC g.toNat) 0 1 g.toNat 0 64 1 = .ok at1 →
    ca.tag = true → ca.kind = kData → ca.dev = s.devId.toNat → (x.sh.band = 0 ∨ ca.band = x.sh.band) →
    x.place s ⟨[kData], false, pST, false, true⟩ (x.t.rdC st.toNat) 0 1 st.toNat 0 8 1 = .ok at2 →
    exec (.nspawn g a st) s = .next (({ s with spawns := s.spawns ++ [⟨x.sh.fn, x.sh.band, x.t.rdC g.toNat, ca, x.t.rdC st.toNat⟩] } : State).settle
      x.n x.sh.lanes (.nspawn g a st) .next)) ∧
  (∀ (d : BitVec 6) (a : BitVec 5) (b : BitVec 6) (s : State) (x : Ctx) (accs : List Access), Issues (.rsq d a b) s x → s.late = false →
    scopeOk x s x.t.scope → x.recordReads s (x.t.rdC a.toNat) 1 a.toNat (x.t.rdS b.toNat).toNat = .ok accs → (∀ q ∈ accs, readyNow s q) →
    ¬ heldBack x.sh.rev2 x.t.outStores (.rsq d a b) accs →
    let r := s.performAll accs
    let record := r.2.flatMap fun q => q.2.data
    let num (o n : Nat) : Nat := bytesNat ((record.drop o).take n)
    exec (.rsq d a b) s = .next (((r.1.setTeam x.n { ((r.1.team? x.n).getD x.t).wrS d.toNat
      (BitVec.ofNat 64 (num 0 4 * 2 ^ 32 + num 16 2 * 2 ^ 16 + num 21 1 * 2 ^ 8 + num 20 1)) with wait := .none }).dropReqs accs).settle
        x.n x.sh.lanes (.rsq d a b) .next))

/-! ### Matrix words (R49, R333 to R348) -/

namespace Sys2Proof.Claims

open Sys2Proof.Machine

/-- The descriptor in an even pair (R333). -/
def descAt (x : Ctx) (b : Nat) : Desc :=
  let n : BitVec 128 := x.t.rdS (b + 1) ++ x.t.rdS b
  { pat := n.getLsbD 100, seed := (n.extractLsb' 84 16).toNat, ext := (n.extractLsb' 75 9).toNat, stream := (n.extractLsb' 72 3).toNat
    srcs := n.getLsbD 71, margin := (n.extractLsb' 67 4).toNat, kfast := n.getLsbD 66, geo := n.extractLsb' 64 2, fmt := n.extractLsb' 58 6
    k := (n.extractLsb' 48 10).toNat, pitch := (n.extractLsb' 32 16).toNat, off := (n.extractLsb' 0 32).toNat }

/-- Bits [127..101] of the pair are zero. -/
def descClean (x : Ctx) (b : Nat) : Prop := (x.t.rdS (b + 1)).toNat < 2 ^ 37

/-- K, EXT and PITCH are in range. -/
def sized (d : Desc) (k e : Nat) : Prop := 1 ≤ d.k ∧ d.k ≤ k ∧ 1 ≤ d.ext ∧ d.ext ≤ e ∧ 1 ≤ d.pitch

/-- The fields of a descriptor of an A operand (R333). -/
def aFields (d : Desc) (sparse : Bool) : Prop :=
  (sparse = false → d.seed = 0 ∧ d.pat = false) ∧
  (d.srcs = true → d.fmt = 0 ∧ d.geo = 0 ∧ d.kfast = false ∧ d.k = 0 ∧ d.pitch = 0 ∧ d.off = 0 ∧ d.ext = 0) ∧
  (d.srcs = false → d.stream = 0 ∧ sized d 512 16)

/-- The fields of a descriptor of a B operand. -/
def bFields (d : Desc) : Prop :=
  d.seed = 0 ∧ d.pat = false ∧ d.srcs = false ∧ d.stream = 0 ∧ d.margin = 0 ∧ sized d 256 (if isWideFmt d.fmt then 128 else 256)

/-- The fields of a published tile's descriptor. -/
def pubFields (d : Desc) : Prop := d.seed = 0 ∧ d.pat = false ∧ d.srcs = false ∧ d.stream = 0 ∧ sized d 512 16

/-- The operand passes R334 and R335 through `c`; `rows` says that it is an A operand, whose P_A lies in 2 to 16. -/
def operandOk (s : State) (x : Ctx) (c : Cap) (creg : Nat) (d : Desc) (rows : Bool) : Prop :=
  s.engineCheck x.sh.band ⟨[kData, kLocal], false, pLD, true, false⟩ c 1 creg [(d.off, d.size)] = .ok () ∧
  (c.fmt = 0 ∧ c.geo = 0 ∨ (c.fmt = d.fmt ∧ c.geo = d.geo)) ∧
  (d.geo = 0 ∧ (isNarrow d.fmt = true ∨ isWideFmt d.fmt = true) ∨
    isNarrow d.fmt = true ∧ (d.geo = 3 ∨ (d.geo = 1 ∧ d.kfast = true) ∨ (d.geo = 2 ∧ d.kfast = false))) ∧
  (rows = true → 2 ≤ planes d.fmt d.margin ∧ planes d.fmt d.margin ≤ 16) ∧
  (if d.kfast then d.k else d.ext) ≤ d.pitch ∧ (d.geo = 1 → d.pitch % 64 = 0) ∧ (d.geo = 3 → d.pitch % 8 = 0) ∧
  d.off % (if d.geo = 0 then max 1 (d.width / 8) else 16) = 0

/-- The state with a command in the matrix queue, in the batch that the next MFENCE closes (R348). -/
def batched (s : State) (x : Ctx) (body : CmdBody) : State :=
  { s with nextId := s.nextId + 1
           cmds := s.cmds ++ [⟨s.nextId + 1, some x.n, shopOf x.n, 4, x.sh.band, body, .none, x.t.mclosed.toNat + 1, false, s.postPass - 1, []⟩] }

/-- The word enters a matrix command and goes on. -/
def entersMatrix (i : Instr) (s : State) (x : Ctx) (body : CmdBody) : Prop :=
  exec i s = .next ((batched s x body).settle x.n x.sh.lanes i .next)

/-- The tile exists. -/
def tileOk (x : Ctx) (t : Nat) : Prop := 4 * t + 3 < (x.sh.ppw.extractLsb' 10 6).toNat

/-- A command of the team's matrix queue up to batch `n` is left. -/
def batchLeft (s : State) (x : Ctx) (n : Nat) : Prop := ∃ c ∈ s.cmds, c.team = some x.n ∧ c.queue = 4 ∧ c.batch ≤ n ∧ isWork c = true

/-- Elements of a row that lane `l` of `lanes` draws for. -/
def drawsInRow (cols lanes l : Nat) : Nat := (cols + lanes - 1 - l) / lanes

end Sys2Proof.Claims

/-- MLOADB, MPUB, MMA and MMAS check their descriptor, tile and operand and enter the matrix queue; a bad descriptor raises ENGINE,
and a tile that is absent or in ERROR raises ENGINE with its index (R333 to R336, R338, R340 to R342). MEPI checks its destination and enters the matrix queue; under STO it takes one draw for every element, that of row r and column
c from the generator of lane c mod L in ascending r, and none otherwise (R49, R343). The model's choices in it: the order of the draws of one row
whose columns share a lane (log entry 182), the order of MEPI's checks (log entry 92). -/
def Obligations.MatrixOperandWords : Prop :=
  (∀ (l : BitVec 1) (c : BitVec 5) (b : BitVec 6) (s : State) (x : Ctx), Issues (.mloadb l c b) s x →
    (descClean x b.toNat → bFields (descAt x b.toNat) → operandOk s x (x.t.rdC c.toNat) c.toNat (descAt x b.toNat) false →
      entersMatrix (.mloadb l c b) s x (.mloadb l.toNat (x.t.rdC c.toNat) (descAt x b.toNat))) ∧
    (¬ (descClean x b.toNat ∧ bFields (descAt x b.toNat)) → faults (.mloadb l c b) s x (.plain .engine))) ∧
  (∀ (n : BitVec 6) (c : BitVec 5) (b : BitVec 6) (s : State) (x : Ctx), Issues (.mpub n c b) s x →
    let d := descAt x b.toNat
    let count := (x.t.rdS (b.toNat + 2)).toNat
    let stride := (x.t.rdS (b.toNat + 3)).toNat
    (descClean x b.toNat → pubFields d → 1 ≤ count → count ≤ 65535 →
      (∀ j, j < count → operandOk s x (x.t.rdC c.toNat) c.toNat { d with off := d.off + j * stride } false) →
      entersMatrix (.mpub n c b) s x (.mpub n.toNat (x.t.rdC c.toNat) d count stride)) ∧
    (¬ (descClean x b.toNat ∧ pubFields d ∧ 1 ≤ count ∧ count ≤ 65535) → faults (.mpub n c b) s x (.plain .engine))) ∧
  (∀ (i : Instr) (sparse : Bool) (l : BitVec 1) (t : BitVec 4) (c : BitVec 5) (b : BitVec 6) (s : State) (x : Ctx),
    i = (if sparse then .mmas l t c b else .mma l t c b) → Issues i s x →
    let d := descAt x b.toNat
    let named := tileOk x t.toNat ∧ (x.sh.tile t.toNat).state ≠ .error
    (named → descClean x b.toNat → aFields d sparse → (d.srcs = false → operandOk s x (x.t.rdC c.toNat) c.toNat d true) →
      entersMatrix i s x (.mma t.toNat l.toNat (x.t.rdC c.toNat) d sparse)) ∧
    (¬ named → faults i s x { Trap.plain .engine with aux := t.toNat }) ∧
    (named → ¬ (descClean x b.toNat ∧ aFields d sparse) → faults i s x (.plain .engine))) ∧
  (∀ (k : BitVec 1) (t : BitVec 4) (c : BitVec 5) (b : BitVec 6) (s : State) (x : Ctx) (f : ElemFmt), Issues (.mepi k t c b) s x →
    let cap := x.t.rdC c.toNat
    let w := x.t.rdS (b.toNat + 1)
    let off := ((x.t.rdS b.toNat).extractLsb' 0 32).toNat
    let pitch := (w.extractLsb' 0 16).toNat
    let rows := (w.extractLsb' 16 5).toNat
    let cols := (w.extractLsb' 21 9).toNat
    let named := tileOk x t.toNat ∧ (x.sh.tile t.toNat).state ≠ .error
    let body (words : Sparse Nat) : CmdBody := .mepi t.toNat (decide (k = 1)) cap off pitch rows cols ((x.t.mode.toNat / 2 ^ 15) % 2 ^ 3) x.t.sat words
    (¬ named → faults (.mepi k t c b) s x { Trap.plain .engine with aux := t.toNat }) ∧
    (named → w.toNat < 2 ^ 30 → 1 ≤ rows → rows ≤ 16 → 1 ≤ cols → cols ≤ 256 → fmtElem cap.fmt = some f →
      (cap.geo = 0 ∨ (isNarrow cap.fmt = true ∧ ((cap.geo = 1 ∧ cols % 64 = 0 ∧ pitch % 64 = 0) ∨
        (cap.geo = 3 ∧ rows % 8 = 0 ∧ cols % 8 = 0 ∧ pitch % 8 = 0)))) → cols ≤ pitch →
      s.engineCheck x.sh.band ⟨[kData, kLocal], true, pST, false, true⟩ cap 1 c.toNat
        [(off, storeSize cap.geo f.width (opIndex cap.geo pitch (rows - 1) (cols - 1)))] = .ok () →
      off % (if cap.geo = 0 then max 1 (f.width / 8) else 16) = 0 →
      (x.t.rnd ≠ .sto → exec (.mepi k t c b) s = .next ((batched (s.setTeam x.n x.t) x (body [])).settle x.n x.sh.lanes (.mepi k t c b) .next)) ∧
      (x.t.rnd = .sto → 0 < x.sh.lanes → ∃ (words : Sparse Nat) (t' : Team),
        exec (.mepi k t c b) s = .next ((batched (s.setTeam x.n t') x (body words)).settle x.n x.sh.lanes (.mepi k t c b) .next) ∧
        { t' with gen := x.t.gen } = x.t ∧
        (∀ l, t'.rdGen l = if l < x.sh.lanes then genAfter (rows * drawsInRow cols x.sh.lanes l) (x.t.rdGen l) else x.t.rdGen l) ∧
        ∀ r j, r < rows → j < cols → Sparse.get 0 words (256 * r + j) =
          (genAfter (r * drawsInRow cols x.sh.lanes (j % x.sh.lanes) + j / x.sh.lanes + 1) (x.t.rdGen (j % x.sh.lanes)) >>> 16).toNat)))

/-- MSUB, MUNSUB, MREL and MCLR enter the matrix queue. MFENCE closes a batch. MWAIT returns 0 for batch 0, raises ENGINE beyond the
last closed batch, waits while a command up to its batch is left, and then returns whether one reported an error. MSTAT reports a
tile once the team's matrix commands are done, or the slots and subscriptions (R338, R344, R346, R348). The scope of MWAIT is checked when it
issues, and not again while its team is blocked (R165). The model's choices in it: a failed MSUB shows at the next MWAIT (log entry 97), MSTAT of a
tile waits (log entry 96), batches that a restored context image calls complete are (log entry 128). -/
def Obligations.MatrixQueueWords : Prop :=
  (∀ (i : BitVec 3) (n : BitVec 6) (w : BitVec 4) (s : State) (x : Ctx), Issues (.msub i n w) s x →
    entersMatrix (.msub i n w) s x (.msub i.toNat n.toNat w.toNat)) ∧
  (∀ (i : BitVec 3) (h : BitVec 4) (s : State) (x : Ctx), Issues (.munsub i h) s x → entersMatrix (.munsub i h) s x (.munsub i.toNat)) ∧
  (∀ (i : BitVec 3) (h : BitVec 4) (s : State) (x : Ctx), Issues (.mrel i h) s x → entersMatrix (.mrel i h) s x (.mrel i.toNat)) ∧
  (∀ (t h : BitVec 4) (s : State) (x : Ctx), Issues (.mclr t h) s x →
    (tileOk x t.toNat → entersMatrix (.mclr t h) s x (.mclr t.toNat)) ∧
    (¬ tileOk x t.toNat → faults (.mclr t h) s x { Trap.plain .engine with aux := t.toNat })) ∧
  (∀ (d : BitVec 6) (h : BitVec 4) (s : State) (x : Ctx), Issues (.mfence d h) s x →
    exec (.mfence d h) s = .next (s.afterWord x (.mfence d h)
      (({ x.t with mclosed := x.t.mclosed + 1 } : Team).wrS d.toNat (BitVec.ofNat 64 (x.t.mclosed.toNat + 1))) .next)) ∧
  (∀ (d a : BitVec 6) (h : BitVec 4) (s : State) (x : Ctx),
    ((Issues (.mwait d a h) s x ∧ scopeOk x s x.t.scope) ∨ ∃ p, Reissues (.mwait d a h) s x p) →
    let n := (x.t.rdS a.toNat).toNat
    (n = 0 → exec (.mwait d a h) s = .next (s.afterWord x (.mwait d a h) (x.awake.wrS d.toNat 0) .next)) ∧
    (n ≠ 0 → x.t.mclosed.toNat < n → faults (.mwait d a h) s x (.plain .engine)) ∧
    (n ≠ 0 → n ≤ x.t.mclosed.toNat → x.t.mdone.toNat < n → batchLeft s x n → exec (.mwait d a h) s =
      .next (s.afterWord x (.mwait d a h) { x.t with wait := .blocked (.mwait d a h) false } .stay)) ∧
    (n ≠ 0 → n ≤ x.t.mclosed.toNat → (¬ batchLeft s x n ∨ n ≤ x.t.mdone.toNat) →
      let bad := x.t.mbad = true ∨ (x.t.merr ≠ 0 ∧ x.t.merr.toNat ≤ n)
      (bad → exec (.mwait d a h) s = .next (s.afterWord x (.mwait d a h) (({ x.awake with mbad := false } : Team).wrS d.toNat 1) .next)) ∧
      (¬ bad → exec (.mwait d a h) s = .next (s.afterWord x (.mwait d a h) (({ x.awake with mbad := false } : Team).wrS d.toNat 0) .next)))) ∧
  (∀ (d : BitVec 6) (q : BitVec 8) (s : State) (x : Ctx), issuesAny (.mstat d q) s x →
    let s0 := x.sh.slot 0
    let s1 := x.sh.slot 1
    let tile := x.sh.tile q.toNat
    (q.getLsbD 7 = true → ∃ v : W64,
      exec (.mstat d q) s = .next (s.afterWord x (.mstat d q) (x.awake.wrS d.toNat v) .next) ∧
      (∀ m, m < 8 → (v.extractLsb' (4 * m) 4).toNat = if (x.sh.sub m).on then min 8 (x.sh.sub m).tiles.length else 0) ∧
      (v.extractLsb' 32 8).toNat = s0.n % 2 ^ 8 ∧ (v.extractLsb' 40 8).toNat = s0.k % 2 ^ 8 ∧
      (v.extractLsb' 48 8).toNat = s1.n % 2 ^ 8 ∧ (v.extractLsb' 56 8).toNat = s1.k % 2 ^ 8) ∧
    (q.getLsbD 7 = false → ¬ tileOk x q.toNat → faults (.mstat d q) s x { Trap.plain .engine with aux := q.toNat }) ∧
    (q.getLsbD 7 = false → tileOk x q.toNat → batchLeft s x (x.t.mclosed.toNat + 1) → exec (.mstat d q) s =
      .next (s.afterWord x (.mstat d q) { x.t with wait := .blocked (.mstat d q) false } .stay)) ∧
    (q.getLsbD 7 = false → tileOk x q.toNat → ¬ batchLeft s x (x.t.mclosed.toNat + 1) → ∃ v : W64,
      exec (.mstat d q) s = .next (({ s with fresh := s.fresh + 1 } : State).afterWord x (.mstat d q) (x.awake.wrS d.toNat v) .next) ∧
      (v.extractLsb' 0 2).toNat = (match tile.state with
        | .clear => 0
        | .opened => 1
        | .drain => 2
        | .error => 3) ∧
      v.getLsbD 4 = s0.loss ∧ v.getLsbD 5 = s1.loss ∧ v.getLsbD 6 = s0.poisoned ∧ v.getLsbD 7 = s1.poisoned ∧
      (tile.state ≠ .error → v.getLsbD 2 = tile.empty ∧ v.getLsbD 3 = tile.window ∧ v.extractLsb' 8 40 = 0 ∧
        v.extractLsb' 48 16 = BitVec.ofInt 16 tile.lam)))


/-! ### The gaffer and the scheduler (R95, R103 to R105, R114, R116 to R133, R141, R143, R192 to R195, R399) -/

namespace Sys2Proof.Claims

open Sys2Proof.Machine

/-- A gaffer's command for a shop: its input and result copies. -/
def isGafferCopy (c : Cmd) (shop : Nat) : Prop :=
  c.team = none ∧ c.shop = shop ∧ ∀ src dst ms tags dev seq, c.body ≠ .ownerGo src dst ms tags dev seq

/-- What R95, R38, R104 and R106 say of team `k` of a shop at its start, in role `r`. -/
def freshTeam (s : State) (x : Shop) (k : Nat) (r : RoleEntry) (privBase privLen : Nat) (t : Team) : Prop :=
  t.pc = r.entry.setWidth 64 ∧ t.mode = 0 ∧ t.dlleft = x.deadline ∧ t.pri = r.pri ∧ t.pricap = r.ceil ∧ t.allot = r.allot ∧
  t.roleix = 0 ∧ t.crews = 1 ∧ t.inHandler = false ∧ t.loop = .none ∧ t.wait = .none ∧ t.ended = false ∧ t.monitor = none ∧ t.bkctl = 0 ∧
  (∀ q, t.rdS q = 0) ∧ (∀ l q, t.rdV l q = 0) ∧ (∀ q j, j < 1024 → (t.rdK q).getLsbD j = (decide (q = 0) && decide (j < x.lanes))) ∧
  (∀ q, q ≠ 1 → q ≠ 2 → q ≠ 3 → t.rdC q = Cap.null) ∧ t.rdC 3 = x.arg ∧
  t.rdC 2 = s.spadCap x.band x.ppw ∧ t.rdC 1 = s.privCap x.band privBase privLen ∧
  (∀ l, l < x.lanes → t.rdGen l = genInit x.inst k l)

/-- The queue can be served: its next record can be taken now. -/
def servable (s : State) (j : Nat) : Prop := (s.acceptQueue (j / 16) (j % 16)).isSome = true

/-- The record that a queue's head names, as memory holds it now (R116, R117). -/
def recordNow (s : State) (fn : Nat) (qu : LQueue) : Nat := s.gread (s.root fn 0) (qu.ring.toNat + 64 * (qu.head.toNat % qu.size.toNat)) 64

/-- What the gaffer takes for the record at the head, and the counter of free values then: the record as it stands; one that has
changed in HBM since the tail passed it has free fields (R116). -/
def taken (s : State) (fn : Nat) (qu : LQueue) (r : LaunchIn) (fresh : Nat) : Prop :=
  (qu.posted.head? = some (recordNow s fn qu) ∧ r = ⟨recordNow s fn qu⟩ ∧ fresh = s.fresh) ∨
  (∃ p, qu.posted.head? = some p ∧ p ≠ recordNow s fn qu ∧
    s.region ((s.root fn 0).localAt (qu.ring.toNat + 64 * (qu.head.toNat % qu.size.toNat))) = .hbm ∧ fresh = s.fresh + 8 ∧
    ∀ j, j < 8 → BitVec.ofNat 64 (r.x / 2 ^ (64 * j)) = Config.freeWord (s.fresh + j))

/-- A node after a predecessor with successor list `succ` has completed: PREDS falls by the node's appearances in it (R127). -/
def lessPreds (succ : List Nat) (j : Nat) (m : Node) : Node := { m with preds := m.preds - (succ.filter fun i => i = j).length }

/-- A node whose last predecessor has completed then (R124). -/
def comesReady (l : Launch) (succ : List Nat) (j : Nat) : Prop :=
  ∃ m, l.nodes[j]? = some m ∧ j ∈ succ ∧ m.preds ≠ 0 ∧ (lessPreds succ j m).preds = 0

/-- The context-area header's first 24 bytes (R192). -/
def headerOf (x : Shop) (seq : Nat) : List Byte :=
  natBytes 4 x.inst ++ natBytes 4 x.node ++ natBytes 4 x.ppw.toNat ++ natBytes 1 x.nteams ++ natBytes 1 x.nkind.toNat ++
    natBytes 1 (x.lanes / 32 - 1) ++ natBytes 1 x.band.toNat ++ natBytes 8 seq

end Sys2Proof.Claims

/-- An issue resets the count of its team and adds its decisions to the counts of the ready teams that need its slot; a team passed over
4,096 times issues once at PRI 15 (R103, R105). A write of QTAIL gives the queue its tail, and keeps the records that the tail has passed; the gaffer
serves the queues round-robin and takes the next record: it stops a queue that is overrun, refuses a launch with the first failing code, or accepts it;
then each node without predecessors enters the ready pool in its order, and a join completes at once and releases its successors (R116 to R119, R124, R127,
R129, R399). The model's choices in it: which pipe serves a word that no rule
names and which of several vector pipes decides, and a team of higher priority has no operands available when a lower one issues (log entries 133, 171), a changed record has free fields and only
records in HBM are compared (log entry 186), NSPAWN's acceptance is the same event (log entries 8, 124), the codes of a launch that several
checks refuse, of role tables and of joins (log entries 118, 119, 120, 172). -/
def Obligations.AgingAndLaunches : Prop :=
  (∀ (s : State) (n : Nat) (t : Team), s.team? n = some t → t.ended = false → t.wait = .none → t.aged = false →
    (4096 ≤ t.aging → exec (.agingBoost n) s = .next (s.setTeam n { t with aged := true }) ∧ ({ t with aged := true } : Team).priNow = 15) ∧
    (t.aging < 4096 → exec (.agingBoost n) s = .fault .notEnabled)) ∧
  (∀ (s : State) (x : Ctx) (n : Nat) (t : Team), s.team? n = some t →
    let gone := (s.countIssue x).team? n
    let passed : Prop := s.readyTeam n = true ∧ t.priNow ≤ x.t.priNow ∧ ∃ y, s.ctx? n = some y ∧ s.slotOf x ∈ s.slotsOf y
    (n = x.n → gone = some { t with aging := 0, aged := false }) ∧
    (n ≠ x.n → passed → gone = some { t with aging := t.aging + s.decisions x }) ∧
    (n ≠ x.n → ¬ passed → gone = some t)) ∧
  (∀ (s : State) (fn q : Nat) (tail : W32), fn < 64 → q < 16 → ∃ s', exec (.qtailWrite fn q tail) s = .next s' ∧
    (let qu := (s.func fn).queue q
     let now := (s'.func fn).queue q
     let k := (tail - qu.tail).toNat
     { now with posted := qu.posted } = { qu with tail := tail } ∧
     (qu.posted.length = (qu.tail - qu.head).toNat → (tail - qu.head).toNat = (qu.tail - qu.head).toNat + k → k ≤ qu.size.toNat →
       now.posted = qu.posted ++ (List.range k).map fun j => s.gread (s.root fn 0) (qu.ring.toNat + 64 * ((qu.tail.toNat + j) % qu.size.toNat)) 64)) ∧
    (∀ f, f ≠ fn → s'.func f = s.func f) ∧
    (∀ p, p ≠ q → (s'.func fn).queue p = (s.func fn).queue p) ∧ { s' with funcs := s.funcs } = s) ∧
  (∀ (s : State) (k l : Nat), s.servedNext = some k → s.lastQueue = some l → servable s k ∧
    ∀ j, servable s j → (l < j → l < k ∧ k ≤ j) ∧ (j ≤ l → l < k ∨ k ≤ j)) ∧
  (∀ s : State, s.servedNext = none → ∀ j, ¬ servable s j) ∧
  (∀ (s : State) (fn q : Nat), q < 16 → s.servedNext = some (16 * fn + q) → (s.func fn).band ≠ 0 → ((s.func fn).queue q).enable = true → ((s.func fn).queue q).stopped = false →
    let qu := (s.func fn).queue q
    let ahead := (qu.tail - qu.head).toNat
    let served (s' : State) : State := { s' with lastQueue := some (16 * fn + q) }
    (qu.size.toNat < ahead → s.recordReady fn q = true → exec (.launchAccept fn q) s = .next (served ((s.updFunc fn fun g => g.setQueue q { qu with stopped := true }).writeErrorRecord fn q
      (errorBits 10 0 0 0 0 0 0 0 0 0 0 0 0 4)))) ∧
    (ahead ≠ 0 → ahead ≤ qu.size.toNat → ∀ (r : LaunchIn) (fresh : Nat), r.x < 2 ^ 512 → taken s fn qu r fresh →
      let gr := s.root fn (r.bits 204 4)
      let g := s.readGraph fn (s.func fn).band gr (r.bits 224 64) false
      let s0 := s.markSy (s.root fn 0) (qu.ring.toNat + 64 * (qu.head.toNat % qu.size.toNat)) 64
      let s1 : State := { (if gr.tag then s0.markGraph (s.func fn).band gr (r.bits 224 64) else s0).updFunc fn fun h =>
        h.setQueue q { qu with head := qu.head + 1, posted := qu.posted.drop 1 } with fresh := fresh }
      let codes := s.recordCodes fn r ++ if gr.tag then g.codes else []
      (r.bits 195 1 = 0 ∨ ∀ e ∈ s.launches, ¬ (e.2.fn = fn ∧ e.2.queue = some q ∧ e.2.done = false)) → s.acceptReady fn q r = true →
      (∀ code, code ∈ codes → (∀ c ∈ codes, code ≤ c) → exec (.launchAccept fn q) s = .next (served (s1.refuseLaunch fn q r code))) ∧
      (∀ (e : CodeEntry) (a : Cap), codes = [] → s.nodesUsed none + g.nodes.length ≤ 65535 → g.code = some e →
        boundCap 32 (s.root fn (r.bits 200 4)) (r.bits 320 64) (r.bits 288 32) = .ok a →
        let arg : Cap := { a with perm := a.perm &&& (pLD ||| pST ||| pLDC ||| pSTC ||| pAT ||| pDERIVE) }
        exec (.launchAccept fn q) s = .next (served ((s1.writeRoots fn arg 0 (maskRoots (r.bits 208 16))).enterLaunch
          { fn := fn, queue := some q, band := (s.func fn).band, seq := r.bits 448 64, stamp := s.root fn (r.bits 196 4), stampOff := r.bits 384 64
            vector := if r.bits 194 1 = 1 then some (r.bits 180 12) else none, arg := arg, graph := gr, graphOff := r.bits 224 64, code := e.cap
            rev2 := e.rev2, shopLimit := (s.func fn).limit.toNat / 2 ^ 16 % 2 ^ 8, quar := (s.func fn).limit.toNat / 2 ^ 27 % 2 ^ 5, deleg := (s.func fn).deleg
            privWin := (s.func fn).privWin
            privLen := (s.func fn).privLen, ctxWin := (s.func fn).ctxWin, ctxLen := (s.func fn).ctxLen, nodes := g.nodes, failed := false, done := false }))))) ∧
  (∀ (s : State) (fn : Nat) (before after : List Spawn) (p : Spawn), s.spawns = before ++ p :: after → p.fn = fn → (∀ b ∈ before, b.fn ≠ fn) →
    s.rowReady 0 p.stamp 0 8 true = true → s.graphReady p.graph 0 = true →
    let f := s.func fn
    let g := s.readGraph fn p.band p.graph 0 true
    let s1 : State := { s.markGraph p.band p.graph 0 with spawns := before ++ after }
    (∀ code ∈ g.codes, (∀ c ∈ g.codes, code ≤ c) → exec (.launchAccept fn 16) s =
      .next (s1.writePlain 0 p.band p.stamp 0 (natBytes 8 ((2 ^ 56 - 1) * 2 ^ 8 + code % 2 ^ 8)))) ∧
    (∀ e : CodeEntry, g.codes = [] → s.nodesUsed none + g.nodes.length ≤ 65535 → g.code = some e →
      exec (.launchAccept fn 16) s = .next (s1.enterLaunch
        { fn := fn, queue := none, band := p.band, seq := g.sseq, stamp := p.stamp, stampOff := 0, vector := none, arg := p.arg, graph := p.graph
          graphOff := 0, code := e.cap, rev2 := e.rev2, shopLimit := f.limit.toNat / 2 ^ 16 % 2 ^ 8, quar := f.limit.toNat / 2 ^ 27 % 2 ^ 5, deleg := f.deleg
          privWin := f.privWin, privLen := f.privLen
          ctxWin := f.ctxWin, ctxLen := f.ctxLen, nodes := g.nodes, failed := false, done := false }))) ∧
  (∀ (s : State) (l : Launch), ∃ l', Sparse.look (s.enterLaunch l).launches s.nextLaunch = some l' ∧
    { l' with nodes := l.nodes, done := l.done } = l ∧ (s.enterLaunch l).nextLaunch = s.nextLaunch + 1) ∧
  (∀ (s : State) (l : Launch),
    let first := (List.range l.nodes.length).filter fun k => decide ((l.nodes[k]?.map Node.preds) = some 0)
    s.enterLaunch l = (({ s with nextLaunch := s.nextLaunch + 1, launches := Sparse.insert s.launches s.nextLaunch l } : State).readyNodes
      s.nextLaunch (l.nodes.length + 1) first).endLaunch s.nextLaunch ∧
    ((∀ (k : Nat) (nd : Node), l.nodes[k]? = some nd → nd.preds = 0 → nd.nkind ≠ 3) →
      (s.enterLaunch l).ready = s.ready ++ first.map (fun k => ⟨some s.nextLaunch, k, ((l.nodes[k]?).map Node.pclass).getD 0, none, false, false⟩) ∧
      ∃ l', Sparse.look (s.enterLaunch l).launches s.nextLaunch = some l' ∧ l'.nodes = l.nodes)) ∧
  (∀ (s : State) (ln fuel k : Nat) (ks : List Nat) (l : Launch) (nd : Node), Sparse.look s.launches ln = some l → l.nodes[k]? = some nd →
    (nd.nkind ≠ 3 → s.readyNodes ln (fuel + 1) (k :: ks) =
      ({ s with ready := s.ready ++ [⟨some ln, k, nd.pclass, none, false, false⟩] } : State).readyNodes ln fuel ks) ∧
    (nd.nkind = 3 → ∃ (l' : Launch) (more : List Nat), s.readyNodes ln (fuel + 1) (k :: ks) =
        ({ s with launches := Sparse.insert s.launches ln l' } : State).readyNodes ln fuel (ks ++ more) ∧ { l' with nodes := l.nodes } = l ∧
      (∀ j m, l.nodes[j]? = some m → l'.nodes[j]? = some (if j = k then { lessPreds nd.succ j m with dispatched := 1, finished := 1 }
        else lessPreds nd.succ j m)) ∧
      more.Nodup ∧ ∀ j, j ∈ more ↔ comesReady l nd.succ j))

namespace Sys2Proof.Claims

open Sys2Proof.Machine

/-- A record of a context area read back into a team (R192, R194): PC at a word, the words and bytes of its head, the s registers, and the
c registers as R63 lets them be read. -/
def readBack (s : State) (a : Nat) (t : Team) : Prop :=
  let num (o n : Nat) : Nat := bytesNat (s.mem.read (a + o) n)
  t.pc.toNat = num 0 8 / 4 * 4 ∧ t.mode.toNat = num 8 4 ∧ t.dlleft.toNat = num 12 2 ∧ t.pri.toNat = num 14 1 % 16 ∧ t.pricap.toNat = num 14 1 / 16 ∧
    t.roleix.toNat = num 15 1 % 8 ∧ t.inHandler = decide (num 15 1 / 8 % 2 = 1) ∧ t.crews.toNat = num 16 1 ∧ t.allot = num 18 2 ∧
    t.bkctl.toNat = num 192 8 % 32 ∧ (∀ r, r < 64 → (t.rdS r).toNat = num (256 + 8 * r) 8) ∧
    (∀ r, 0 < r → r < 32 → t.rdC r = s.moved (s.mem.readCap (a + 768 + 16 * r)) ∧ t.capPoison r = s.mem.poisoned (a + 768 + 16 * r) 16)

/-- A team written into a record of a context area (R192). -/
def writtenTo (t : Team) (m : Mem) (a : Nat) : Prop :=
  m.read a 20 = natBytes 8 t.pc.toNat ++ natBytes 4 t.mode.toNat ++ natBytes 2 t.dlleft.toNat ++ natBytes 1 (t.pri.toNat + 16 * t.pricap.toNat) ++
      natBytes 1 (t.roleix.toNat + 8 * t.inHandler.toNat) ++ natBytes 1 t.crews.toNat ++ natBytes 1 t.wait.kind ++ natBytes 2 t.allot ∧
    m.read (a + 192) 8 = natBytes 8 t.bkctl.toNat ∧ (∀ r, r < 64 → m.read (a + 256 + 8 * r) 8 = natBytes 8 (t.rdS r).toNat) ∧
    (∀ r, r < 32 → m.read (a + 768 + 16 * r) 16 = natBytes 16 (t.rdC r).toNat) ∧
    (a % 16 = 0 → ∀ r, r < 32 → m.tagAt (a + 768 + 16 * r) = (t.rdC r).tag ∧ m.poisoned (a + 768 + 16 * r) 16 = t.capPoison r)

end Sys2Proof.Claims

/-- A gaffer places the next instance of a node on a core that takes it, or restores a saved shop there; a failed check of an operand
entry, or of a saved image, ends the node (R125, R126, R132, R194). An entry that fits nowhere becomes pressing (R125). The teams
start when every input copy is done (R95, R126). The model's choices in it: a pressing instance holds back only what stands behind it
(log entry 122), an earlier entry that fits a core of the die goes first (log entry 123), private regions are taken at the dispatch (log entry 125) at
places that the event names (log entry 126), poison in an operand entry is not seen and that in an argument slot fails the instance, and the result entries are checked then (log entries 135, 136),
a context area is reserved at the dispatch (log entry 173). -/
def Obligations.DispatchAndTeamStart : Prop :=
  (∀ (s : State) (ln : Option Nat) (node : Nat) (r : Ready), (s.poolOrder.find? fun r => r.launch = ln && r.node = node && !r.pressing) = some r →
    ((∀ core, core < 288 → s.entryFits r core = false) → exec (.pressing ln node) s =
      .next { s with ready := s.ready.map fun q => if q = r then { q with pressing := true } else q }) ∧
    ((∃ core, core < 288 ∧ s.entryFits r core = true) → exec (.pressing ln node) s = .fault .notEnabled)) ∧
  (∀ (s : State) (ln node core : Nat) (priv : List Nat) (r : Ready) (l : Launch) (nd : Node) (ctx : Nat), s.firstEntry (some ln) node core = some r →
    s.mayDispatch r core = true → r.shop = none → s.entryNode r = some (l, nd) → priv.length = nd.teams →
    s.privPlaced l (privBytes nd.ppw nd.lanes) priv s.privRegions = true → s.operandsReady l nd = true →
    s.ctxPlace s.nextShop l (ctxBound nd.ppw nd.lanes nd.teams (isVCore core)) = some ctx →
    let n := s.nextShop
    (∀ os, s.operandEntries l nd nd.dispatched nd.opn 0 = .ok os → ∃ s' sh, exec (.dispatch (some ln) node core priv) s = .next s' ∧
      s'.nextShop = n + 1 ∧ s'.shop? n = some sh ∧ sh.phase = .staging ∧ sh.core = core ∧ sh.inst = nd.dispatched ∧ sh.node = node ∧
      sh.launch = some ln ∧ sh.band = l.band ∧ sh.nteams = nd.teams ∧ sh.lanes = nd.lanes ∧ sh.roles = nd.roles ∧ sh.code = l.code ∧ sh.arg = l.arg ∧
      sh.pclass = nd.pclass ∧ sh.ctx = ctx ∧ sh.image = s.nodeImage (some ln) node l.code ∧
      s'.ready = (if nd.dispatched + 1 < nd.inst then s.ready.map (fun q => if q = r then { q with pressing := false } else q) else s.ready.erase r) ∧
      Sparse.look s'.launches ln = some { l with nodes := updNth (fun m => { m with dispatched := nd.dispatched + 1 }) l.nodes node } ∧
      (∃ new, s'.cmds = s.cmds ++ new ∧ new.length = (os.filter fun o => !o.result).length ∧ ∀ c ∈ new, isGafferCopy c n) ∧
      ∀ k p, k < 32 → priv[k]? = some p → ∃ t, s'.team? (32 * n + k) = some t ∧ t.privBase = p ∧ t.privLen = privBytes nd.ppw nd.lanes) ∧
    (∀ e, s.operandEntries l nd nd.dispatched nd.opn 0 = .error e → ∃ s' sh l', exec (.dispatch (some ln) node core priv) s = .next s' ∧
      s'.shop? n = some sh ∧ sh.phase = .failed ∧ Sparse.look s'.launches ln = some l' ∧ l'.failed = true ∧
      ∀ q ∈ s'.ready, ¬ (q.launch = some ln ∧ q.node = node))) ∧
  (∀ (s : State) (ln : Option Nat) (node core shop : Nat) (priv : List Nat) (r : Ready) (x : Shop), s.firstEntry ln node core = some r →
    s.mayDispatch r core = true → r.shop = some shop → s.shop? shop = some x →
    (s.restoreOk shop x = true → ∃ s' x', exec (.dispatch ln node core priv) s = .next s' ∧ s'.shop? shop = some x' ∧ x'.phase = .running ∧
      x'.core = core ∧ s'.ready = s.ready.erase r ∧ s'.mem = s.mem ∧
      (((s.savedRecords shop x).1.map Prod.fst).Nodup → ∀ n a, (n, a) ∈ (s.savedRecords shop x).1 → ∃ t', s'.team? n = some t' ∧ readBack s a t')) ∧
    (s.restoreOk shop x = false → ∃ s' x', exec (.dispatch ln node core priv) s = .next s' ∧ s'.shop? shop = some x' ∧
      (x.resident = false → x.launch = ln → ln ≠ none → x'.phase = .discarded))) ∧
  (∀ (s : State) (shop : Nat) (x : Shop) (r : RoleEntry), s.shop? shop = some x → x.phase = .staging → (∀ c ∈ s.cmds, ¬ isGafferCopy c shop) →
    x.roles[0]? = some r → x.lanes ≤ 1024 → x.nteams ≤ 32 → ∃ s' x', exec (.teamStart shop) s = .next s' ∧
      s'.shop? shop = some x' ∧ x' = { x with phase := .running } ∧ (∀ m, shopOf m ≠ shop → s'.team? m = s.team? m) ∧
      ∀ k, k < x.nteams → ∃ t, s'.team? (32 * shop + k) = some t ∧
        (∀ t0, s.team? (32 * shop + k) = some t0 → freshTeam s x k r t0.privBase t0.privLen t ∧
          (t0.privBase % 16 = 0 → t0.privLen % 16 = 0 → ∀ a, t0.privBase ≤ a → a < t0.privBase + t0.privLen → s'.mem.byte a = 0 ∧ s'.mem.tagAt a = false)))

/-- A shop whose teams have ended and whose operations are done issues its result copies, or fails its node where a result capability no longer
passes, or is released and its node counts the instance: with the last one the PREDS of its successors fall and those that reach 0 become ready; a launch
of which nothing is left writes its stamp and raises its vector; a failed shop is released. The gaffer pre-empts a starved shop, and saves it into its context area at the tail of
its class; a drained core's shop moves to a core with room, leaving a forwarding entry (R114, R127, R128, R131, R133, R192), and a shop whose core was ordered to drain meanwhile fits that core no more. The model's choices
in it: result capabilities are checked again when used (log entry 201), what a save waits for, and what it keeps (log entries 127, 129, 174), when a forwarding entry is made (log entry 130), a drained shop without a
place is pre-empted by this step (log entry 132), the boot shop's context area is taken at its pre-emption (log entry 173), time limits are
events (log entry 10). -/
def Obligations.EndOfInstancesAndPreemption : Prop :=
  (∀ (s : State) (shop : Nat) (x : Shop), s.shop? shop = some x → s.shopQuiet shop = true → s.launchStampReady x = true →
    let allEnded := ∀ n ∈ s.teamsOf shop, ∀ t, s.team? n = some t → t.ended = true
    let usable := ∀ r ∈ x.results, s.engineCheck x.band ⟨[kData, kLocal], true, pST, false, true⟩ r.1 0 0 (r.2.1.map fun m => (m.dst, m.len)) = .ok ()
    (x.phase = .running → allEnded → ¬ usable → ∃ s' x', exec (.instanceComplete shop) s = .next s' ∧ s'.shop? shop = some x' ∧ x'.phase = .failed ∧
      ∀ ln l, x.launch = some ln → Sparse.look s.launches ln = some l → ∃ l', Sparse.look s'.launches ln = some l' ∧ l'.failed = true) ∧
    (x.phase = .running → allEnded → x.results ≠ [] → usable → ∃ s' x', exec (.instanceComplete shop) s = .next s' ∧ s'.shop? shop = some x' ∧ x'.phase = .results ∧
      ∃ new, s'.cmds = s.cmds ++ new ∧ new.length = x.results.length ∧ ∀ c ∈ new, isGafferCopy c shop) ∧
    ((x.phase = .running ∧ allEnded ∧ x.results = []) ∨ x.phase = .results ∨ x.phase = .failed ∨ x.phase = .discarded →
      ∃ s', exec (.instanceComplete shop) s = .next s' ∧ s'.shop? shop = none ∧ (∀ n, shopOf n = shop → s'.team? n = none) ∧
        ((∀ l ∈ s.launches, l.2.stamp.kind = kData ∧ l.2.stamp.localAt l.2.stampOff < hbmTop) →
          (∀ n, shopOf n ≠ shop → s'.team? n = s.team? n) ∧ s'.cmds = s.cmds)) ∧
    (x.phase = .running → ¬ allEnded → exec (.instanceComplete shop) s = .fault .notEnabled) ∧
    (∀ ln l nd, (x.phase = .running ∧ allEnded ∧ x.results = []) ∨ x.phase = .results → x.launch = some ln → Sparse.look s.launches ln = some l →
      l.nodes[x.node]? = some nd → ∃ (s1 : State) (l1 : Launch), exec (.instanceComplete shop) s = .next (s1.endLaunch ln) ∧
        Sparse.look s1.launches ln = some l1 ∧ { l1 with nodes := l.nodes } = l ∧ s1.shop? shop = none ∧
        let counted (j : Nat) (m : Node) : Node := if j = x.node then { m with finished := m.finished + 1 } else m
        (nd.finished + 1 ≠ nd.inst → s1.ready = s.ready ∧ ∀ j m, l.nodes[j]? = some m → l1.nodes[j]? = some (counted j m)) ∧
        (nd.finished + 1 = nd.inst → (∀ j ∈ nd.succ, ∀ m, l.nodes[j]? = some m → m.nkind ≠ 3) →
          (∀ j m, l.nodes[j]? = some m → l1.nodes[j]? = some (lessPreds nd.succ j (counted j m))) ∧
          ∃ more : List Nat, s1.ready = s.ready ++ more.map (fun j => ⟨some ln, j, ((l.nodes[j]?).map Node.pclass).getD 0, none, false, false⟩) ∧ more.Nodup ∧
            ∀ j, j ∈ more ↔ comesReady l nd.succ j))) ∧
  (∀ (s : State) (ln : Nat) (l : Launch), Sparse.look s.launches ln = some l →
    let quiet : Prop := (∀ e ∈ s.shops, e.2.launch ≠ some ln) ∧ ∀ r ∈ s.ready, r.launch ≠ some ln
    ((l.done = true ∨ ¬ quiet) → s.endLaunch ln = s) ∧
    (l.done = false → quiet →
      let s1 := s.writePlain 0 l.band l.stamp l.stampOff (natBytes 8 (if l.failed then (2 ^ 56 - 1) * 2 ^ 8 + 11 else l.seq))
      let s2 : State := { s1 with launches := Sparse.insert s1.launches ln { l with done := true } }
      s.endLaunch ln = match l.vector with
        | some v => s2.interrupt l.fn v
        | none => s2)) ∧
  (∀ (s : State) (r : Ready) (shop : Nat) (x : Shop), r.shop = some shop → s.shop? shop = some x → r.away = true → s.entryFits r x.core = false) ∧
  (∀ (s : State) (shop : Nat) (x : Shop) (ctx : Nat), s.shop? shop = some x → x.phase = .running → s.liveTeams shop ≠ [] →
    (x.launch ≠ none → ctx = x.ctx) → (x.launch = none → s.ctxPlace shop s.bootLaunch (ctxBound x.ppw x.lanes x.nteams x.onV) = some ctx) →
    let ts := s.liveTeams shop
    (((s.ready ≠ [] ∧ ∀ t ∈ ts, t.inYieldWait = true) ∨
        (x.core ∈ s.draining ∧ (∀ t ∈ ts, t.atPoint = true) ∧ ∀ core, core < 288 → s.movesTo x core = false)) →
      exec (.starvationPreempt shop) s = .next (s.setShop shop { x with phase := .preempting, ctx := ctx })) ∧
    (s.ready = [] → x.core ∉ s.draining → exec (.starvationPreempt shop) s = .fault .notEnabled)) ∧
  (∀ (s : State) (shop base : Nat) (x : Shop) (ln : Nat) (l : Launch), s.shop? shop = some x → x.launch = some ln → Sparse.look s.launches ln = some l →
    x.phase = .preempting → s.poolBusy shop x = false → s.ctxFree shop x base = true →
    ∃ s' x', exec (.preemptSave shop base) s = .next s' ∧ s'.shop? shop = some x' ∧ x'.phase = .saved ∧ x'.ctx = base ∧
      s'.ready = s.ready ++ [⟨some ln, x.node, x.pclass, some shop, false, decide (x.core ∈ s.draining)⟩] ∧
      s'.mem.read base 24 = headerOf x l.seq ∧ (∀ a, a < base → s'.mem.byte a = s.mem.byte a) ∧
      (x.lanes % 4 = 0 → ∀ n t, shopOf n = shop → s.team? n = some t → writtenTo t s'.mem (base + s.ctxTeam x n))) ∧
  (∀ (s : State) (core : BitVec 16), ∃ s', exec (.drain core) s = .next s' ∧ s'.drain = core ∧
    { s' with drain := s.drain, draining := s.draining } = s ∧ (s.occupied core.toNat = true → core.toNat ∈ s'.draining) ∧
    (s.occupied core.toNat = false → s'.draining = s.draining)) ∧
  (∀ (s : State) (shop core : Nat) (x : Shop), s.shop? shop = some x → x.phase = .running → x.core ∈ s.draining →
    (∀ t ∈ s.liveTeams shop, t.atPoint = true) → s.movesTo x core = true → (s.forwards.filter fun f => f.die = dieOf x.core).length < 64 →
    ∃ s', exec (.shopMigrate shop core) s = .next s' ∧ s'.shop? shop = some { x with core := core } ∧ (∀ n, n ≠ shop → s'.shop? n = s.shop? n) ∧
      s'.teams = s.teams ∧ s'.forwards = (if s.poolOps shop x = [] then s.forwards else s.forwards ++ [⟨dieOf x.core, x.core, shop, s.poolOps shop x⟩]))

/-! ### Steps that complete engine commands (R168, R312, R313, R315, R318 to R321, R324, R325, R328, R338 to R345, R360 to R368, R376 to R381) -/

namespace Sys2Proof.Claims

open Sys2Proof.Machine

/-- Bytes [a, a + n) and [b, b + n) do not meet. -/
def apart (a b n : Nat) : Prop := a + n ≤ b ∨ b + n ≤ a

/-- A copy's error code is one of those that its ranges allow (R312). -/
def mayFail (s : State) (c : Cmd) (code : BitVec 8) : Prop := s.copyErrorAllowed c code.toNat = true

/-- The subscriptions to which a publication goes, as they stand (R339). -/
def receivers (s : State) (p : Pub) : List Nat := (p.subs.getD (s.subscribers p)).filter s.subLive

/-- A publication under way has no subscription `k` any more (R339). -/
def without (s : State) (k : Nat) : State :=
  { s with pubs := s.pubs.map fun p => { p with subs := p.subs.map fun ks => ks.filter fun j => j ≠ k } }

/-- The element of a block that lies in HBM from `a` on, number `n`, decoded with its scale (R26, R31 to R34). -/
def storedElem (m : Mem) (b : Cap) (f : ElemFmt) (n : Nat) : FVal :=
  let at_ (o : Nat) : Nat := (m.byte (localOf b.addr + o)).toNat
  let o := elemByte b f.width n
  let bits := if f.width < 8 then at_ o / 2 ^ (4 * (n % 2)) % 16 else at_ o
  if b.geo = 0 then f.decode bits else scaleBy (at_ (blockScaleByte f.width n)) (f.decode bits)

/-- A raw copy under an issuing band keeps the tag of the capability `v` (R56, R62, R63, R64). -/
def tagKept (s : State) (band : BitVec 8) (src dst v : Cap) (tags : Bool) : Prop :=
  tags = true ∧ src.has pLDC = true ∧ dst.has pSTC = true ∧ v.tag = true ∧ ¬ (v.kind = kLocal ∨ v.kind = kPrivate) ∧
    (band = 0 ∨ v.kind = kSealed ∨ v.band = dst.band) ∧ s.struck v = false

/-- An accumulator element truncated toward zero by 2^n (R47). -/
def cut (e : AccElem) (n : Nat) : AccElem :=
  { e with v := e.v.tdiv (2 ^ n : Nat), sticky := e.sticky || decide (e.v.tmod (2 ^ n : Nat) ≠ 0) }

/-- An element and a contribution, both truncated by 2^n, have a sum that fits in 96 bits. -/
def fitsAt (v t : Int) (n : Nat) : Prop :=
  -(2 ^ 95) ≤ v.tdiv (2 ^ n : Nat) + t.tdiv (2 ^ n : Nat) ∧ v.tdiv (2 ^ n : Nat) + t.tdiv (2 ^ n : Nat) < 2 ^ 95

/-- The tile `r` is `t` after the contribution `sum` × 2^`lam` to element `key` (R47): the exponent rises to `lam` where that is higher, and by
as many further units `n` as the sum needs to fit; every element is truncated with it. -/
def contributed (t r : Tile) (key : Nat) (sum lam : Int) : Prop :=
  let first := if t.empty then lam else t.lam
  let d := (lam - first).toNat
  let sh := lam - max first lam + 40
  let v := if 0 ≤ sh then sum * (2 ^ sh.toNat : Nat) else sum.tdiv (2 ^ (-sh).toNat : Nat)
  ∃ n, fitsAt (cut (t.at key) d).v v n ∧ (∀ m, m < n → ¬ fitsAt (cut (t.at key) d).v v m) ∧
    (let lost : Prop := (sh < 0 ∧ sum.tmod (2 ^ (-sh).toNat : Nat) ≠ 0) ∨ v.tmod (2 ^ n : Nat) ≠ 0
     let old := cut (t.at key) (d + n)
     r.lam = max first lam + n ∧ r.empty = false ∧ r.state = (if t.state = .clear then .opened else t.state) ∧
     (∀ k, k ≠ key → r.at k = cut (t.at k) (d + n)) ∧
     (r.at key).v = old.v + v.tdiv (2 ^ n : Nat) ∧ ((r.at key).sticky = true ↔ old.sticky = true ∨ lost) ∧ (r.at key).nan = old.nan ∧
     (r.window = true ↔ t.window = true ∨ lost ∨ ∃ k, (t.at k).v.tmod (2 ^ (d + n) : Nat) ≠ 0))

/-- h of R347. -/
def hash347 (seed n g : Nat) : BitVec 16 :=
  let h0 := BitVec.ofNat 16 seed ^^^ BitVec.ofNat 16 (n * 0x2545) ^^^ BitVec.ofNat 16 (g * 0x9E37)
  let h1 := (h0 ^^^ (h0 >>> 7)) * 0x5BD1#16
  h1 ^^^ (h1 >>> 9)

/-- The scale byte of a block of an epilogue whose elements have values (R50). -/
def scaleR50 (emax : Int) (vals : List FVal) (z : Nat) : Prop :=
  (FVal.nan ∈ vals ∧ z = 255) ∨ (FVal.nan ∉ vals ∧ (∀ v ∈ vals, v.expo = none) ∧ z = 127) ∨
    (FVal.nan ∉ vals ∧ ∃ e, (∃ v ∈ vals, v.expo = some e) ∧ (∀ v ∈ vals, ∀ k, v.expo = some k → k ≤ e) ∧
      (z : Int) = max (-127) (min 127 (e - emax)) + 127)

/-- The value of an element of a tile (R49). -/
def tileValue (t : Tile) (key : Nat) : FVal :=
  let e := t.at key
  if e.nan then .nan else if t.empty ∨ e.v = 0 then .fin ⟨false, 0, 0, false⟩ else .fin ⟨decide (e.v < 0), e.v.natAbs, t.lam - 40, e.sticky⟩

/-- What block-scaled storage with scale byte `z` holds of a value (R50): v / 2^t rounded once and saturated. -/
def scaledBits (f : ElemFmt) (rnd : Rnd) (draw z : Nat) (v : FVal) : Nat :=
  match v with
  | .fin x => f.encode rnd draw true (.fin { x with e := x.e - (z - 127 : Int) })
  | u => f.encode rnd draw true u

/-- rne32 (R363). -/
def rounded32 (v : FVal) : FVal := FloatFmt.b32.decode (FloatFmt.b32.encode .rne 0 false v)

/-- One step of the pseudocode of R363. -/
def addPart (r : Option FVal) (v : FVal) : Option FVal :=
  match r with
  | none => some v
  | some a => some (rounded32 (FVal.add .rne a v))

/-- part[λ] of R363, from each member's leaf and element. -/
def leafPart (ms : List (Nat × FVal)) (leaf : Nat) : Option FVal :=
  ms.foldl (fun r m => if m.1 = leaf then addPart r m.2 else r) none

/-- r of R363, over the leaves up to `top`. -/
def spineSum (ms : List (Nat × FVal)) (top : Nat) : Option FVal :=
  (List.range (top + 1)).foldl (fun r leaf => match leafPart ms leaf with
    | none => r
    | some p => addPart r p) none

end Sys2Proof.Claims

/-- COPY_COMPLETE writes the payload of the command whose turn it is and then its completion: a raw copy, a gather, an append, a copy
into several shops, a gateway message, a remote GO, a GO of a peer; an element of a gathered row is the block's element converted once (R318);
COPY_ERROR writes an unspecified part of it and the error completion, and a completion at a barrier changes its fields alone. A raw copy keeps a tag
exactly where R62 and R63 say so, and poison travels; the granules written before the completion are not written again
(R62, R63, R168, R170, R172, R186, R312, R313, R315, R318 to R321, R325, R328, R368). The model's choices in it: a command is performed in one event in the order of its queue
(log entry 86), what peers answer comes with the event (log entry 15), CPYM moves no tags (log entry 77), a held half of the host window keeps poison (log
entry 78), a failed copy's part is the event's (log entry 79), poisoned elements of a gather are an error (log entry 81), which core ERRLOG names (log entry 79). -/
def Obligations.CopyCommandsComplete : Prop :=
  (∀ (s : State) (shop : Nat) (band : BitVec 8) (src dst : Cap) (tags : Bool) (m : Move), src.kind = kData → dst.kind = kData →
    let a := src.localAt m.src
    let b := dst.localAt m.dst
    a + m.len ≤ hbmTop → b + m.len ≤ hbmTop → 0 < m.len → apart a b m.len →
    let s' := s.rawMoves shop band src dst tags [m] []
    (∀ j, j < m.len → s'.mem.byte (b + j) = s.mem.byte (a + j)) ∧ (∀ k, (k < b ∨ b + m.len ≤ k) → s'.mem.byte k = s.mem.byte k) ∧
    (∀ k, (k < b / 16 * 16 ∨ b + m.len ≤ k / 16 * 16) → s'.mem.tagAt k = s.mem.tagAt k) ∧
    (∀ j, j < m.len →
      let g := (b + j) / 16 * 16
      let whole : Prop := b ≤ g ∧ g + 16 ≤ b + m.len
      (s'.mem.tagAt (b + j) = true ↔ whole ∧ m.src % 16 = m.dst % 16 ∧ tagKept s band src dst (s.mem.readCap (g - b + a)) tags) ∧
      (s'.mem.poisoned (b + j) 1 = true ↔ (¬ whole ∧ s.mem.poisoned (b + j) 1 = true) ∨
        ∃ i, i < m.len ∧ (b + i) / 16 * 16 = g ∧ s.mem.poisoned (a + i) 1 = true)) ∧
    (∀ k, (k < b / 16 * 16 ∨ b + m.len ≤ k / 16 * 16) → s'.mem.poisoned k 1 = s.mem.poisoned k 1)) ∧
  (∀ (s whole : State) (wrote : List (Nat × Nat)), s.lessParts whole [] = whole ∧
    (∀ k, k < hbmTop → (s.lessParts whole wrote).mem.byte k = if (0, k / 16) ∈ wrote then s.mem.byte k else whole.mem.byte k) ∧
    ∀ n x y, s.shop? n = some x → whole.shop? n = some y → ∀ k,
      ((s.lessParts whole wrote).spad n).byte k = if (n + 2, k / 16) ∈ wrote then x.spad.byte k else y.spad.byte k) ∧
  (∀ (s whole : State) (c : Cmd) (all : List (Nat × Nat)) (bits : Nat) (k : Nat), k < hbmTop →
    let now := (chosen bits all.eraseDups).filter fun p => !c.wrote.contains p
    (s.writeParts whole c all bits).mem.byte k = (if (0, k / 16) ∈ now then whole.mem.byte k else s.mem.byte k) ∧
    ∀ d, s.cmd? c.id = some d → (s.writeParts whole c all bits).cmd? c.id = some { d with wrote := d.wrote ++ now }) ∧
  (∀ (s : State) (id : Nat) (ans : List Answer) (c : Cmd), s.turn? id = some c → s.reportReady c = true →
    (∀ src dst ms tags, c.body = .copy src dst ms tags → s.movesReady c.shop src dst ms ans = true →
      (c.team.isSome = true ∨ (∀ x, s.shop? c.shop = some x → x.phase = .results) ∨ s.movesPoison c.shop src ms ans = false) →
      exec (.copyComplete id ans) s = .next ((s.lessParts (s.rawMoves c.shop c.band src dst tags ms ans) c.wrote).endCmd c (moved ms) none)) ∧
    (∀ blocks first len dst doff drs out16 rnd sat rows, c.body = .gather blocks first len dst doff drs out16 rnd sat →
      s.answersOk ans = true → s.gatherRead c.shop first len blocks ans = some rows →
      exec (.copyComplete id ans) s =
        .next (((s.lessParts (s.gatherWrite c.shop c.band first len dst doff drs out16 (Rnd.ofCode rnd).noDraw sat 0 rows) c.wrote).markGather first len blocks).endCmd c (2 * len * blocks.length) none)) ∧
    (∀ blocks first len stream out16 rnd sat rows x, c.body = .publishRows blocks first len stream out16 rnd sat →
      s.answersOk ans = true → s.gatherRead c.shop first len blocks ans = some rows → s.shop? c.shop = some x →
      let tiles := gatherTiles (rows.map fun r => gatherRow r.2 r.1 first len out16 (Rnd.ofCode rnd).noDraw sat) len out16
      exec (.copyComplete id ans) s =
        .next { (s.markPerformed id).markGather first len blocks with pubs := s.pubs ++ [⟨id, c.shop, dieOf x.core, c.band, stream, Cap.null, [], tiles, none, []⟩] }) ∧
    (∀ blocks first len dst doff drs out16 rnd sat, c.body = .gather blocks first len dst doff drs out16 rnd sat → s.answersOk ans = false →
      exec (.copyComplete id ans) s = .fault .notEnabled) ∧
    (∀ src soff doff len coff cores, c.body = .multi src soff doff len coff cores →
      (∀ t ∈ s.multiTargets c.shop c.id cores, t.isSome = true) → ans.length = answersFor src soff len → s.answersOk ans = true →
      s.rowReserved c.shop src soff len = false → s.rowReady c.shop src soff len false = true →
      exec (.copyComplete id ans) s =
        .next ((((s.lessParts (s.multiWrite doff (s.readRow c.shop src soff len ans).1 (present (s.multiTargets c.shop c.id cores))) c.wrote).multiDone coff len
          (present (s.multiTargets c.shop c.id cores))).markSy src soff len).dropCmd c.id)) ∧
    (∀ src soff len domain device ring, c.body = .gateway src soff len domain device ring → ans.length = answersFor src soff len + 1 →
      s.answersOk ans = true → s.rowReserved c.shop src soff len = false → s.rowReady c.shop src soff len false = true →
      exec (.copyComplete id ans) s = .next ((({ s with
        out := .gateway id domain device c.band ring (s.readRow c.shop src soff len ans).1.data (s.readRow c.shop src soff len ans).1.poison :: s.out } : State).markSy src soff len).endCmd c len none)) ∧
    (∀ cap a, c.body = .remoteGo cap true → ans = [a] → s.portsOpen = true → a.timeout = false → a.step = 0 →
      exec (.copyComplete id ans) s = .next (s.endCmd c (bytesNat a.data) none)) ∧
    (∀ src dst ms tags dev seq, c.body = .ownerGo src dst ms tags dev seq → s.movesReady c.shop src dst ms ans = true →
      let s1 := s.lessParts (s.rawMoves c.shop c.band src dst tags ms ans) c.wrote
      exec (.copyComplete id ans) s = .next { s1.dropCmd c.id with
        out := .response dev seq (.plain (natBytes 8 (moved ms))) :: s1.out })) ∧
  (∀ (s : State) (id bits : Nat) (code : BitVec 8) (c : Cmd), s.turn? id = some c → s.reportReady c = true → mayFail s c code →
    (∀ src dst ms tags, c.body = .copy src dst ms tags → c.team.isSome = true → exec (.copyError id code bits) s =
      .next ((s.writeParts (s.rawPieces c.shop c.band src dst tags ms) c (movesParts c.shop dst ms) bits).endCmd c 0 (some code.toNat))) ∧
    (∀ src dst ms tags, c.body = .copy src dst ms tags → c.team = none → exec (.copyError id code bits) s =
      .next (((s.writeParts (s.rawPieces c.shop c.band src dst tags ms) c (movesParts c.shop dst ms) bits).dropCmd c.id).failNode c.shop
        { cause := 5, code := 0, fpc := 0, word := 0, lane := 0, faddr := 0, faux := code.toNat, user := 0, team := 0 })) ∧
    ((∃ cap sent, c.body = .remoteGo cap sent) ∨ (∃ src soff len domain device ring, c.body = .gateway src soff len domain device ring) →
      exec (.copyError id code bits) s = .next (s.endCmd c 0 (some code.toNat))) ∧
    (∀ blocks first len dst doff drs out16 rnd sat, c.body = .gather blocks first len dst doff drs out16 rnd sat → exec (.copyError id code bits) s =
      .next ((s.writeParts (s.gatherPieces c.shop c.band blocks first len dst doff drs out16 (Rnd.ofCode rnd).noDraw sat) c
        (movesParts c.shop dst (gatherMoves blocks.length len doff drs)) bits).endCmd c 0 (some code.toNat)))) ∧
  (∀ (s : State) (shop first len e : Nat) (b : Cap) (rs : List ((Nat × Nat) × Row)) (f : ElemFmt) (out16 : Bool) (rnd : Rnd) (sat : Bool),
    gatherFmt b = some f → b.kind = kData → localOf b.addr + b.len ≤ hbmTop → b.addr + b.len ≤ 2 ^ 57 →
    (∀ q ∈ elemRows b f.width first len, q.1 + q.2 ≤ b.len) → s.gatherRead shop first len [b] [] = some [(b, rs)] → e < len →
    ((gatherRow rs b first len out16 rnd sat).drop (2 * e)).take 2 =
      natBytes 2 ((if out16 then FloatFmt.b16 else FloatFmt.bf16).encode rnd 0 sat (storedElem s.mem b f (first + e)))) ∧
  (∀ (s : State) (c : Cmd) (n shop off : Nat) (x : Shop), c.done = .barrier shop off → s.shop? shop = some x → x.phase ≠ .saved →
    let w := bytesNat (x.spad.read off 16)
    (barClean w = true → s.report c n none = s.setShop shop (x.setBar off ((x.bar off).adjust (-(n : Int)))) ∧
      ∀ e, s.report c n (some e) = (s.setShop shop (x.setBar off { x.bar off with err := true })).logError c.shop e) ∧
    (∃ y, s.report c n none = s.setShop shop y ∧
      y.spad.read off 16 = natBytes 16 (((x.bar off).adjust (-(n : Int))).toNat + (w - (x.bar off).toNat))) ∧
    ∀ e, ∃ y, s.report c n (some e) = (s.setShop shop y).logError c.shop e ∧
      y.spad.read off 16 = natBytes 16 (({ x.bar off with err := true } : Bar).toNat + (w - (x.bar off).toNat))) ∧
  (∀ (s : State) (c : Cmd) (n off seq : Nat) (cap : Cap), c.done = .stamp cap off seq → cap.kind = kData → cap.localAt off + 8 ≤ hbmTop → seq < 2 ^ 64 →
    (s.report c n none).mem.read (cap.localAt off) 8 = natBytes 8 seq ∧
    ∀ e, (s.report c n (some e)).mem.read (cap.localAt off) 8 = natBytes 8 ((2 ^ 56 - 1) * 2 ^ 8 + e % 2 ^ 8))

/-- MATRIX_PERFORM performs a team's next matrix command: MLOADB loads its slot, MSUB and MUNSUB register and end subscriptions, MPUB
reaches the distributor, MMA and MMAS add their product or put the tile in ERROR, MEPI stores and drains, MCLR clears and MREL
releases; MEPI_COMPLETE ends a drain, and DISTRIBUTOR_DELIVERY hands a tile to the subscribers that have room (R338 to R345). A segment contributes
the sum of its products, where MMAS takes the kept positions of R347, and a contribution enters a tile as R47 says; an element that MEPI stores is R49's
value in the destination format, in block-scaled storage divided by the scale of R50; a failed MEPI leaves its batch in error (R348). The
model's choices in it: a NaN block's elements and the losses of B (log entries 18, 183), a contribution of zero (log entry 91), a tile outside P_A's range (log
entry 93), PITCH of a delivered tile (log entry 94), the end of subscriptions (log entry 95), a failed MSUB (log entry 97), an epilogue that meets poison
(log entry 98), a MEPI in DRAIN (log entry 99), when an MPUB leaves its queue (log entry 101), each replay's free choice (log entry 187). -/
def Obligations.MatrixCommandsPerform : Prop :=
  (∀ (s : State) (n : Nat) (c : Cmd) (x : Shop), s.matrixTurn n = some c → s.shop? c.shop = some x →
    let shop (f : Shop → Shop) : State := s.setShop c.shop (f x)
    let failed (s : State) : State := ((s.updTeam n fun t => { t with merr := if t.merr = 0 ∨ c.batch < t.merr.toNat then BitVec.ofNat 32 c.batch else t.merr })).dropCmd c.id
    (∀ slot cap d, c.body = .mloadb slot cap d → s.operandReady c.shop cap d = true → exec (.matrixPerform n) s =
      .next (((s.markSy cap d.off d.size).setShop c.shop { x with slots := Sparse.set Slot.empty x.slots slot (s.readOperand c.shop cap d).slot }).dropCmd c.id)) ∧
    (∀ i k w, c.body = .msub i k w →
      let used := ((List.range 8).map fun j => if (x.sub j).on then (x.sub j).window else 0).sum
      ((x.sub i).on = false → used + w ≤ 8 → exec (.matrixPerform n) s = .next ((shop fun y => y.setSub i ⟨true, BitVec.ofNat 6 k, w, [], false⟩).dropCmd c.id)) ∧
      (((x.sub i).on = true ∨ 8 < used + w) → exec (.matrixPerform n) s = .next ((s.updTeam n fun t => { t with mbad := true }).dropCmd c.id))) ∧
    (∀ i, c.body = .munsub i →
      ((x.sub i).on = false → exec (.matrixPerform n) s = .next (s.dropCmd c.id)) ∧
      ((x.sub i).on = true → (x.sub i).tiles = [] →
        exec (.matrixPerform n) s = .next ((without (shop fun y => y.setSub i Sub.off) (8 * c.shop + i)).dropCmd c.id)) ∧
      ((x.sub i).on = true → (x.sub i).tiles ≠ [] →
        exec (.matrixPerform n) s = .next ((shop fun y => y.setSub i { x.sub i with ending := true }).dropCmd c.id))) ∧
    (∀ k cap d count stride, c.body = .mpub k cap d count stride →
      let ds := (List.range count).map fun j => { d with off := d.off + j * stride }
      (∀ e ∈ ds, s.operandReady c.shop cap e = true) →
      exec (.matrixPerform n) s = .next { (s.markRows cap (ds.map fun e => (e.off, e.size))).markPerformed c.id with
        pubs := s.pubs ++ [⟨c.id, c.shop, dieOf x.core, c.band, k, cap, ds, ds.map fun e => s.tileNow c.shop cap e, none, []⟩] }) ∧
    (∀ t l cap d sparse, c.body = .mma t l cap d sparse →
      ((x.tile t).state = .error → exec (.matrixPerform n) s = .next (failed s)) ∧
      ((x.tile t).state ≠ .error → (x.tile t).state ≠ .drain → ∀ a, s.productA x c.shop cap d = some a →
        let b := x.slot l
        let sm := if d.srcs then s else s.markSy cap d.off d.size
        let good := ∃ p, a = some p ∧ productOk p d.margin b (if sparse then some d.pat else none) = true
        (∀ p, a = some p → good → exec (.matrixPerform n) s =
          .next ((sm.setShop c.shop (x.setTile t (product p d.margin b (if sparse then some (d.pat, d.seed) else none) (x.tile t)))).dropCmd c.id)) ∧
        (¬ good → exec (.matrixPerform n) s = .next (failed (sm.setShop c.shop (x.setTile t { Tile.cleared with state := .error })))))) ∧
    (∀ t keep cap off pitch rows cols rnd sat words, c.body = .mepi t keep cap off pitch rows cols rnd sat words →
      let bytes := x.epiBytes t cap off pitch rows cols rnd sat words
      ((x.tile t).state = .error → exec (.matrixPerform n) s = .next (failed s)) ∧
      ((x.tile t).state ≠ .error → (x.tile t).state ≠ .drain → s.epiReady c.shop cap bytes = true → s.epiBad c.shop cap bytes = false → (x.tile t).soiled rows cols = false →
        exec (.matrixPerform n) s = .next (((s.writeBytes c.shop c.band cap bytes).updShop c.shop fun y => y.setTile t { y.tile t with state := .drain }).markPerformed c.id)) ∧
      ((x.tile t).state ≠ .error → (x.tile t).state ≠ .drain → s.epiReady c.shop cap bytes = true →
        (s.epiBad c.shop cap bytes = true ∨ (x.tile t).soiled rows cols = true) → exec (.matrixPerform n) s =
          .next (failed ((s.freeAt c.shop c.band cap (bytes.map Prod.fst)).updShop c.shop fun y => y.setTile t { Tile.cleared with state := .error })))) ∧
    (∀ t, c.body = .mclr t → (x.tile t).state ≠ .drain → exec (.matrixPerform n) s = .next ((shop fun y => y.setTile t Tile.cleared).dropCmd c.id)) ∧
    (∀ i, c.body = .mrel i → ((x.sub i).on = false ∨ (x.sub i).tiles = [] → exec (.matrixPerform n) s = .next (failed s)) ∧
      (∀ t ts, (x.sub i).on = true → (x.sub i).tiles = t :: ts → 
        ((ts = [] ∧ (x.sub i).ending = true) → exec (.matrixPerform n) s =
          .next ((without (shop fun y => y.setSub i Sub.off) (8 * c.shop + i)).dropCmd c.id)) ∧
        (¬ (ts = [] ∧ (x.sub i).ending = true) → exec (.matrixPerform n) s =
          .next ((shop fun y => y.setSub i { x.sub i with tiles := ts }).dropCmd c.id))))) ∧
  (∀ (s : State) (n : Nat) (c : Cmd) (x : Shop) (t : Nat) (keep : Bool) (cap : Cap) (off pitch rows cols rnd : Nat) (sat : Bool) (words : Sparse Nat),
    s.draining? n = some c → s.shop? c.shop = some x → c.body = .mepi t keep cap off pitch rows cols rnd sat words →
    (¬ (cap.kind = kSealed ∧ s.portsOpen = false) → exec (.mepiComplete n true) s = .next ((s.setShop c.shop (x.setTile t (if keep then { x.tile t with state := if (x.tile t).empty then .clear else .opened }
      else Tile.cleared))).dropCmd c.id)) ∧
    ∃ s', exec (.mepiComplete n false) s = .next s' ∧ s'.cmd? c.id = none ∧ (∀ y, s'.shop? c.shop = some y → y.tile t = { Tile.cleared with state := .error }) ∧
      ((cap.kind = kSealed ∧ s.portsOpen = false) → exec (.mepiComplete n true) s = .next s') ∧
      ∀ u, s.team? n = some u → ∃ u', s'.team? n = some u' ∧
        u'.merr = if u.merr = 0 ∨ c.batch < u.merr.toNat then BitVec.ofNat 32 c.batch else u.merr) ∧
  (∀ (s : State) (id : Nat) (p : Pub) (c : Cmd), firstOfStream id s.pubs = some p → s.cmd? id = some c → s.reportReady c = true →
    (receivers s p = [] → exec (.distributorDelivery id) s = .next (s.endPub id)) ∧
    (∀ q t ts, receivers s p ≠ [] → q = (if p.owed = [] then { p with subs := some (receivers s p), owed := receivers s p } else p) → q.formed = t :: ts →
      let owed := q.owed.filter fun k => s.subLive k && (q.subs.getD []).contains k
      let takers := owed.filter s.subTakes
      let rest := owed.filter fun k => !s.subTakes k
      (takers ≠ [] ∨ owed = []) →
      ((rest = [] ∧ ts = []) → exec (.distributorDelivery id) s = .next ((s.deliver q t takers).endPub id)) ∧
      (¬ (rest = [] ∧ ts = []) → exec (.distributorDelivery id) s = .next { s.deliver q t takers with
        pubs := (s.deliver q t takers).pubs.map fun r => if r.cmd = id then
          (if rest = [] then { q with formed := ts, descs := q.descs.drop 1, owed := [] } else { q with owed := rest }) else r }))) ∧
  (∀ (s : State) (p : Pub) (t : Delivered) (ks : List Nat), s.deliver p t [] = s ∧ ∀ k, ∃ u, s.deliver p t (k :: ks) =
    ((({ s with fresh := s.fresh + 1 } : State).updShop (k / 8) fun x => x.setSub (k % 8) { x.sub (k % 8) with tiles := (x.sub (k % 8)).tiles ++ [u] }).deliver p t ks) ∧
      u.desc = t.desc ∧ u.fmt = t.fmt ∧ u.geo = t.geo ∧ u.data.length = t.data.length ∧
      ((p.descs = [] ∨ ∃ d, p.descs.head? = some d ∧ s.tileNow p.shop p.cap d = t) → u = t)) ∧
  (∀ (q : Int) (x : Exact), (alignElem q (.fin x)).1.neg = x.neg ∧
    (q ≤ x.e → alignElem q (.fin x) = (⟨x.neg, x.m * 2 ^ (x.e - q).toNat⟩, true)) ∧
    (x.e < q → alignElem q (.fin x) = (⟨x.neg, x.m / 2 ^ (q - x.e).toNat⟩, decide (x.m % 2 ^ (q - x.e).toNat = 0)))) ∧
  (∀ (a : Opnd) (pa : Nat) (b : Slot) (r n k0 len base : Nat) (row : Nat → Option Nat),
    let al := a.align pa (blockOf a.geo r k0)
    let j := slotBlock b.geo n base
    segment a pa b r n k0 len base row =
      (((List.range len).map fun i => match row (k0 + i) with
          | some q => (alignElem al.q (a.value r (k0 + i))).1.signed * (Sparse.get ⟨false, 0⟩ b.elems (512 * n + q)).signed
          | none => 0).sum,
        al.exp + Sparse.get 0 b.exps j, al.nan || Sparse.get false b.nans j)) ∧
  (∀ (seed n g : Nat), seed < 2 ^ 16 →
    let h := (hash347 seed n g).toNat
    [[0, 1], [0, 2], [0, 3], [1, 2], [1, 3], [2, 3]][h % 6]? = some (kept false seed n g) ∧
    ∃ all : List (List Nat), all.length = 70 ∧ all.Pairwise (· < ·) ∧ (∀ l ∈ all, l.length = 4 ∧ l.Pairwise (· < ·) ∧ ∀ x ∈ l, x < 8) ∧
      all[h % 70]? = some (kept true seed n g)) ∧
  (∀ (pat : Bool) (seed n g p : Nat),
    let size := if pat then 8 else 4
    p < size → (p ∉ kept pat seed n g → sparseRow pat seed n (size * g + p) = none) ∧
      ∀ i, (kept pat seed n g)[i]? = some p → sparseRow pat seed n (size * g + p) = some (size / 2 * g + i)) ∧
  (∀ (a : Opnd) (margin : Nat) (b : Slot) (pat : Bool) (seed : Nat) (t : Tile), a.ext = 1 → b.n = 1 → 1 ≤ a.k →
    a.k ≤ (if a.geo = 3 ∨ b.geo = 3 then 8 else 64) →
    let c := segment a (planes a.fmt margin) b 0 0 0 a.k 0 (sparseRow pat seed 0)
    product a margin b (some (pat, seed)) t = t.contribute 0 c.1 c.2.1 c.2.2) ∧
  (∀ (t : Tile) (key : Nat) (sum lam : Int) (nan : Bool), (t.elems.map Prod.fst).Pairwise (· < ·) →
    let opened : Tile := { t with state := if t.state = .clear then .opened else t.state }
    (nan = true → (t.contribute key sum lam nan).at key = { t.at key with nan := true } ∧ (∀ k, k ≠ key → (t.contribute key sum lam nan).at k = t.at k) ∧
      { t.contribute key sum lam nan with elems := t.elems } = opened) ∧
    (nan = false → sum = 0 → t.contribute key sum lam nan = opened) ∧
    (nan = false → sum ≠ 0 → sum.natAbs < 2 ^ 64 → -(2 ^ 95) ≤ (t.at key).v → (t.at key).v < 2 ^ 95 →
      contributed t (t.contribute key sum lam nan) key sum lam)) ∧
  (∀ (t : Tile) (cap : Cap) (pitch rows cols r j : Nat) (rnd : Rnd) (sat : Bool) (words : Sparse Nat) (f : ElemFmt), cap.geo = 0 →
    fmtElem cap.fmt = some f → r < rows → j < cols →
    ((r * pitch + j) * f.width, f.width, f.encode rnd (Sparse.get 0 words (256 * r + j)) sat (tileValue t (256 * r + j))) ∈
      t.epiStores cap pitch rows cols rnd sat words ∧ (t.epiStores cap pitch rows cols rnd sat words).length = rows * cols) ∧
  (∀ (t : Tile) (cap : Cap) (pitch rows cols r j : Nat) (rnd : Rnd) (sat : Bool) (words : Sparse Nat) (f : ElemFmt), (cap.geo = 1 ∨ cap.geo = 3) →
    fmtElem cap.fmt = some f → r < rows → j < cols →
    let num (a b : Nat) : Nat := opIndex cap.geo pitch a b
    let m := num r j
    let vals := (List.range rows).flatMap fun a => (List.range cols).filterMap fun b =>
      if num a b / 64 = m / 64 then some (tileValue t (256 * a + b)) else none
    let v := tileValue t (256 * r + j)
    ∃ z, scaleR50 f.emax vals z ∧ (8 * blockScaleByte f.width m, 8, z) ∈ t.epiStores cap pitch rows cols rnd sat words ∧
      (z = 255 → (blockElemBit f.width m, f.width, 0) ∈ t.epiStores cap pitch rows cols rnd sat words) ∧
      (z ≠ 255 → f.refusesSign v = false →
        (blockElemBit f.width m, f.width, scaledBits f rnd (Sparse.get 0 words (256 * r + j)) z v) ∈ t.epiStores cap pitch rows cols rnd sat words)) ∧
  ((ElemFmt.float (.binary8 4 true true)).emax = 7 ∧ (ElemFmt.float .e4m3).emax = 8 ∧ (ElemFmt.float .e2m1).emax = 2)

/-- GROUP_SETUP_COMPLETE makes a group LIVE with its id, or records a full table. MLRED_COMPLETE writes the reduction when every member
answers, or 0x85 with the ABSENT bits of its record, MSTM_COMPLETE the stores, at a member on this device as its port does; a group that is not LIVE
gives 0x86. A gateway message goes to the tail of
its ring or is refused; an element of MLRED's result is the sum of R363 over leaves and members, converted once. RESHARD_PLAN_START takes the next plan of a
die, the first that has reached its RSE, and RESHARD_BLOCK_COMPLETE goes on to the next record (R359, R360, R363 to R365, R368, R369, R378 to R380). The
model's choices in it: the record's members at the performance (log entry 104), the bytes of MSTM's completion (log entry 105), what a peer member holds
(log entry 106), the leaves of the members come with the event (log entry 107), a poisoned record and a refused group (log entry 108), the header of a
slot is free (log entry 111), a lost record ends its plan (log entry 115), the checks of a local record and stamp (log entry 117). -/
def Obligations.FabricCommandsComplete : Prop :=
  (∀ (s : State) (id : Nat) (c : Cmd) (g : Cap), s.turn? id = some c → c.body = .groupSetup g → s.rowReady c.shop g 0 1216 true = true → s.portsOpen = true →
    (∀ gid : BitVec 16,
      let s3 := ((s.groupWrite c.shop g 6 (natBytes 2 gid.toNat)).groupWrite c.shop g 64 (List.replicate 1152 0)).groupWrite c.shop g 2 [1]
      exec (.groupSetupComplete id (some gid)) s = .next (({ s3 with groups := s3.groups ++ [⟨g.localAt 0, gid⟩] } : State).endCmd c 0 none)) ∧
    exec (.groupSetupComplete id none) s = .next ((s.groupWrite c.shop g 2 [2]).endCmd c 0 none)) ∧
  (∀ (s : State) (id : Nat) (c : Cmd) (g dst : Cap) (soff doff len : Nat) (bf16 : Bool) (rnd : Nat) (sat : Bool), s.turn? id = some c →
    c.body = .mlred g dst soff doff len bf16 rnd sat → s.groupCanEnd c g = true →
    let out := if bf16 then len else 2 * len
    s.rowReady c.shop dst doff out true = true →
    (∀ code, s.groupRefused c g = some code → exec (.mlredComplete id []) s = .next (s.groupEnd c g [] code (decide (code = 0x86)) 0)) ∧
    (∀ ans : List (List Nat × Answer), s.groupRefused c g = none → ans.length = s.groupCount c.shop g →
      let ms := s.groupMembers c.shop g
      let all := s.readAnswers c.band soff len ms ans
      let as := all.map Prod.snd
      s.membersReady c.band soff len .groupLoad ms (ans.map Prod.snd) = true → (∀ a ∈ as, a.timeout = false → a.step = 0 → a.data.length = len) →
      ((∀ m ∈ ms, m.dev ≠ s.devId.toNat) → all = ans) ∧
      ((∀ a ∈ as, a.timeout = false ∧ a.step = 0 ∧ ∀ q ∈ a.poison, q = false) → s.rowReserved c.shop dst doff out = false →
        exec (.mlredComplete id ans) s = .next ((s.lessParts (s.writePlain c.shop c.band dst doff (reduceBytes all len bf16 (Rnd.ofCode rnd).noDraw sat))
          c.wrote).groupEnd c g as 0 true out)) ∧
      ((∀ a ∈ as, a.timeout = false ∧ a.step = 0) → (∃ a ∈ as, ∃ q ∈ a.poison, q = true) →
        exec (.mlredComplete id ans) s = .next (s.groupEnd c g as 0x80 false 0)) ∧
      ((∃ a ∈ as, a.timeout = true ∨ a.step ≠ 0) → exec (.mlredComplete id ans) s = .next (s.groupEnd c g as 0x85 true 0)))) ∧
  (∀ (ans : List (List Nat × Answer)) (len i top : Nat) (bf16 : Bool) (rnd : Rnd) (sat : Bool) (v : FVal), i < len / 2 →
    (∀ a ∈ ans, a.1.getD (2 * i / 128) 0 ≤ top) →
    spineSum (ans.map fun a => (a.1.getD (2 * i / 128) 0, FloatFmt.bf16.decode (bytesNat ((a.2.data.drop (2 * i)).take 2)))) top = some v →
    (bf16 = false → ((reduceBytes ans len bf16 rnd sat).drop (4 * i)).take 4 = natBytes 4 (FloatFmt.b32.encode .rne 0 false v)) ∧
    (bf16 = true → ((reduceBytes ans len bf16 rnd sat).drop (2 * i)).take 2 = natBytes 2 (FloatFmt.bf16.encode rnd 0 sat v))) ∧
  (∀ (s : State) (c : Cmd) (g : Cap) (ans : List Answer) (code bytes : Nat), c.done = .none → g.kind = kGroup → localOf g.addr + 1216 ≤ hbmTop →
    g.addr + 1216 ≤ 2 ^ 57 → code < 256 →
    (∀ rej : Bool, (s.groupEnd c g ans code rej bytes).mem.byte (localOf g.addr + 3) = BitVec.ofNat 8 code) ∧
    (∀ a i, (i, a) ∈ (absentOf ans).map (fun p => (p.2, p.1)) → a.timeout = false → (∀ b j, (j, b) ∈ (absentOf ans).map (fun p => (p.2, p.1)) →
      b.timeout = false → i ≤ j) → (s.groupEnd c g ans code true bytes).mem.byte (localOf g.addr + 4) = a.code) ∧
    ((∀ p ∈ absentOf ans, p.1.timeout = true) → (s.groupEnd c g ans code true bytes).mem.byte (localOf g.addr + 4) = 0) ∧
    (ans.length ≤ 9216 → ∀ rej i a, ans[i]? = some a → ((s.groupEnd c g ans code rej bytes).mem.byte (localOf g.addr + 64 + i / 8)).getLsbD (i % 8) =
      ((s.mem.byte (localOf g.addr + 64 + i / 8)).getLsbD (i % 8) || a.timeout || decide (a.step ≠ 0))) ∧
    (ans.length ≤ 9216 → ∀ rej i, ans.length ≤ i → i < 9216 → ((s.groupEnd c g ans code rej bytes).mem.byte (localOf g.addr + 64 + i / 8)).getLsbD (i % 8) =
      (s.mem.byte (localOf g.addr + 64 + i / 8)).getLsbD (i % 8))) ∧
  (∀ (s : State) (shop : Nat) (band : BitVec 8) (m : Cap) (a : Answer) (r : Row) (off n : Nat), s.isHere m = true → m.kind = kSealed → r.data.length = 128 * n →
    m.addr + off + 128 * n ≤ 2 ^ 57 → localOf (m.addr + off) + 128 * n ≤ hbmTop → off % 128 = 0 → off + 128 * n < 2 ^ 64 →
    (∀ f ∈ s.memberFlits band m off (128 * n) .groupStore r, s.portFails f = none) →
    let b := localOf (m.addr + off)
    let q := s.multicast shop band r off [(m, a)]
    q.2 = [.plain []] ∧ (∀ j, j < 128 * n → q.1.mem.byte (b + j) = r.data.getD j 0 ∧ q.1.mem.tagAt (b + j) = false) ∧
    (∀ g, g < 8 * n → (q.1.mem.poisoned (b + 16 * g) 16 = true ↔ ∃ j, j < 16 ∧ r.poison.getD (16 * g + j) false = true)) ∧
    (∀ k, (k < b ∨ b + 128 * n ≤ k) → q.1.mem.byte k = s.mem.byte k ∧ q.1.mem.tagAt k = s.mem.tagAt k)) ∧
  (∀ (s : State) (band : BitVec 8) (m : Cap) (off n : Nat), m.kind = kSealed → m.addr + off + 128 * n ≤ 2 ^ 57 → localOf (m.addr + off) + 128 * n ≤ hbmTop →
    off + 128 * n < 2 ^ 64 → (∀ f ∈ s.memberFlits band m off (128 * n) .groupLoad (Row.plain []), s.portFails f = none) →
    (s.memberRead band m off (128 * n)).step = 0 ∧ (s.memberRead band m off (128 * n)).data = s.mem.read (localOf (m.addr + off)) (128 * n)) ∧
  (∀ (s : State) (id : Nat) (c : Cmd) (g src : Cap) (soff doff len : Nat), s.turn? id = some c → c.body = .mstm g src soff doff len →
    s.groupCanEnd c g = true → s.rowReady c.shop src soff len false = true →
    (∀ code, s.groupRefused c g = some code → exec (.mstmComplete id []) s = .next (s.groupEnd c g [] code (decide (code = 0x86)) 0)) ∧
    (∀ ans : List Answer, s.groupRefused c g = none → s.rowReserved c.shop src soff len = false → ans.length = s.groupCount c.shop g →
      s.membersReady c.band doff len .groupStore (s.groupMembers c.shop g) ans = true →
      let r := (s.markSy src soff len).multicast c.shop c.band (s.readRow c.shop src soff len []).1 doff ((s.groupMembers c.shop g).zip ans)
      exec (.mstmComplete id ans) s = .next ((s.lessParts r.1 c.wrote).groupEnd c g r.2 (if absentOf r.2 = [] then 0 else 0x85) true (len * r.2.length)) ∧
      ((∀ m ∈ s.groupMembers c.shop g, m.dev ≠ s.devId.toNat) → r.2 = ans))) ∧
  (∀ (s : State) (m : GatewayMsg), s.portsOpen = true → 16 ≤ m.payload.length → m.payload.length ≤ 4096 → m.payload.length % 16 = 0 →
    let ack (s : State) (code : BitVec 8) : State := { s with out := .gatewayAck m.domain.toNat m.device.toNat code :: s.out }
    (s.ring? m.ring.toNat = none → exec (.gatewayMessage m) s = .next (ack s 0x87)) ∧
    (∀ base slots band, s.ring? m.ring.toNat = some (base, slots, band) →
      let tail := s.word64 base
      let slot := base + 128 + 4224 * (tail.toNat % slots)
      ((band ≠ m.band ∨ slots ≤ (tail - s.word64 (base + 8)).toNat) → exec (.gatewayMessage m) s = .next (ack s 0x87)) ∧
      (band = m.band → (tail - s.word64 (base + 8)).toNat < slots → ∃ s', exec (.gatewayMessage m) s = .next (ack s' 0) ∧
        s'.mem.read (slot + 16) m.payload.length = m.payload ∧ s'.mem.read base 8 = natBytes 8 (tail + 1).toNat ∧
        ∀ a, (a < base ∨ base + 8 ≤ a) → (a < slot ∨ slot + 16 + m.payload.length ≤ a) → s'.mem.byte a = s.mem.byte a))) ∧
  (∀ (s : State) (die : Nat) (c : Cmd) (p : PlanCmd), s.nextPlan die = some (c, p) → Sparse.look s.rse die = none → p.prog.kind ≠ kSealed →
    s.planWritable c p = true → s.rowReady c.shop p.src.devtab 0 p.src.devtab.len false = true → s.recordOk c p = true →
    (∃ before after, s.rseQueue = before ++ c.id :: after ∧ ∀ j ∈ before, ∀ e q, s.turn? j = some e → e.body = .reshard q → q.die ≠ die) ∧
    let row := (s.readRow c.shop p.prog p.progOff 32 []).1
    (row.poison.any id = true → ∃ s', exec (.reshardPlanStart die []) s = .next s' ∧ s'.mem = s.mem ∧ Sparse.look s'.rse die = none) ∧
    (row.poison.any id = false → row.num 20 1 = 1 →
      s.engineCheck c.band ⟨[kData, kLocal], true, pST, false, true⟩ p.stamp 3 0 [(p.stOff, 8)] = .ok () → exec (.reshardPlanStart die []) s = .next ((s.stampWrite c.shop c.band p.stamp p.stOff p.seq).dropCmd c.id)) ∧
    (row.poison.any id = false → row.num 20 1 ≠ 1 → row.num 0 8 < p.count → ∃ s' r, exec (.reshardPlanStart die []) s = .next s' ∧
      Sparse.look s'.rse die = some r ∧ r.cmd = c.id ∧ r.next = row.num 0 8 ∧ r.runs = (row.num 16 4 + 1) % 2 ^ 32 ∧ r.bytes = p.bytesBefore (row.num 0 8) ∧
      r.entries = (List.range p.src.devn).map (s.srcEntry c.shop p.src.devtab))) ∧
  (∀ (s : State) (die : Nat) (r : RsePlan) (c : Cmd) (p : PlanCmd) (ans : List Answer) (err : Option Nat) (s1 : State) (r1 : RsePlan) (how : PlanStop),
    Sparse.look s.rse die = some r → s.cmd? r.cmd = some c → c.body = .reshard p → p.prog.kind ≠ kSealed → s.planWritable c p = true →
    s.planRows c p err (p.fuel r.next) r ans = (s1, r1, [], how) → (err = none ∨ how = .stop 3 0x80 0) → (ans = [] ∨ s.portsOpen = true) →
    ∀ s2, s1.planStretch die c p r1 false how = some s2 →
    exec (.reshardBlockComplete die ans err) s = .next s2 ∧
    (∀ status code srcix, how = .stop status code srcix → Sparse.look s2.rse die = none) ∧
    (how = .block → r1.next + 1 < p.count → s1.recordOk c p = true → ∃ r2, Sparse.look s2.rse die = some r2 ∧ r2.next = r1.next + 1))

/-! ### The lehr and the fabric's ports (R67, R74 to R81, R149, R352 to R357, R384) -/

namespace Sys2Proof.Claims

open Sys2Proof.Machine

/-- Every granule of a memory holds a capability that stands in `R` to the one before, bytes and tag; poison is kept. -/
def granulesMapped (R : Cap → Cap → Prop) (m m' : Mem) : Prop :=
  m'.poison = m.poison ∧ ∀ g, R (m.readCap (16 * g)) (m'.readCap (16 * g))

/-- What an answer to a request holds, after its tagged granules went through `f` (R63, R77). -/
def answerMapped (f : Cap → Cap) (a a' : Answer) : Prop :=
  let at_ (b : Answer) (g : Nat) : Cap := Cap.ofNat (bytesNat ((b.data.drop (16 * g)).take 16)) (b.tags.getD g false)
  { a' with data := a.data, tags := a.tags } = a ∧ ∀ g, g < 8 → at_ a' g = if (at_ a g).tag then f (at_ a g) else at_ a g

/-- A command's capabilities went through `f`. -/
def bodyMapped (f : Cap → Cap) : CmdBody → CmdBody → Prop
  | .copy src dst ms tags, b => b = .copy (f src) (f dst) ms tags
  | .ownerGo src dst ms tags dev seq, b => b = .ownerGo (f src) (f dst) ms tags dev seq
  | .gather cs first len dst doff drs o r q, b => b = .gather (cs.map f) first len (f dst) doff drs o r q
  | .publishRows cs first len k o r q, b => b = .publishRows (cs.map f) first len k o r q
  | .multi src soff doff len coff cores, b => b = .multi (f src) soff doff len coff cores
  | .remoteGo cap sent, b => b = .remoteGo (f cap) sent
  | .groupSetup cap, b => b = .groupSetup (f cap)
  | .mlred grp dst soff doff len o r q, b => b = .mlred (f grp) (f dst) soff doff len o r q
  | .mstm grp src soff doff len, b => b = .mstm (f grp) (f src) soff doff len
  | .gateway src soff len domain device ring, b => b = .gateway (f src) soff len domain device ring
  | .reshard p, b => b = .reshard { p with src := { p.src with devtab := f p.src.devtab }, dst := { p.dst with devtab := f p.dst.devtab }, buf := f p.buf, prog := f p.prog, stamp := f p.stamp }
  | .mloadb slot cap d, b => b = .mloadb slot (f cap) d
  | .mpub k cap d n stride, b => b = .mpub k (f cap) d n stride
  | .mma tile slot cap d sparse, b => b = .mma tile slot (f cap) d sparse
  | .mepi tile keep cap off pitch rows cols rnd sat words, b => b = .mepi tile keep (f cap) off pitch rows cols rnd sat words
  | c, b => b = c

/-- Every capability in memory, registers and scratchpads, in the stores of a waiting word, and in what the gaffer, the loader, the engines and the
ports hold (R76 step 2, R384, R402) goes through one function that `R` describes; a plan's source that loses its tag is marked (R377); nothing else
changes. -/
def capsMapped (R : Cap → Cap → Prop) (s s' : State) : Prop := ∃ f : Cap → Cap, (∀ c, R c (f c)) ∧
  granulesMapped R s.mem s'.mem ∧ (∀ n, s.team? n = none → s'.team? n = none) ∧
  (∀ n t, s.team? n = some t → ∃ t', s'.team? n = some t' ∧ (∀ r, R (t.rdC r) (t'.rdC r)) ∧ (∀ l q, q < 64 → R (t.rdQuad l q) (t'.rdQuad l q)) ∧
    { t' with creg := t.creg, v := t.v, vtag := t.vtag, monitor := t.monitor, wait := t.wait } = t ∧
    ∀ i accs, t.wait = .access i accs → ∃ accs', t'.wait = .access i accs' ∧ accs'.length = accs.length ∧
      ∀ (j : Nat) (a : Access), accs[j]? = some a → ((∀ c, a.op ≠ .writePoison c) → (∀ c, a.op ≠ .writeCap c) → accs'[j]? = some a) ∧
        ∀ c, a.op = .writeCap c → ∃ c', R c c' ∧ accs'[j]? = some { a with op := .writeCap c' }) ∧
  (∀ n, s.shop? n = none → s'.shop? n = none) ∧
  (∀ n x, s.shop? n = some x → ∃ x', s'.shop? n = some x' ∧ granulesMapped R x.spad x'.spad ∧
    { x' with spad := x.spad } = { x with code := f x.code, arg := f x.arg, results := x.results.map fun r => (f r.1, r.2) }) ∧
  s'.launches = s.launches.map (fun e => (e.1, { e.2 with code := f e.2.code, arg := f e.2.arg, graph := f e.2.graph, stamp := f e.2.stamp })) ∧
  s'.spawns = s.spawns.map (fun p => { p with graph := f p.graph, arg := f p.arg, stamp := f p.stamp }) ∧
  s'.codes = s.codes.map (fun e => (e.1, { e.2 with cap := f e.2.cap })) ∧ s'.pubs = s.pubs.map (fun p => { p with cap := f p.cap }) ∧
  s'.rse = s.rse.map (fun e => (e.1, { e.2 with entries := e.2.entries.map fun d =>
    { d with buf := f d.buf, revoked := d.revoked || (d.buf.tag && !(f d.buf).tag) } })) ∧
  s'.cmds.length = s.cmds.length ∧ (∀ (j : Nat) (c : Cmd), s.cmds[j]? = some c → ∃ c', s'.cmds[j]? = some c' ∧ { c' with body := c.body, done := c.done } = c ∧
    bodyMapped f c.body c'.body ∧ ((∀ cap off seq, c.done ≠ .stamp cap off seq) → c'.done = c.done) ∧
    ∀ cap off seq, c.done = .stamp cap off seq → c'.done = .stamp (f cap) off seq) ∧
  s'.reqs.map Prod.fst = s.reqs.map Prod.fst ∧ (∀ k r, Sparse.look s.reqs k = some r → ∃ r', Sparse.look s'.reqs k = some r' ∧ { r' with answer := r.answer } = r ∧
    (r.answer = none → r'.answer = none) ∧
    ∀ a, r.answer = some a → a.data.length = 128 → a.tags.length = 8 → ∃ a', r'.answer = some a' ∧ answerMapped f a a') ∧
  { s' with mem := s.mem, teams := s.teams, shops := s.shops, launches := s.launches, spawns := s.spawns, codes := s.codes, pubs := s.pubs, rse := s.rse,
            cmds := s.cmds, reqs := s.reqs } = s

/-- The tag of every capability that `p` strikes is cleared; every other bit and tag is kept. -/
def allStruck (p : Cap → Bool) : State → State → Prop := capsMapped fun c c' => c' = { c with tag := c.tag && !p c }

/-- The checks of a port on a request in the order of R67, each with the step and the code of its failure; of the MMIO window band 0 and
whole registers alone are asked for (R136). -/
def portChecks (s : State) (f : Flit) : List (Prop × BitVec 4 × FaultCode) :=
  let c := Cap.ofNat f.cap.toNat f.capTag
  let at_ (j : Nat) : Nat := (f.off + BitVec.ofNat 64 j).toNat
  let mmio (r : Nat × Nat) : Prop := touchesMmio (c.localAt (at_ r.1)) r.2 = true
  [(f.src.toNat ∉ s.excluded, 1, .remoteAbsent), (c.tag = true, 2, .tag), (c.kind = kSealed, 3, .kind), (c.target = f.src.toNat, 4, .sealed),
    (f.band = 0 ∨ c.band = f.band, 5, .band), (c.inner ∈ flitKinds f.op, 6, .kind),
    (({ c with kind := c.inner } : Cap).has (flitPerm f.op) = true ∧ ((∃ r ∈ maskRuns f.mask, mmio r) → f.band = 0), 7, .perm),
    (∀ q ∈ s.quar, c.affected q.base q.top = false, 8, .quarantine), (∀ r ∈ maskRuns f.mask, at_ r.1 + r.2 ≤ c.len, 9, .bounds),
    (∀ r ∈ maskRuns f.mask, mmio r → (r.2 = 4 ∨ r.2 = 8) ∧ c.localAt (at_ r.1) % r.2 = 0, 9, .align),
    (flitWrites f.op = true → c.has pCW = false, 10, .cow)]

/-- A request passes every check. -/
def portOk (s : State) (f : Flit) : Prop := ∀ k ∈ portChecks s f, k.1

/-- The local address of byte `j` of a request's line, and whether all bytes that it names lie in HBM. -/
def flitByte (f : Flit) (j : Nat) : Nat := (Cap.ofNat f.cap.toNat f.capTag).localAt (f.off + BitVec.ofNat 64 j).toNat

/-- The capability in granule `g` of a request's payload. -/
def flitCap (f : Flit) (g : Nat) : Cap := Cap.ofNat (f.payload.toNat / 2 ^ (128 * g) % 2 ^ 128) true

/-- A request names every byte of granule `g` of its line. -/
def wholeGranule (f : Flit) (g : Nat) : Prop := ∀ k, k < 16 → f.mask.getLsbD (16 * g + k) = true

/-- A request is an SO or SY access of its lane: by its capability's ORD, or in the MMIO or the host window whatever ORD holds; a GO and a group's
requests are no accesses of a lane (R136, R154, R160, R325, R366). -/
def ofLaneOrder (f : Flit) : Prop :=
  let c := Cap.ofNat f.cap.toNat f.capTag
  (∀ b, f.op ≠ .go b) ∧ f.op ≠ .groupLoad ∧ f.op ≠ .groupStore ∧
    (c.ord = 2 ∨ c.ord = 3 ∨ ∃ r ∈ maskRuns f.mask,
      (mmioBase ≤ flitByte f r.1 ∧ flitByte f r.1 < mmioBase + 0x10000000) ∨ (hostBase ≤ flitByte f r.1 ∧ flitByte f r.1 < hostBase + 0x1000000000))

/-- All bytes that a request names lie in HBM. -/
def flitInHbm (f : Flit) : Prop := ∀ j, j < 128 → f.mask.getLsbD j = true → flitByte f j < hbmTop

end Sys2Proof.Claims

/-- LEHR_SWEEP clears every affected tag once the operations issued before the pass are done, and sends the remote passes; a pass with no peer
left completes and its entries leave the filter (R76), which then takes images that waited to be freed (R75, R384). A peer's acknowledgement or exclusion takes it off the pass (R79, R80); a remote pass
clears the tags of the owner's affected capabilities here and a full clearance all of the owner's, and a rejoin notice ends an exclusion (R79,
R81). The model's choices in it: a capability without bytes is not affected (log entry 41), which plans a pass waits for (log entry 43), what the
sweep reaches beside R76's list (log entry 44), a remote pass is received, swept and acknowledged in one step (log entry 45), an image waits for room in
the filter (log entry 139). -/
def Obligations.LehrPassesClearAffectedTags : Prop :=
  (∀ s : State, s.lehr = .waiting → (∀ c ∈ s.cmds, s.holdsPass c = false) → ∃ s1, allStruck (fun c => c.hitBy s.passRanges) s s1 ∧
    exec .lehrSweep s = .next { s1 with lehr := .remote s.passPeers
                                        out := (s.passPeers.map fun d => Output.lehr d s.passNow s.passRanges).reverse ++ s.out }) ∧
  (∀ (s : State) (c : Cmd), c ∈ s.cmds → c.before ≤ s.lehrDone → ((∃ src dst ms tags, c.body = .copy src dst ms tags) ∨
      (∃ t keep cap off pitch rows cols rnd sat words, c.body = .mepi t keep cap off pitch rows cols rnd sat words)) →
    exec .lehrSweep s = .fault .notEnabled) ∧
  (∀ (s : State) (d : Nat), d ∈ s.passPeers ↔ (d ∈ (s.expset.filter fun e => e.2).map Prod.fst ∧ d ∉ s.excluded)) ∧
  (∀ s : State, s.lehr = .remote [] →
    let rest := s.quar.filter fun q => q.pass ≠ s.lehrDone + 1
    let gone := (s.images.filter fun e => s.codes.all fun d => decide (d.2.image ≠ e.1)).take (32 - rest.length)
    ((∀ e ∈ s.images, ∃ d ∈ s.codes, d.2.image = e.1) →
      exec .lehrPassComplete s = .next { s with lehrDone := s.lehrDone + 1, quar := rest, lehr := if rest = [] then .idle else .waiting }) ∧
    ∃ (s' : State) (more : List QuarEntry), exec .lehrPassComplete s = .next s' ∧ s'.lehrDone = s.lehrDone + 1 ∧ s'.quar = rest ++ more ∧ more.length = gone.length ∧
      s'.codes = s.codes ∧ s'.mem = s.mem ∧ (∀ e, e ∈ s'.images ↔ e ∈ s.images ∧ ∀ d ∈ gone, d.1 ≠ e.1) ∧
      ∀ (k : Nat) (e : Nat × Image) (r : QuarEntry), gone[k]? = some e → more[k]? = some r → e.2.base + e.2.len ≤ hbmTop →
        r.band = 0 ∧ localOf r.base = e.2.base / 16 * 16 ∧ r.base + e.2.len ≤ r.top) ∧
  (∀ (s : State) (ps : List Nat) (d : BitVec 14), s.lehr = .remote ps → d.toNat ∈ ps → ps ≠ [] →
    (s.portsOpen = true → exec (.remotePassAck d) s = .next { s with lehr := .remote (ps.filter fun k => k ≠ d.toNat) }) ∧
    (exec .lehrPassComplete s = .fault .notEnabled) ∧
    ∃ ex, exec (.lehrRemoteTimeout d) s = .next { s with lehr := .remote (ps.filter fun k => k ≠ d.toNat), excluded := ex } ∧
      ∀ k, k ∈ ex ↔ (k ∈ s.excluded ∨ k = d.toNat)) ∧
  (∀ (s : State) (d : BitVec 14) (rs : List (Nat × Nat)), s.portsOpen = true → d ≠ s.devId → s.remoteRanges.length + rs.length ≤ 256 → s.remoteRanges = [] →
    ∃ s1, allStruck (fun c => decide (c.dev = d.toNat) && rs.any fun r => c.affected r.1 r.2) s s1 ∧
      exec (.remotePassReceive d rs) s = .next { s1 with out := .lehrAck d.toNat :: s.out }) ∧
  (∀ (s : State) (d : BitVec 14), s.portsOpen = true → d ≠ s.devId → ∃ s1, allStruck (fun c => decide (c.kind ≠ kLocal) && decide (c.dev = d.toNat)) s s1 ∧
    exec (.fullClearance d) s = .next { s1 with out := .rejoin d.toNat :: s.out }) ∧
  (∀ (s : State) (d : BitVec 14), s.portsOpen = true → exec (.rejoinNotice d) s = .next { s with
    excluded := s.excluded.filter fun k => k ≠ d.toNat, portSeen := s.portSeen.filter fun e => e.1 / 2 ^ 24 ≠ d.toNat })

/-- A port judges a request: it rejects one that fails a check of R67, with the step and the code of the first check that fails, and performs
an accepted load, store, atomic or GO in its lane's program order; a capability load returns, and a capability store leaves, the tag that R62 and R63 allow;
the verdict goes back with the request's SEQ (R62, R63, R67, R173, R354, R357). The model's choices in
it: PERM at step 7 and ALIGN at step 9 for the MMIO window (log entry 89). -/
def Obligations.PortsJudgeAndPerformRequests : Prop :=
  ∀ (s : State) (f : Flit), s.portsOpen = true → (Cap.ofNat f.cap.toNat f.capTag).dev = s.devId.toNat →
    let c := Cap.ofNat f.cap.toNat f.capTag
    let answered (s1 : State) (a : Answer) : State := { s1 with out := .response f.src.toNat (f.lane.toNat * 2 ^ 40 + f.seq.toNat) a :: s1.out, fresh := s1.fresh + 1 }
    let lane := f.src.toNat * 2 ^ 24 + f.lane.toNat
    let late : Prop := ofLaneOrder f ∧ f.seq.toNat < Sparse.get 0 s.portSeen lane
    let performed : State := if flitSo f = true then { s with portSeen := Sparse.set 0 s.portSeen lane (f.seq.toNat + 1) } else s
    (flitSo f = true ↔ ofLaneOrder f) ∧ (late → exec (.inboundRequest f) s = .fault .notEnabled) ∧
    (∀ (i : Nat) (ok : Prop) (step : BitVec 4) (code : FaultCode), ¬ late → (portChecks s f)[i]? = some (ok, step, code) → ¬ ok →
      (∀ (j : Nat) (k : Prop × BitVec 4 × FaultCode), j < i → (portChecks s f)[j]? = some k → k.1) →
      s.portFails f = some (step, code) ∧ ∃ pass, exec (.inboundRequest f) s = .next (answered s ⟨step, code.code, false, [], [], [], pass⟩) ∧
        (code ≠ .quarantine → pass = 0) ∧ (code = .quarantine → ∃ q ∈ s.quar, c.affected q.base q.top = true ∧ pass = q.pass)) ∧
    (portOk s f → ¬ late → flitInHbm f →
      (f.op = .load ∨ f.op = .loadCap ∨ f.op = .groupLoad → ∃ s1 a, exec (.inboundRequest f) s = .next (answered s1 a) ∧ a.step = 0 ∧ a.timeout = false ∧
        { s1 with updMode := s.updMode } = performed ∧ (c.isSy = false → s1 = performed) ∧
        (∀ j, j < 128 → f.mask.getLsbD j = true → a.data.getD j 0 = s.mem.byte (flitByte f j)) ∧
        (∀ g, g < 8 → (a.poison.getD g false = true ↔ ∃ j, j < 128 ∧ j / 16 = g ∧ f.mask.getLsbD j = true ∧ s.mem.poisoned (flitByte f j) 1 = true)) ∧
        (f.op ≠ .loadCap → ∀ t ∈ a.tags, t = false) ∧
        (f.op = .loadCap → ∀ g, g < 8 → wholeGranule f g → let v := s.mem.readCap (flitByte f (16 * g))
          (a.tags.getD g false = true ↔ c.has pLDC = true ∧ v.tag = true ∧ s.struck v = false))) ∧
      (f.op = .store ∨ f.op = .storeCap ∨ f.op = .groupStore → ∃ s1 a, exec (.inboundRequest f) s = .next (answered s1 a) ∧ a.step = 0 ∧ a.timeout = false ∧
        { s1 with mem := s.mem, live := s.live, updMode := s.updMode } = performed ∧
        (∀ j, j < 128 → f.mask.getLsbD j = true → s1.mem.byte (flitByte f j) = BitVec.ofNat 8 (f.payload.toNat / 2 ^ (8 * j))) ∧
        (∀ k, (∀ j, j < 128 → f.mask.getLsbD j = true → flitByte f j ≠ k) → s1.mem.byte k = s.mem.byte k) ∧
        (∀ k, (∀ j, j < 128 → f.mask.getLsbD j = true → flitByte f j / 16 ≠ k / 16) → s1.mem.tagAt k = s.mem.tagAt k) ∧
        (f.op ≠ .storeCap → ∀ j, j < 128 → f.mask.getLsbD j = true → s1.mem.tagAt (flitByte f j) = false) ∧
        (f.op = .storeCap → f.off.toNat % 16 = 0 → ∀ g, g < 8 →
          (wholeGranule f g → (s1.mem.tagAt (flitByte f (16 * g)) = true ↔ c.has pSTC = true ∧ f.tags.getLsbD g = true ∧ s.struck (flitCap f g) = false)) ∧
          (¬ wholeGranule f g → ∀ k, k < 16 → f.mask.getLsbD (16 * g + k) = true → s1.mem.tagAt (flitByte f (16 * g + k)) = false))) ∧
      (∀ (op : BitVec 4) (ty : BitVec 5) (x y : W64) (r : Nat × Nat), f.op = .atomic op ty x y → maskRuns f.mask = [r] →
        s.mem.poisoned (flitByte f r.1) r.2 = false →
        let q := performed.accessHome (flitByte f r.1) r.2 (.atomic op.toNat ty.toNat x.toNat y.toNat) c.isSy
        ∃ a, exec (.inboundRequest f) s = .next (answered q.1 a) ∧ a.step = 0 ∧ a.timeout = false ∧ a.poison = [] ∧
          (a.data.drop r.1).take q.2.data.length = q.2.data)) ∧
    (∀ b : Bool, portOk s f → ¬ late → f.op = .go b → s.rowReady 0 { c with kind := kCommand } 0 (min 128 c.len) false = true →
      let s1 := s.markSy { c with kind := kCommand } 0 (min 128 c.len)
      (∀ e, s.ownerGo f c b = .error e → exec (.inboundRequest f) s = .next (answered s1 ⟨0, 0x83, false, [], [], [], 0⟩)) ∧
      (∀ body, s.ownerGo f c b = .ok body → ∃ cmd, exec (.inboundRequest f) s = .next { s1 with nextId := s.nextId + 1, cmds := s.cmds ++ [cmd] } ∧
        cmd.id = s.nextId + 1 ∧ cmd.team = none ∧ cmd.band = f.band ∧ cmd.body = body ∧ cmd.done = .none))

/-- An answer from a peer goes to its request; the word of a team whose answers are all there completes, or faults at the word with what
the lowest lane met, and a request without an answer in time is REMOTE_ABSENT (R355 to R357); an engine's command ends with an error.
An affected capability loses its tag as it comes in (R63). A port counts its consecutive replays, goes down after 16 of them and comes up again (R352). The
model's choices in it: a step of a lane's own granule decides (log entry 33), the event says whether a flit has arrived between two replays (log entry 177), what a command that meets the timeout leaves (log
entry 88), a replay, a port down and its retraining are events (log entry 90). -/
def Obligations.AnswersAndPortEvents : Prop :=
  (∀ (s : State) (seq k : Nat) (ans : Answer) (r : Request), Sparse.look s.reqs k = some r → r.answer = none → s.portsOpen = true →
    r.flit.lane.toNat * 2 ^ 40 + r.flit.seq.toNat = seq → (∀ e ∈ s.reqs, e.2.flit.lane.toNat * 2 ^ 40 + e.2.flit.seq.toNat = seq → e.1 = k) →
    let heard (a : Answer) : State := { s with reqs := Sparse.insert s.reqs k { r with answer := some (s.atIngress a) } }
    let late : Answer := ⟨0, 0, true, [], [], [], 0⟩
    let now : Answer := { ans with timeout := false }
    (r.team = none → exec (.response seq ans) s = .next (heard now) ∧ exec (.fabricTimeout seq) s = .next (heard late)) ∧
    (∀ (n : Nat) (t : Team) (x : Shop) (i : Instr) (accs : List Access), r.team = some n → s.team? n = some t → s.shop? (shopOf n) = some x →
      t.wait = .access i accs → ∀ a, (a = now ∨ a = late) →
      let ev : Instr := if a = late then .fabricTimeout seq else .response seq ans
      let s1 := heard a
      let held : Prop := heldBack x.rev2 t.outStores i accs
      ((held ∨ ∃ b ∈ accs, s1.accessReady b = false) → exec ev s = .next s1) ∧
      (¬ held → (s.teams.map Prod.fst).Pairwise (· < ·) → (∀ b ∈ accs, s1.accessReady b = true ∧ b.op.mayWrite = false) → ∀ e, s1.returnFaults accs = some e →
        exec ev s = .next ((s1.dropReqs accs).takeFault n e (BitVec.ofNat 32 (encodeNat i)) (literalOf i))) ∧
      (¬ held → (∀ b ∈ accs, s1.accessReady b = true) → s1.returnFaults accs = none → readsFirst i accs = false → ∃ s2,
        s1.finishLast ⟨n, t, x⟩ i accs = .ok (s2, .next) ∧ exec ev s = .next (s2.settle n x.lanes i .next)))) ∧
  (∀ (s : State) (a : Access) (q : Nat) (r : Request) (ans : Answer), a.place = .remote q → Sparse.look s.reqs q = some r → r.answer = some ans →
    (ans.timeout = true → ∃ e, s.returnFault a = some e ∧ e.code = .remoteAbsent ∧ e.port = false ∧ e.step = 0 ∧ e.lane = a.lane) ∧
    (ans.timeout = false → ans.step ≠ 0 → ∃ e, s.returnFault a = some e ∧ e.port = true ∧ e.step = ans.step.toNat ∧ e.lane = a.lane ∧
      e.code = FaultCode.ofCode ans.code) ∧
    (∀ g ∈ granules (a.addr % 128) a.size, ans.timeout = false → ans.step = 0 → ans.poison.getD g false = true → a.op.reads = true →
      (∀ k ∈ granules (a.addr % 128) a.size, k < g → ans.poison.getD k false = false) → ∃ e, s.returnFault a = some e ∧
      e.code = .poison ∧ e.port = false ∧ e.lane = a.lane ∧ e.aux = a.addr / 128 * 128 + 16 * g) ∧
    (ans.timeout = false → ans.step = 0 → (a.op.reads = true → ∀ g ∈ granules (a.addr % 128) a.size, ans.poison.getD g false = false) →
      s.returnFault a = none)) ∧
  (∀ (s : State) (a : Answer), a.data.length = 128 → a.tags.length = 8 → { s.atIngress a with tags := a.tags } = a ∧ ∀ g, g < 8 →
    (s.atIngress a).tags.getD g false = (a.tags.getD g false && !s.struck (Cap.ofNat (bytesNat ((a.data.drop (16 * g)).take 16)) true))) ∧
  (∀ (s : State) (id : Nat), (∀ e ∈ s.reqs, e.2.flit.lane.toNat * 2 ^ 40 + e.2.flit.seq.toNat ≠ id) → ∃ bits,
    exec (.fabricTimeout id) s = exec (.copyError id 0x81 bits) { s with fresh := s.fresh + 1 }) ∧
  (∀ (s : State) (port : Nat) (fresh : Bool), port < 18 →
    (s.portdn.getLsbD port = false → s.devSet = true → exec (.flitReplay ⟨port, fresh⟩) s =
      .next { s with out := .replay port :: s.out, replays := Sparse.set 0 s.replays port (if fresh then 1 else Sparse.get 0 s.replays port + 1) }) ∧
    (s.portdn.getLsbD port = false → Sparse.get 0 s.replays port < 16 → exec (.portDown port) s = .fault .notEnabled) ∧
    (s.portdn.getLsbD port = false → 16 ≤ Sparse.get 0 s.replays port → ∃ p,
      exec (.portDown port) s = .next { s with portdn := p, replays := Sparse.set 0 s.replays port 0 } ∧
      ∀ j, p.getLsbD j = (s.portdn.getLsbD j || decide (j = port))) ∧
    (s.portdn.getLsbD port = true → ∃ p, exec (.portRetrain port) s = .next ({ s with portdn := p } : State).sendGos ∧
      ∀ j, p.getLsbD j = (s.portdn.getLsbD j && decide (j ≠ port))))

/-! ### The host, registers, reset, reliability and attestation (R13, R116, R153, R155, R156, R188, R383 to R385, R395 to R406) -/

namespace Sys2Proof.Claims

open Sys2Proof.Machine

/-- A host's access of `n` bytes at `off` of a root passes R65's checks. -/
def rootAllows (s : State) (fn : Nat) (perm : BitVec 12) (reads : Bool) (c : Cap) (off n : Nat) : Prop :=
  let band := (s.func fn).band
  c.tag = true ∧ c.kind = kData ∧ c.dev = s.devId.toNat ∧ (band = 0 ∨ c.band = band ∨ (c.band = 255 ∧ reads = true)) ∧ c.has perm = true ∧
    (touchesMmio (c.localAt off) n = true → band = 0) ∧ (∀ q ∈ s.quar, c.affected q.base q.top = false) ∧ off + n ≤ c.len

/-- The state with one function's registers replaced, in any list that holds them. -/
def funcNow (s s' : State) (fn : Nat) (f : Func) : Prop :=
  s'.func fn = f ∧ (∀ k, k ≠ fn → s'.func k = s.func k) ∧ { s' with funcs := s.funcs } = s

/-- The address in host memory of a half: its entry of HWIN holds bits [63..30] of the GiB that the half lies in (R154, R395). -/
def hostPlace (s : State) (half : Nat) : Nat :=
  (Sparse.get (0 : W64) s.hwin (half / 2 ^ 24)).toNat / 2 ^ 30 * 2 ^ 30 + 64 * (half % 2 ^ 24)

/-- The message that vector 0 of the physical function sends: the four words of its table entry (R394, R405). -/
def vectorZero (s : State) : Output := .msix 0 0 ((List.range 4).map fun k => Sparse.get 0 (s.func 0).msix k)

/-- No team waits for accesses. -/
def noneWaits (s : State) : Prop :=
  ∀ n t, s.team? n = some t → (∀ i accs, t.wait ≠ .access i accs) ∧ ∀ i accs p, t.wait ≠ .planRead i accs p

/-- A capability after DEVID was written (R402): the device field, and the target of a sealed one, go from 0 to the new id. -/
def rehomed (id : BitVec 14) (c c' : Cap) : Prop :=
  (c.tag = false → c' = c) ∧
  (c.tag = true → c'.dev = (if c.dev = 0 then id.toNat else c.dev) ∧ localOf c'.addr = localOf c.addr ∧ c'.inner = c.inner ∧
    (c.kind = kSealed → c'.target = if c.target = 0 then id.toNat else c.target) ∧ (c.kind ≠ kSealed → c'.aux = c.aux) ∧
    { c' with base := c.base, aux := c.aux } = c)

end Sys2Proof.Claims

/-- Snoops, fills and evictions move a half of a host-window line between I, S and M, and a dirty half that leaves M, each dirty half of an evicted line
too, is written back to its address in host memory (R154, R155); an error record that waits for its half is written then (R188). BAR2 reads and writes the bytes that APER exposes through a root, half by half, and otherwise sets
APERREF or POISONRD and answers ones (R156, R400). The model's choices: a fill that nothing asked for and the write-back of a clean owned half (log entry
137), APERREF for a refused root or the MMIO window and no CW for the host (138), and when the rest of a longer write follows (178). -/
def Obligations.HostLinesAndAperture : Prop :=
  (∀ (s : State) (half : Nat), ∃ s', exec (.hostSnoopInvalidate half) s = .next s' ∧ Sparse.look s'.halves half = none ∧
    (∀ k, k ≠ half → Sparse.look s'.halves k = Sparse.look s.halves k) ∧ { s' with halves := s.halves, out := s.out } = s ∧
    (∀ h, Sparse.look s.halves half = some h → h.dirty = true → s'.out = .writeback half (hostPlace s half) h.data h.poison :: s.out) ∧
    ((∀ h, Sparse.look s.halves half = some h → h.dirty = false) → s'.out = s.out)) ∧
  (∀ (s : State) (half : Nat), (∀ h, Sparse.look s.halves half = some h → h.state = .shared) → exec (.hostSnoopShare half) s = .next s) ∧
  (∀ (s : State) (half : Nat) (h : Half), Sparse.look s.halves half = some h → h.state = .owned → exec (.hostSnoopShare half) s =
    .next { s with halves := Sparse.insert s.halves half ⟨.shared, h.data, false, h.poison⟩, out := .writeback half (hostPlace s half) h.data h.poison :: s.out }) ∧
  (∀ (s : State) (half : Nat) (owned : Bool) (data : List Byte), half < 2 ^ 30 → (Sparse.get (0 : W64) s.hwin (half / 2 ^ 24)).getLsbD 0 = true →
    data.length = 64 →
    let arrives (h : Half) : State := { s with halves := Sparse.insert s.halves half h }
    let goesOn (h : Half) : Prop := exec (.hostLineFill half owned data) s = .next ((arrives h).flushRecords.resumeAll ((arrives h).flushRecords.teams.map Prod.fst)) ∧
      (noneWaits s → s.records = [] → exec (.hostLineFill half owned data) s = .next (arrives h))
    (Sparse.look s.halves half = none → goesOn ⟨if owned then .owned else .shared, data, false, 0⟩) ∧
    (∀ h, Sparse.look s.halves half = some h → h.state = .shared → owned = true → goesOn { h with state := .owned })) ∧
  (∀ (s : State) (line : Nat), 128 * line < hbmTop → ∃ u, exec (.l2Evict line) s = .next { s with updMode := u } ∧
    ∀ k, Sparse.get false u k = (Sparse.get false s.updMode k && decide (k ≠ line))) ∧
  (∀ (s : State) (line off : Nat), s.region (128 * line) = .host off → ∃ s', exec (.l2Evict line) s = .next s' ∧
    { s' with halves := s.halves, out := s.out } = s ∧
    (∀ k, Sparse.look s'.halves k = if k = off / 64 ∨ k = off / 64 + 1 then none else Sparse.look s.halves k) ∧
    let back (k : Nat) : List Output := match Sparse.look s.halves k with
      | some h => if h.dirty then [.writeback k (hostPlace s k) h.data h.poison] else []
      | none => []
    s'.out = back (off / 64 + 1) ++ back (off / 64) ++ s.out) ∧
  (∀ (s : State) (fn q bits : Nat), s.records = [(fn, q, bits)] →
    (s.recordReady fn q = true → s.flushRecords = ({ s with records := [] } : State).putErrorRecord fn q bits) ∧
    (s.recordReady fn q = false → s.flushRecords = s)) ∧
  (∀ (s : State) (fn n : Nat) (off : BitVec 32) (data : List Byte), fn < 64 → data.length = n → 0 < n → off.toNat + n ≤ 2 ^ 32 →
    let aper := (s.func fn).aper.toNat
    let c := s.root fn (aper / 2 ^ 32)
    let o := aper % 2 ^ 32 * 2 ^ 32 + off.toNat
    let a := c.localAt o
    let flagged (bit : BitVec 2) (s' : State) : Prop := funcNow s s' fn { s.func fn with fstat := (s.func fn).fstat ||| bit }
    let inMmio : Bool := touchesMmio a n
    let answer (s : State) (d : List Byte) : State := { s with out := .bar2 fn off.toNat d :: s.out }
    let first := min n (64 - a % 64)
    let written (s' : State) : Prop := s'.mem.read a first = data.take first ∧
      (∀ k, (k < a ∨ a + first ≤ k) → s'.mem.byte k = s.mem.byte k) ∧ (∀ j, j < first → s'.mem.tagAt (a + j) = false) ∧
      { s' with mem := s.mem, live := s.live, agenda := s.agenda, fresh := s.fresh } = s
    (rootAllows s fn pST false c o n → inMmio = false → a + n ≤ hbmTop → ∃ s', exec (.hostBar2Write fn off data) s = .next s' ∧ written s' ∧
      (n = first → s'.agenda = s.agenda) ∧
      (first < n → ∃ k, s'.agenda = s.agenda.take k ++ .hostRest fn (off + BitVec.ofNat 32 first) (data.drop first) :: s.agenda.drop k ∧
        ∀ t ∈ s.agenda.take k, hostOrdered t = false)) ∧
    (∀ rest, s.agenda = .hostRest fn off data :: rest → step s = exec (.hostBar2Write fn off data) { s with agenda := rest, cur := none }) ∧
    (¬ rootAllows s fn pST false c o n ∨ inMmio = true → ∃ s', exec (.hostBar2Write fn off data) s = .next s' ∧ flagged 1 s') ∧
    (rootAllows s fn pLD true c o n → inMmio = false → a + n ≤ hbmTop → s.mem.poisoned a n = false →
      exec (.hostBar2Read fn off n) s = .next (answer s (s.mem.read a n))) ∧
    (rootAllows s fn pLD true c o n → inMmio = false → a + n ≤ hbmTop → s.mem.poisoned a n = true →
      ∃ s', exec (.hostBar2Read fn off n) s = .next (answer s' (List.replicate n 0xFF)) ∧ flagged 2 s') ∧
    (¬ rootAllows s fn pLD true c o n ∨ inMmio = true →
      ∃ s', exec (.hostBar2Read fn off n) s = .next (answer s' (List.replicate n 0xFF)) ∧ flagged 1 s'))

namespace Sys2Proof.Claims

open Sys2Proof.Machine

/-- The high half of a Farant word of its fields (R387). -/
def farHigh (dx ax bx ty rnd sat ftz ginv guard scope : Nat) : Nat :=
  dx * 2 ^ 28 + ax * 2 ^ 24 + bx * 2 ^ 20 + ty * 2 ^ 15 + rnd * 2 ^ 12 + sat * 2 ^ 11 + ftz * 2 ^ 10 + ginv * 2 ^ 9 + guard * 2 ^ 6 + scope

/-- What the translator makes of the Farant word FADD fd, fa, fb of a TYPE of one register: SETML when the tracked MODE is not what the word's
fields require, and the word over the native registers; around it, for a spilled fd, a reload and a store-back under MODE 0 (R387 to R391). -/
def addTranslated (v : FarEnv) (m : Option Nat) : Prop :=
  ∀ (off d a b dx ax bx ty rnd sat ftz ginv guard scope ra rb : Nat), d < 256 → a < 256 → b < 256 → dx < 16 → ax < 16 → bx < 16 → ty < 32 →
    ty ∉ [2, 3, 9, 13] → rnd < 8 → sat < 2 → ftz < 2 → ginv < 2 → guard < 8 → scope < 64 →
    v.place.native (256 * ax + a) = some ra → v.place.native (256 * bx + b) = some rb →
    let w : FarWord := ⟨off, mkWord 0x51 d a b, farHigh dx ax bx ty rnd sat ftz ginv guard scope, none⟩
    let mode := scope * 2 ^ 23 + sat * 2 ^ 19 + ftz * 2 ^ 18 + rnd * 2 ^ 15 + ty * 2 ^ 10 + ginv * 2 ^ 4 + guard
    let setml (x : Nat) : NatWord := ⟨mkWord 0xD2 0 0 0, some x, .none⟩
    let add (rd : Nat) : NatWord := ⟨mkWord 0x51 rd ra rb, none, .none⟩
    let f := 256 * dx + d
    let word := 8 * v.priv + (v.place.spilled.filter fun u => decide (u < f)).length
    let spill (op : Nat) : List NatWord :=
      [⟨mkWord 0xD0 (v.allot - 1) 0 0, some (4 * word), .none⟩, ⟨mkWord op (v.allot - 4) 0x1F (v.allot - 1), none, .none⟩]
    let again (x : Nat) : List NatWord := if mode = 0 then [] else [setml x]
    (∀ rd, v.place.native f = some rd → (({ out := [], mode := m } : Emit).word v w).out = (if m = some mode then [] else [setml mode]) ++ [add rd]) ∧
    (v.place.native f = none → (({ out := [], mode := m } : Emit).word v w).out =
      (if m = some 0 then [] else [setml 0]) ++ spill 0x90 ++ again mode ++ [add (v.allot - 4)] ++ again 0 ++ spill 0x94)

end Sys2Proof.Claims

/-- QCTL turns a queue on only when its registers, ring and record pass their checks, and RESET empties it; INSTCMD starts an installation
whose object lies in root 0, or clears a slot; the loader answers a request with its status and installs the image (R383 to R385, R399). A
translated copy begins with its prologue, and a vector word of it is preceded by the SETML and surrounded by the spill code that it needs (R387 to R391). The
model's choices: the status after CLEAR and the filter's room for it (log entry 139), ORD of an image's capability (140), SHAKE256 as FIPS 202's, 64
bytes (141), sections of one name (151), the lowest status when several hold (152), an image's place (153), and FULL when no place is offered (154). -/
def Obligations.QueueControlAndInstallation : Prop :=
  (∀ (s : State) (fn q : Nat), fn < 64 → q < 16 →
    let f := s.func fn
    let qu := f.queue q
    let ok : Prop := (∃ k, k < 16 ∧ qu.size.toNat = 2 ^ k) ∧ qu.ring.toNat % 64 = 0 ∧ qu.err.toNat % 64 = 0 ∧
      rootAllows s fn pLD true (s.root fn 0) qu.ring.toNat (64 * qu.size.toNat) ∧ rootAllows s fn pST false (s.root fn 0) qu.err.toNat 64
    (qu.enable = false → ok → exec (.qctlEnable fn q) s = .next (s.updFunc fn fun g => g.setQueue q { qu with enable := true })) ∧
    (qu.enable = true ∨ ¬ ok → exec (.qctlEnable fn q) s = .next s) ∧
    exec (.qctlReset fn q) s = .next (s.updFunc fn fun g => g.setQueue q { qu with tail := qu.head, stopped := false, posted := [] })) ∧
  (∀ (s : State) (fn : Nat) (g : BitVec 13) (ix : BitVec 8), fn < 64 →
    let f := s.func fn
    let cmd : W64 := BitVec.ofNat 64 (2 ^ 63 + g.toNat * 2 ^ 8 + ix.toNat)
    let ok : Prop := rootAllows s fn pLD true (s.root fn 0) f.instOff.toNat f.instLen.toNat
    let slot := f.band.toNat * 256 + ix.toNat
    (f.instBusy = true → exec (.instcmdGo fn g ix) s = .next s ∧ exec (.instcmdClear fn ix) s = .next s) ∧
    (f.instBusy = false → ok → ∃ s', exec (.instcmdGo fn g ix) s = .next s' ∧ funcNow s s' fn { f with instCmd := cmd, instBusy := true }) ∧
    (f.instBusy = false → ¬ ok → ∃ s', exec (.instcmdGo fn g ix) s = .next s' ∧ funcNow s s' fn { f with instCmd := cmd, instStatus := 1 }) ∧
    (f.instBusy = false → Sparse.look s.codes slot = none → ∃ s', exec (.instcmdClear fn ix) s = .next s' ∧
      Sparse.look s'.codes slot = none ∧ s'.images = s.images ∧ s'.quar = s.quar ∧ s'.mem = s.mem) ∧
    (f.instBusy = false → ∀ e, Sparse.look s.codes slot = some e → 32 ≤ s.quar.length → ∃ s', exec (.instcmdClear fn ix) s = .next s' ∧
      Sparse.look s'.codes slot = none ∧ (∀ k, k ≠ slot → Sparse.look s'.codes k = Sparse.look s.codes k) ∧ s'.images = s.images ∧ s'.quar = s.quar) ∧
    (f.instBusy = false → ∀ e, Sparse.look s.codes slot = some e → s.quar.length < 32 → ∃ s', exec (.instcmdClear fn ix) s = .next s' ∧
      Sparse.look s'.codes slot = none ∧ (∀ k, k ≠ slot → Sparse.look s'.codes k = Sparse.look s.codes k) ∧ s'.mem = s.mem ∧
      ((∃ d ∈ s.codes, d.1 ≠ slot ∧ d.2.image = e.image) → s'.images = s.images ∧ s'.quar = s.quar) ∧
      ((∀ d ∈ s.codes, d.1 ≠ slot → d.2.image ≠ e.image) → ∀ m, Sparse.look s.images e.image = some m → m.base + m.len ≤ hbmTop →
        Sparse.look s'.images e.image = none ∧ ∃ r, s'.quar = s.quar ++ [r] ∧ localOf r.base = m.base / 16 * 16 ∧ r.base + m.len ≤ r.top))) ∧
  (∀ (s : State) (fn : Nat) (place : Option Nat), (s.func fn).instBusy = true →
    let f := s.func fn
    let root := s.root fn 0
    let row := (s.readRow 0 root f.instOff.toNat f.instLen.toNat []).1
    let g := f.instCmd.toNat / 2 ^ 8 % 2 ^ 13
    let slot := f.band.toNat * 256 + f.instCmd.toNat % 256
    let ends (s' : State) (status : Nat) : State := s'.updFunc fn fun f => { f with instBusy := false, instStatus := BitVec.ofNat 8 status }
    s.rowReady 0 root f.instOff.toNat f.instLen.toNat false = true →
    (row.poison.any id = true → exec (.installComplete fn place) s = .next (ends s 1)) ∧
    (row.poison.any id = false → ∀ code, buildObject row.data g = .error code → exec (.installComplete fn place) s = .next (ends s code)) ∧
    (row.poison.any id = false → ∀ b, buildObject row.data g = .ok b →
      ((Sparse.look s.codes slot).isSome = true → exec (.installComplete fn place) s = .next (ends s 5)) ∧
      (Sparse.look s.codes slot = none → (∀ e ∈ s.images, ¬ (e.2.key = shake256 64 row.data ∧ e.2.g = g)) →
        (place = none → exec (.installComplete fn place) s = .next (ends s 6)) ∧
        (∀ p, place = some p → p % 16 = 0 → p + plenUp b.image.length ≤ hbmTop →
          (∀ e ∈ s.images, p + plenUp b.image.length ≤ e.2.base ∨ e.2.base + plenUp e.2.len ≤ p) → ∃ s' e k m,
          exec (.installComplete fn place) s = .next (ends s' 0) ∧ Sparse.look s'.codes slot = some e ∧ e.image = k ∧ e.note = b.note ∧
          e.cap.tag = true ∧ e.cap.kind = kCode ∧ e.cap.band = 255 ∧ e.cap.perm = pLD ||| pEX ∧ Sparse.look s'.images k = some m ∧ m.base = p ∧
          m.len = b.image.length ∧ m.vis.getLsbD fn = decide (fn < 64) ∧ s'.mem.read p b.image.length = b.image)) ∧
      (∀ k m, Sparse.look s.codes slot = none → s.cachedImage (shake256 64 row.data) g = some (k, m) → ∃ s' e,
        exec (.installComplete fn place) s = .next (ends s' 0) ∧ Sparse.look s'.codes slot = some e ∧ e.image = k ∧ s'.mem = s.mem))) ∧
  (∀ (v : FarEnv) (m : Option Nat), addTranslated v m) ∧
  (∀ (ws : List FarWord) (size allot priv g span : Nat) (handler : Option Nat) (c : FarCopy),
    translateOne ws size allot priv g span 0 handler = .ok c → c.code.take 24 =
      natBytes 4 (mkWord 0xAD 31 1 0) ++ natBytes 4 (mkWord 0xD1 63 0 0) ++ natBytes 4 (32 * priv * g) ++ natBytes 4 (mkWord 0xA4 1 31 62) ++
        natBytes 4 (mkWord 0xD1 63 0 0) ++ natBytes 4 0)

/-- The register writes of R394 to R399 and R402 change the register that they name and nothing else; read-only registers ignore them.
DEVID is written once, before the first function is enabled, and moves every capability to the new device. The model's choices: a
register acts when its low half is written (log entry 48), FBAND ignores 255 (49), the places of RINGCTL and RINGBASE (50), which capabilities DEVID
moves (51), the table behind BAR4 as words (144), and INSTCMD with GO and CLEAR both or neither (179). -/
def Obligations.RegisterWrites : Prop :=
  (∀ (s : State) (id : BitVec 14), s.devSet = false → s.everEnabled = false → ∃ s1, capsMapped (rehomed id) s s1 ∧
    exec (.devid id) s = .next { s1 with devId := id, devSet := true }) ∧
  (∀ (s : State) (id : BitVec 14), s.devSet = true ∨ s.everEnabled = true → exec (.devid id) s = .next s) ∧
  (∀ (s : State) (fn : Nat) (b : BitVec 8), fn < 64 →
    let ignored : Prop := b = 255 ∨ (∃ e ∈ s.launches, e.2.fn = fn ∧ e.2.done = false) ∨ (b ≠ 0 ∧ ∃ e ∈ s.funcs, e.1 ≠ fn ∧ e.2.band = b) ∨
      (b ≠ 0 ∧ ∃ code, s.boot = .failed code)
    (ignored → exec (.fband fn b) s = .next s) ∧
    (¬ ignored → ∃ s', exec (.fband fn b) s = .next s' ∧ funcNow s { s' with everEnabled := s.everEnabled } fn { s.func fn with band := b } ∧
      s'.everEnabled = (s.everEnabled || decide (b ≠ 0)))) ∧
  (∀ (s : State) (w : Nat) (clear : W64), w < 256 → ∃ e, exec (.expset w clear) s = .next { s with expset := e } ∧
    ∀ d, Sparse.get false e d = (Sparse.get false s.expset d && !(decide (d / 64 = w) && clear.getLsbD (d % 64)))) ∧
  (∀ (s : State) (v : W64),
    let writes (off : Nat) (s' : State) : Prop := exec (.registerWrite (.mmio off) v) s = .next s'
    writes 0x10 { s with starve := v.setWidth 16 } ∧ writes 0x18 { s with fabto := v.setWidth 16 } ∧ writes 0x20 { s with lehrto := v.setWidth 16 } ∧
    writes 0x28 { s with disten := v.setWidth 2 } ∧ (∀ off, off = 0x08 ∨ off = 0x30 ∨ off = 0x38 → writes off s) ∧
    (v = 0 → writes 0x48 { s with errlog := 0 }) ∧ (v ≠ 0 → writes 0x48 s) ∧ (v.setWidth 32 = 0#32 → writes 0x50 { s with cecnt := 0 }) ∧
    (1200 ≤ v.toNat % 2 ^ 12 → v.toNat % 2 ^ 12 ≤ 2600 → writes 0x58 { s with pwrlim := v.setWidth 12 }) ∧
    (¬ (1200 ≤ v.toNat % 2 ^ 12 ∧ v.toNat % 2 ^ 12 ≤ 2600) → writes 0x58 s) ∧
    (∀ i, i < 64 → ∃ h x, writes (0x2000 + 8 * i) { s with hwin := h } ∧
      (∀ k, Sparse.get 0 h k = if k = i then x else Sparse.get 0 s.hwin k) ∧ x.getLsbD 0 = v.getLsbD 0 ∧ x.extractLsb' 30 34 = v.extractLsb' 30 34 ∧
      x.extractLsb' 1 29 = 0) ∧
    (∀ n, n < 256 → ∃ r x, writes (0x100000 + 32 * n) { s with rings := r } ∧
      (∀ k, Sparse.get 0 r k = if k = 2 * n then x else Sparse.get 0 s.rings k) ∧ x.getLsbD 63 = v.getLsbD 63 ∧ x.extractLsb' 16 16 = v.extractLsb' 16 16 ∧
      x.extractLsb' 0 8 = v.extractLsb' 0 8) ∧
    (∀ n, n < 256 → ∃ r x, writes (0x100000 + 32 * n + 8) { s with rings := r } ∧
      (∀ k, Sparse.get 0 r k = if k = 2 * n + 1 then x else Sparse.get 0 s.rings k) ∧ x.toNat = v.toNat % 2 ^ 57 / 2 ^ 7 * 2 ^ 7) ∧
    (∀ fn, fn < 64 → let f := s.func fn
      let limit (o : Nat) (g : Func) : Prop := ∃ s', writes (0x10000 + 0x1000 * fn + o) s' ∧ funcNow s s' fn g
      limit 0x08 { f with part := v } ∧ limit 0x10 { f with limit := v.setWidth 32 } ∧ limit 0x18 { f with policy := v.setWidth 2 } ∧
      limit 0x28 { f with privLen := v } ∧ limit 0x38 { f with ctxLen := v } ∧
      (∃ w : W64, limit 0x20 { f with privWin := w } ∧ w.toNat = v.toNat % 2 ^ 57 / 2 ^ 12 * 2 ^ 12) ∧
      (∃ w : W64, limit 0x30 { f with ctxWin := w } ∧ w.toNat = v.toNat % 2 ^ 57 / 2 ^ 12 * 2 ^ 12) ∧
      (∀ k, k < 4 → ∃ m : BitVec 256, limit (0x40 + 8 * k) { f with deleg := m } ∧
        ∀ j, j < 256 → m.getLsbD j = if j / 64 = k then v.getLsbD (j % 64) else f.deleg.getLsbD j) ∧
      (∃ w : W64, limit 0x60 { f with rootTab := w } ∧ w.toNat = v.toNat % 2 ^ 57 / 2 ^ 8 * 2 ^ 8))) ∧
  (∀ (s : State) (fn : Nat) (v : W64), fn < 64 →
    let f := s.func fn
    let writes (off : Nat) (s' : State) : Prop := exec (.registerWrite (.bar0 fn off) v) s = .next s'
    let sets (off : Nat) (g : Func) : Prop := ∃ s', writes off s' ∧ funcNow s s' fn g
    (∀ q, q < 16 → let setQ (o : Nat) (x : LQueue) : Prop := sets (0x40 * q + o) (f.setQueue q x)
      let names (o : Nat) (x : LQueue) : Prop := ∃ kept, setQ o { x with posted := kept }
      names 0x00 { f.queue q with ring := v } ∧ names 0x08 { f.queue q with size := v.setWidth 16 } ∧
      setQ 0x10 (s.moveTail fn (f.queue q) (v.setWidth 32)) ∧ writes (0x40 * q + 0x18) s ∧ setQ 0x20 { f.queue q with err := v }) ∧
    (v.getLsbD 63 = true → v.getLsbD 62 = false → exec (.instcmdGo fn (v.extractLsb' 8 13) (v.setWidth 8)) s = exec (.registerWrite (.bar0 fn 0x810) v) s) ∧
    (v.getLsbD 63 = false → v.getLsbD 62 = true → v.extractLsb' 8 13 = 0 → exec (.instcmdClear fn (v.setWidth 8)) s = exec (.registerWrite (.bar0 fn 0x810) v) s) ∧
    (v.getLsbD 63 = v.getLsbD 62 → f.instBusy = true → writes 0x810 s) ∧
    (v.getLsbD 63 = v.getLsbD 62 → f.instBusy = false → ∃ w : W64, sets 0x810 { f with instCmd := w } ∧ w.extractLsb' 62 2 = v.extractLsb' 62 2 ∧
      w.setWidth 21 = v.setWidth 21) ∧
    (∀ vec k : Nat, vec < 64 → k < 2 → ∃ m, (∃ s', exec (.registerWrite (.bar4 fn (16 * vec + 8 * k)) v) s = .next s' ∧ funcNow s s' fn { f with msix := m }) ∧
      ∀ j, Sparse.get 0 m j = if j = 4 * vec + 2 * k then v.setWidth 32 else if j = 4 * vec + 2 * k + 1 then v.extractLsb' 32 32 else Sparse.get 0 f.msix j) ∧
    sets 0x800 { f with instOff := v } ∧ sets 0x808 { f with instLen := v.setWidth 32 } ∧ writes 0x818 s ∧ sets 0x900 { f with aper := v.setWidth 36 } ∧
    sets 0x908 { f with fstat := f.fstat &&& ~~~(v.setWidth 2) })

/-- POWER_ON_RESET empties the device; BOOT_VERIFY copies the image to local address 0 and starts the boot team on it, or fails (R401). Soft
errors count or poison what they hit, in HBM, pools, registers, caches or halves of the host window, and raise vector 0 (R154, R405), a retired channel's
group ends unprotected, after which a bad entry poisons the lines that it affects (R153), throttling only takes time
(R13), and each SPDM request gets its answer (R404). The model's choices: the digest and the parts of SPDM answers (log entries 141, 142), the
verification as a function without a body (143), the MSI-X message as the words of its entry (144), no poison in a dead block (145), when a channel is
retired (146), what reset keeps (147), a bad copy of a remap entry (148), and the boot shop's windows (173). -/
def Obligations.BringUpAndReliability : Prop :=
  (∀ s : State, ∃ s', exec .powerOnReset s = .next s' ∧ s'.teams = [] ∧ s'.shops = [] ∧ s'.mem = .empty ∧ s'.live = [] ∧ s'.halves = [] ∧
    s'.boot = .loading ∧ s'.devSet = false ∧ s'.everEnabled = false ∧ s'.funcs = [] ∧ s'.quar = [] ∧ s'.lehrDone = 0 ∧ s'.launches = [] ∧
    s'.cmds = [] ∧ s'.codes = [] ∧ s'.images = [] ∧ s'.portdn = 0 ∧ s'.flash = s.flash ∧ s'.flashSig = s.flashSig ∧
    { s' with flash := [], flashSig := [], out := [], agenda := [], fresh := 0 } = State.reset) ∧
  (∀ s : State, s.boot = .loading → ∃ s', exec .bootVerify s = .next s' ∧ s'.mem.read 0 s.flash.length = s.flash ∧
    (∀ a, s.flash.length ≤ a → s'.mem.byte a = s.mem.byte a) ∧
    (Config.bootSignatureValid s.flash s.flashSig = false → s'.boot = .failed 1 ∧ s'.teams = s.teams) ∧
    (Config.bootSignatureValid s.flash s.flashSig = true → s'.boot = .started ∧ ∃ x t, s'.shop? s.nextShop = some x ∧
      s'.team? (32 * s.nextShop) = some t ∧ x.core = 192 ∧ x.band = 0 ∧ x.lanes = 32 ∧ x.span = 32 ∧ x.nteams = 1 ∧ x.deadline = 65520 ∧
      x.launch = none ∧ x.pclass = 7 ∧ x.nkind = 1 ∧ x.fn = 0 ∧ x.rev2 = false ∧ x.image = s'.codeCells x.code ∧
      x.handler = none ∧ x.roles = [⟨256, 15, 15, 0⟩] ∧ x.code.kind = kCode ∧ x.code.perm = pLD ||| pEX ∧ x.code.base = 0 ∧ t.pc = 0 ∧ t.mode = 0 ∧
      t.pri = 15 ∧ t.allot = 256 ∧ t.dlleft = 65520 ∧ t.rdC 1 = Cap.null ∧ (t.rdC 3).tag = true ∧ (t.rdC 3).kind = kData ∧ (t.rdC 3).band = 0 ∧
      (t.rdC 3).perm = 0xFFE ∧ (t.rdC 3).len = 2 ^ 43 ∧ (t.rdC 3).base = 0 ∧ (t.rdC 3).ord = 2 ∧ (∀ r, t.rdS r = 0) ∧
      x.ppw.toNat = 2 * 2 ^ 24 + 64 * 2 ^ 16 + 0 * 2 ^ 10 + 4 * 2 ^ 6 + 0 ∧ x.code.tag = true ∧ x.code.band = 0 ∧ x.code.ord = 2 ∧
      (s.flash.length < 2 ^ 43 → s.flash.length ≤ x.code.len ∧ ∀ m e, s.flash.length ≤ m * 16 * 2 ^ e → m ≤ 1023 → e ≤ 63 → x.code.len ≤ m * 16 * 2 ^ e) ∧
      (t.rdC 2).tag = true ∧ (t.rdC 2).kind = kLocal ∧ (t.rdC 2).len = 2 ^ 20 ∧ (t.rdC 2).ord = 1 ∧ (t.rdC 2).perm = pLD ||| pST ||| pLDC ||| pSTC ||| pAT ||| pDERIVE ∧
      (s.devId = 0 → (t.rdC 2).base = 0))) ∧
  (∀ s : State, s.boot ≠ .loading → exec .bootVerify s = .fault .notEnabled) ∧
  (∀ s : State, ∃ c, exec .correctedError s = .next { s with cecnt := c } ∧ c.toNat = min 0xFFFFFFFF (s.cecnt.toNat + 1)) ∧
  (∀ (s : State) (line : Nat), 128 * line + 128 ≤ hbmTop → ∀ p, p = .hbmLine line ∨ p = .directoryAndData line → ∃ s',
    exec (.uncorrectableError p) s = .next s' ∧ s'.out = vectorZero s :: s.out ∧ { s' with mem := s.mem, out := s.out } = s ∧
    s'.mem.bytes = s.mem.bytes ∧ s'.mem.tags = s.mem.tags ∧
    ∀ g, Sparse.get false s'.mem.poison g = (Sparse.get false s.mem.poison g || (decide (g / 8 = line) && Sparse.get false s.live (line / 32)))) ∧
  (∀ (s : State) (line : Nat), exec (.uncorrectableError (.directory line)) s = .next { s with out := vectorZero s :: s.out }) ∧
  (∀ (s : State) (shop g : Nat) (x : Shop), s.shop? shop = some x → 16 * g + 16 ≤ 16384 * x.spadUnits → ∃ p,
    exec (.uncorrectableError (.spadGranule shop g)) s =
      .next { s.setShop shop { x with spad := { x.spad with poison := p } } with out := vectorZero s :: s.out } ∧
    ∀ k, Sparse.get false p k = (Sparse.get false x.spad.poison k || decide (k = g))) ∧
  (∀ (s : State) (g : Nat), 16 * g + 16 ≤ hbmTop → ∃ s', exec (.uncorrectableError (.cachedGranule g)) s = .next s' ∧ s'.out = vectorZero s :: s.out ∧
    { s' with mem := s.mem, out := s.out } = s ∧ s'.mem.bytes = s.mem.bytes ∧ s'.mem.tags = s.mem.tags ∧
    ∀ k, Sparse.get false s'.mem.poison k = (Sparse.get false s.mem.poison k || (decide (k = g) && Sparse.get false s.live (g / 256)))) ∧
  (∀ (s : State) (g off : Nat) (h : Half), s.region (16 * g) = .host off → Sparse.look s.halves (off / 64) = some h → ∃ k,
    exec (.uncorrectableError (.cachedGranule g)) s = .next { s with halves := Sparse.insert s.halves (off / 64) { h with poison := k }, out := vectorZero s :: s.out } ∧
    ∀ j, j < 4 → k.getLsbD j = (h.poison.getLsbD j || decide (j = off / 16 % 4))) ∧
  (∀ (s : State) (line off : Nat), s.region (128 * line) = .host off → (∃ h, Sparse.look s.halves (off / 64) = some h) → ∃ s',
    exec (.uncorrectableError (.directoryAndData line)) s = .next s' ∧ s'.out = vectorZero s :: s.out ∧ { s' with halves := s.halves, out := s.out } = s ∧
    ∀ k, Sparse.look s'.halves k = (Sparse.look s.halves k).map fun h => if k = off / 64 ∨ k = off / 64 + 1 then { h with poison := 15 } else h) ∧
  (∀ (s : State) (g off : Nat), s.region (16 * g) = .host off → Sparse.look s.halves (off / 64) = none →
    exec (.uncorrectableError (.cachedGranule g)) s = .fault .notEnabled) ∧
  (∀ (s : State) (n reg : Nat) (t : Team), s.team? n = some t → 0 < reg → reg < 32 → ∃ s' t', exec (.uncorrectableError (.capRegister n reg)) s = .next s' ∧
    s'.out = vectorZero s :: s.out ∧ { s' with teams := s.teams, out := s.out } = s ∧ (∀ m, m ≠ n → s'.team? m = s.team? m) ∧ s'.team? n = some t' ∧
    { t' with cpoison := t.cpoison } = t ∧ ∀ r, r < 32 → t'.capPoison r = (t.capPoison r || decide (r = reg))) ∧
  (∀ (s : State) (n lane quad : Nat) (t : Team) (x : Shop), s.team? n = some t → s.shop? (shopOf n) = some x → lane < x.lanes → quad < 64 →
    4 * quad + 3 < t.allot → ∃ s' p, exec (.uncorrectableError (.registerGranule n lane quad)) s = .next s' ∧ s'.out = vectorZero s :: s.out ∧
      (∀ m, m ≠ n → s'.team? m = s.team? m) ∧ { s' with teams := s.teams, out := s.out } = s ∧
      s'.team? n = some { t with vpoison := p } ∧
      ∀ l q, q < 64 → Sparse.get false p (64 * l + q) = (Sparse.get false t.vpoison (64 * l + q) || decide (l = lane ∧ q = quad))) ∧
  (∀ (s : State) (shop tile key : Nat) (x : Shop), s.shop? shop = some x → tile < x.tileCount → key < 4096 → ∃ s' x',
    exec (.uncorrectableError (.tileGranule shop tile key)) s = .next s' ∧ s'.out = vectorZero s :: s.out ∧
      (∀ m, m ≠ shop → s'.shop? m = s.shop? m) ∧ { s' with shops := s.shops, out := s.out } = s ∧ s'.shop? shop = some x' ∧
      { x' with tiles := x.tiles } = x ∧ (∀ m, m ≠ tile → x'.tile m = x.tile m) ∧ ∃ p, x'.tile tile = { x.tile tile with poison := p } ∧
      ∀ k, Sparse.get false p k = (Sparse.get false (x.tile tile).poison k || decide (k = key))) ∧
  (∀ (s : State) (stack ch : Nat), stack < 8 → ch < 32 → 32 * stack + ch ∉ s.retired → 2 * stack + ch / 16 ∉ s.rebuilding →
    s.hbmunp.getLsbD (2 * stack + ch / 16) = false →
    let s1 := { s with retired := s.retired ++ [32 * stack + ch], rebuilding := s.rebuilding ++ [2 * stack + ch / 16] }
    exec (.channelRetire stack ch) s = .next s1 ∧ 
      ∀ lines, exec (.uncorrectableError (.remapBoth stack ch lines)) s = .next { s1 with out := vectorZero s :: s.out }) ∧
  (∀ (s : State) (stack ch : Nat) (lines : List Nat), stack < 8 → ch < 32 → (∀ l ∈ lines, 128 * l + 128 ≤ hbmTop) →
    (32 * stack + ch ∈ s.retired ∨ 2 * stack + ch / 16 ∈ s.rebuilding ∨ s.hbmunp.getLsbD (2 * stack + ch / 16) = true) → ∃ s',
    exec (.uncorrectableError (.remapBoth stack ch lines)) s = .next s' ∧ s'.out = vectorZero s :: s.out ∧ { s' with mem := s.mem, out := s.out } = s ∧
    s'.mem.bytes = s.mem.bytes ∧ s'.mem.tags = s.mem.tags ∧ ∀ g, Sparse.get false s'.mem.poison g =
      (Sparse.get false s.mem.poison g || (decide (g / 8 ∈ lines) && Sparse.get false s.live (g / 256)))) ∧
  (∀ (s : State) (stack g : Nat), 2 * stack + g ∈ s.rebuilding → 2 * stack + g < 16 → ∃ h r,
    exec (.channelRebuildComplete stack g) s = .next { s with hbmunp := h, rebuilding := r } ∧
    (∀ j, h.getLsbD j = (s.hbmunp.getLsbD j || decide (j = 2 * stack + g))) ∧ ∀ k, k ∈ r ↔ (k ∈ s.rebuilding ∧ k ≠ 2 * stack + g)) ∧
  (∀ (s : State) (core : Nat), core < 288 → exec (.powerThrottle core) s = .next s) ∧
  (∀ (s : State) (fn : Nat), fn < 64 →
    let answers (i : Instr) (k : Nat) (parts : List (List Byte)) : Prop := exec i s = .next { s with out := .spdm fn k parts :: s.out }
    let signed (d : List Byte) : List (List Byte) := [d, Config.identitySign d]
    answers (.getVersion fn) 0 [[1, 4]] ∧ answers (.getCapabilities fn) 1 [[0, 1, 2, 3, 4, 5, 6], [0, 0]] ∧
    answers (.negotiateAlgorithms fn) 2 [[0x4D, 0x4C, 0x2D, 0x44, 0x53, 0x41, 0x2D, 0x36, 0x35], [0x53, 0x48, 0x41, 0x4B, 0x45, 0x32, 0x35, 0x36], [64]] ∧
    answers (.getDigests fn) 3 [shake256 64 Config.certChain] ∧ answers (.getCertificate fn) 4 [Config.certChain] ∧
    (∀ nonce : BitVec 256, answers (.challenge fn nonce) 5 [Config.identitySign (natBytes 32 nonce.toNat)]) ∧
    answers (.getMeasurements fn 1) 6 (signed (shake256 64 s.flash)) ∧
    answers (.getMeasurements fn 2) 6 (signed (shake256 64 (Config.measureBytes 2 ((List.range 64).map fun f => (s.func f).band.toNat)))) ∧
    answers (.getMeasurements fn 3) 6 (signed (shake256 64 (Config.measureBytes 3 (let f := s.func fn
      let word (k : Nat) : Nat := f.deleg.toNat / 2 ^ (64 * k) % 2 ^ 64
      [f.band.toNat, f.part.toNat, f.limit.toNat, f.policy.toNat, f.privWin.toNat, f.privLen.toNat, f.ctxWin.toNat, f.ctxLen.toNat, word 0, word 1, word 2, word 3])))) ∧
    answers (.getMeasurements fn 4) 6 (signed (shake256 64 (Config.measureBytes 4 ((List.range 64).flatMap fun f => [(s.func f).policy.toNat, (s.func f).deleg.toNat])))) ∧
    (∀ k, k = 0 ∨ 4 < k → answers (.getMeasurements fn k) 6 []))

/-! ### Fetch, decode and the step; reset; what every step keeps (R51, R135, R179, R190, R197 to R204, R209, R395, R401) -/

namespace Sys2Proof.Claims

open Sys2Proof.Machine

/-- A fetch of `n` bytes at PC passes its checks and reads clean HBM (R55, R65, R186, R197). -/
def fetchable (s : State) (x : Ctx) (n : Nat) : Prop :=
  let c := x.sh.code
  let a := localOf ((c.addr + x.t.pc.toNat) % 2 ^ 57)
  c.tag = true ∧ c.kind = kCode ∧ c.dev = s.devId.toNat ∧ (x.sh.band = 0 ∨ c.band = x.sh.band ∨ c.band = 255) ∧ c.has pEX = true ∧
    (∀ q ∈ s.quar, c.affected q.base q.top = false) ∧ x.t.pc.toNat + n ≤ c.len ∧ a + n ≤ hbmTop ∧ s.mem.poisoned a n = false

/-- Breakpoint register `k` is enabled and holds the address of PC (R190). -/
def breaksAt (t : Team) (k : Nat) : Prop :=
  let b := Sparse.get (0 : W64) t.bkpc k
  b.getLsbD 0 = true ∧ b.toNat / 4 = t.pc.toNat / 4

/-- No BREAK comes before the word (R183, R190). -/
def noBreakNow (t : Team) : Prop :=
  t.inHandler = true ∨ t.noBreak = true ∨ (t.bkctl.getLsbD 4 = false ∧ ∀ k, k < 4 → ¬ breaksAt t k)

/-- Team `x.n` is asked to issue its next word, and can. -/
def asksFor (s : State) (x : Ctx) (late : Bool) (rest : List Todo) : Prop :=
  s.agenda = .issue x.n late :: rest ∧ s.team? x.n = some x.t ∧ s.shop? (shopOf x.n) = some x.sh ∧ x.sh.phase = .running ∧ x.t.ended = false ∧
    x.t.wait = .none

/-- The bytes at PC in the code image. -/
def codeBytes (s : State) (x : Ctx) : List Byte := s.mem.read (localOf ((x.sh.code.addr + x.t.pc.toNat) % 2 ^ 57)) 8

/-- Another team's aging count after the issue (R105): it has grown by the decisions of the word when the team was ready, needed the same
slot and had no higher priority. -/
def agingAfter (s : State) (x : Ctx) (m : Nat) (u : Team) : Nat :=
  if s.readyTeam m = true ∧ u.priNow ≤ x.t.priNow ∧ ∃ y, s.ctx? m = some y ∧ s.slotOf x ∈ s.slotsOf y then u.aging + s.decisions x else u.aging

/-- The state in which the word executes: one word of the deadline is used, the marks of the last word are gone, the aging counts of the
teams of its slot have moved and the slot's turn too, the team is the issuer; nothing else differs. -/
def atIssue (s s1 : State) (x : Ctx) (late : Bool) (rest : List Todo) : Prop :=
  s1.cur = some x.n ∧ s1.late = late ∧ s1.agenda = rest ∧
    s1.team? x.n = some { x.t with dlleft := x.t.dlleft - 1, noBreak := false, yielded := false, aging := 0, aged := false } ∧
    (∀ m, m ≠ x.n → s1.team? m = (s.team? m).map fun u => { u with aging := agingAfter s x m u }) ∧ s1.lastSlot = s.slotOf x ∧
    (∀ k, Sparse.get 0 s1.rr k = if k = s.slotOf x then x.n else Sparse.get 0 s.rr k) ∧
    { s1 with teams := s.teams, cur := s.cur, late := s.late, agenda := s.agenda, rr := s.rr, lastSlot := s.lastSlot } = s

/-- The words at PC have not been overwritten since the node of the shop became resident (R199). -/
def asLoaded (s : State) (x : Ctx) : Prop :=
  s.newWord x x.t.pc.toNat = x.oldWord x.t.pc.toNat ∧ s.newWord x (x.t.pc.toNat + 4) = x.oldWord (x.t.pc.toNat + 4)

end Sys2Proof.Claims

/-- A step asked to issue a team's next word runs the instruction that the bytes at PC decode to, in the order BREAK, DEADLINE, fetch,
word of R179; where the word does not decode the team faults (R204), a matrix word on a V-core always by ILLEGAL_OPCODE (R10); a word of an overwritten
image is the old or the new one (R199). A step asked for an event runs it. The agenda, and the model's own order when it is empty, are the model's
choice (log entry 2), and so are what counts as a slot (171) and as the old word (181). -/
def Obligations.StepRunsDecodedWord : Prop :=
  (∀ (s : State) (x : Ctx) (late : Bool) (rest : List Todo) (i : Instr) (more : List Byte), asksFor s x late rest → noBreakNow x.t → x.t.dlleft ≠ 0 →
    fetchable s x i.size → asLoaded s x → decodeBytes (codeBytes s x) = .ok (i, more) → ∃ s1, atIssue s s1 x late rest ∧ step s = exec i s1) ∧
  (∀ (s : State) (x : Ctx) (late : Bool) (rest : List Todo) (e : DecodeError), asksFor s x late rest → noBreakNow x.t → x.t.dlleft ≠ 0 →
    fetchable s x 8 → asLoaded s x → decodeBytes (codeBytes s x) = .error e → ∃ (s1 : State) (w : W32) (lit : Option W32),
      atIssue s { s1 with cur := some x.n, late := late } x late rest ∧
      step s = .next (s1.takeFault x.n (.plain (if e = .opcode ∨ (x.sh.onV = true ∧ isMatrixOp (s.opAt x) = true) then .illegalOpcode else .illegalField)) w lit)) ∧
  (∀ (s : State) (x : Ctx) (late : Bool) (rest : List Todo), asksFor s x late rest → noBreakNow x.t → x.t.dlleft ≠ 0 → fetchable s x 8 →
    ∃ (s1 : State) (w w2 : W32), atIssue s { s1 with fresh := s.fresh, cur := some x.n, late := late } x late rest ∧
      (w = s.newWord x x.t.pc.toNat ∨ w = x.oldWord x.t.pc.toNat) ∧ (w2 = s.newWord x (x.t.pc.toNat + 4) ∨ w2 = x.oldWord (x.t.pc.toNat + 4)) ∧
      ∀ i more, decodeBytes (natBytes 4 w.toNat ++ natBytes 4 w2.toNat) = .ok (i, more) → step s = exec i { s1 with cur := some x.n, late := late }) ∧
  (∀ (s : State) (x : Ctx) (late : Bool) (rest : List Todo), asksFor s x late rest → noBreakNow x.t → x.t.dlleft = 0 →
    ∃ (s1 : State) (w : W32) (lit : Option W32),
      { s1 with teams := s.teams, cur := s.cur, agenda := s.agenda, rr := s.rr, lastSlot := s.lastSlot, fresh := s.fresh } = s ∧
      step s = .next (s1.takeFault x.n (.plain .deadline) w lit)) ∧
  (∀ (s : State) (x : Ctx) (late : Bool) (rest : List Todo), asksFor s x late rest → x.t.inHandler = false → x.t.noBreak = false →
    (∀ k, k < 4 → breaksAt x.t k → (∀ j, j < k → ¬ breaksAt x.t j) → ∃ (s1 : State) (e : Trap) (w : W32) (lit : Option W32), step s = .next (s1.takeFault x.n e w lit) ∧ e.code = .brk ∧
      e.aux / 2 ^ 63 = 1 ∧ e.aux / 2 ^ 32 % 4 = k ∧ ∃ t', s1.team? x.n = some t' ∧ ∀ j, t'.bkctl.getLsbD j = (x.t.bkctl.getLsbD j || decide (j = k))) ∧
    ((∀ k, k < 4 → ¬ breaksAt x.t k) → x.t.bkctl.getLsbD 4 = true → ∃ (s1 : State) (e : Trap) (w : W32) (lit : Option W32), step s = .next (s1.takeFault x.n e w lit) ∧ e.code = .brk ∧
      e.aux / 2 ^ 63 = 0)) ∧
  (∀ (s : State) (i : Instr) (rest : List Todo), s.agenda = .event i :: rest → step s = exec i { s with agenda := rest, cur := none }) ∧
  (∀ s : State, s.agenda = [] → s.boot = .loading → step s = exec .bootVerify s)

/-- Words written out from the encodings of R199 to R203 and the opcode map decode to the instruction that they stand for; a reserved
opcode, and a must-be-zero bit that is one, are refused (R204, R209). -/
def Obligations.DecodeWords : Prop :=
  decodeTableWord 32 0x02FFFFFF = some (.bra (-1)) ∧ decodeTableWord 32 0x0302FFFD = some (.bany 2 (-3)) ∧
  decodeTableWord 32 0x30010203 = some (.add 1 2 3) ∧ decodeTableWord 32 0x43120103 = some (.cmp 2 2 1 3) ∧
  decodeTableWord 32 0x51040506 = some (.fadd 4 5 6) ∧ decodeTableWord 32 0x70070809 = some (.shflIdx 7 8 9) ∧
  decodeTableWord 32 0x80010203 = some (.sadd 1 2 3) ∧ decodeTableWord 32 0x88418203 = some (.scmp 1 1 2 2 3) ∧
  decodeTableWord 32 0x90010203 = some (.ld 1 (.c 2) 3) ∧ decodeTableWord 32 0x94018503 = some (.st 1 (.quad 5) 3) ∧
  decodeTableWord 32 0x9E012203 = some (.atom 0 1 1 2 3) ∧ decodeTableWord 32 0xA4010203 = some (.pbound 1 2 3) ∧
  decodeTableWord 32 0xAE080700 = some (.cmdmk 8 7 0) ∧ decodeTableWord 32 0xAE060501 = some (.cmdmkL 6 5 0) ∧
  decodeTableWord 32 0xB0050401 = some (.cpy 5 4 1) ∧ decodeTableWord 32 0xB7000204 = some (.bari 2 4) ∧
  decodeTableWord 32 0xC3120214 = some (.mma 1 2 2 20) ∧ decodeTableWord 64 0xDEADBEEFD0030000 = some (.movl 3 0 0xDEADBEEF) ∧
  decodeTableWord 32 0x2D000000 = none ∧ decodeTableWord 32 0x31010240 = none

/-- Right after reset every byte of HBM reads zero, untagged, in a dead block; there is no team and no shop; the registers hold the reset
values of R395 and R396, no function is enabled, and DEVID is unwritten (R395, R396, R401). -/
def Obligations.ResetState : Prop :=
  let s := State.reset
  (∀ a, s.mem.byte a = 0 ∧ s.mem.tagAt a = false ∧ Sparse.get false s.live (a / 4096) = false) ∧ (∀ n, s.team? n = none ∧ s.shop? n = none) ∧
    s.memWf ∧ s.devId = 0 ∧ s.devSet = false ∧ s.starve = 0x0200 ∧ s.fabto = 50 ∧ s.lehrto = 1000 ∧ s.disten = 3 ∧ s.portdn = 0 ∧ s.hbmunp = 0 ∧
    s.errlog = 0 ∧ s.cecnt = 0 ∧ s.pwrlim = 2600 ∧ (∀ d, Sparse.get false s.expset d = false) ∧ (∀ i, Sparse.get (0 : W64) s.hwin i = 0) ∧
    (∀ f o v, (s.func f).limitReg o = some v → v = 0) ∧ (∀ f q, ((s.func f).queue q).enable = false ∧ ((s.func f).queue q).ring = 0) ∧
    s.quar = [] ∧ s.lehr = .idle ∧ s.lehrDone = 0 ∧ s.halves = [] ∧ s.everEnabled = false ∧ s.launches = [] ∧ s.cmds = [] ∧ s.codes = [] ∧
    s.images = [] ∧ s.reqs = [] ∧ s.groups = [] ∧ s.boot = .loading

/-- The encoder and the decoder agree: the bytes of every instruction that has a word decode to it and leave what follows, and whatever
decodes was encoded so: no bit of an encoding is dropped and none is ignored (R197 to R204). -/
def Obligations.EncodingRoundTrip : Prop :=
  (∀ (i : Instr) (rest : List Byte), hasWord i = true → decodeBytes (encodeBytes i ++ rest) = .ok (i, rest)) ∧
  (∀ (bs rest : List Byte) (i : Instr), decodeBytes bs = .ok (i, rest) → hasWord i = true ∧ bs = encodeBytes i ++ rest)

/-- Every step keeps the canonical form of HBM: addresses, tags and poison listed in rising order, and nothing listed that reads as what
is not. -/
def Obligations.StepKeepsMemoryCanonical : Prop :=
  ∀ s s' : State, s.memWf → step s = .next s' → s'.memWf
end

