-- ==== Sys2Proof/Laws/Sparse.lean ====
section
/-!
SUPPORT. Storage by number: what is read after a write, and that every operation keeps the canonical form.
-/

namespace Sys2Proof.Machine

variable {α : Type}

/-! ### Reading after writing -/

@[simp] theorem Sparse.get_nil (d : α) (k : Nat) : Sparse.get d [] k = d := rfl

theorem Sparse.get_insert (d : α) (m : Sparse α) (k j : Nat) (y : α) :
    Sparse.get d (m.insert k y) j = if j = k then y else Sparse.get d m j := by
  induction m with
  | nil => simp [Sparse.insert, Sparse.get]
  | cons e m ih =>
    obtain ⟨i, x⟩ := e
    unfold Sparse.insert
    split
    · simp [Sparse.get]
    · split
      · subst_vars; by_cases h : j = i <;> simp [Sparse.get, h]
      · by_cases h : j = i
        · subst h; simp [Sparse.get]; intro h; omega
        · simp [Sparse.get, h, ih]

theorem Sparse.get_filter (d : α) (m : Sparse α) (p : Nat → Bool) (j : Nat) :
    Sparse.get d (m.filter fun e => p e.1) j = if p j then Sparse.get d m j else d := by
  induction m with
  | nil => simp [Sparse.get]
  | cons e m ih =>
    obtain ⟨i, x⟩ := e
    by_cases hp : p i <;> by_cases h : j = i <;> simp_all [Sparse.get]

theorem Sparse.get_erase (d : α) (m : Sparse α) (k j : Nat) :
    Sparse.get d (m.erase k) j = if j = k then d else Sparse.get d m j := by
  have := Sparse.get_filter d m (fun i => decide (i ≠ k)) j
  simp only [Sparse.erase]
  rw [this]
  by_cases h : j = k <;> simp [h]

/-- Reading after a write at a key. -/
theorem Sparse.get_set [DecidableEq α] (d : α) (m : Sparse α) (k j : Nat) (y : α) :
    Sparse.get d (Sparse.set d m k y) j = if j = k then y else Sparse.get d m j := by
  unfold Sparse.set
  split
  · subst_vars; exact Sparse.get_erase _ m k j
  · exact Sparse.get_insert d m k j y

@[simp] theorem Sparse.get_set_self [DecidableEq α] (d : α) (m : Sparse α) (k : Nat) (y : α) :
    Sparse.get d (Sparse.set d m k y) k = y := by simp [Sparse.get_set]

theorem Sparse.get_set_other [DecidableEq α] (d : α) (m : Sparse α) {k j : Nat} (y : α) (h : j ≠ k) :
    Sparse.get d (Sparse.set d m k y) j = Sparse.get d m j := by simp [Sparse.get_set, h]

/-- Reading after writes at consecutive keys. -/
theorem Sparse.get_setList [DecidableEq α] (d : α) (ys : List α) (m : Sparse α) (k j : Nat) :
    Sparse.get d (Sparse.setList d m k ys) j = if k ≤ j ∧ j < k + ys.length then ys.getD (j - k) d else Sparse.get d m j := by
  induction ys generalizing m k with
  | nil => rw [if_neg (fun h => absurd h.2 (Nat.not_lt.2 h.1))]; rfl
  | cons y ys ih =>
    simp only [Sparse.setList, ih, Sparse.get_set, List.length_cons]
    by_cases h : j = k
    · subst h; rw [if_neg (fun h => absurd h.1 (by omega)), if_pos rfl, if_pos ⟨Nat.le_refl _, by omega⟩, Nat.sub_self]; rfl
    · by_cases h2 : k + 1 ≤ j ∧ j < k + 1 + ys.length
      · rw [if_pos h2, if_pos (by omega)]
        obtain ⟨n, rfl⟩ : ∃ n, j = k + 1 + n := ⟨j - (k + 1), by omega⟩
        simp [show k + 1 + n - k = n + 1 by omega]
      · rw [if_neg h2, if_neg h, if_neg (by omega)]

@[simp] theorem Sparse.getList_length (d : α) (m : Sparse α) (k n : Nat) : (Sparse.getList d m k n).length = n := by
  simp [Sparse.getList]

/-- Reading a cleared range. -/
theorem Sparse.get_clear (d : α) (m : Sparse α) (n len j : Nat) :
    Sparse.get d (m.clear n len) j = if n ≤ j ∧ j < n + len then d else Sparse.get d m j := by
  have := Sparse.get_filter d m (fun i => decide (i < n) || decide (n + len ≤ i)) j
  simp only [Sparse.clear]
  rw [this]
  by_cases h : n ≤ j ∧ j < n + len
  · rw [if_pos h, if_neg]; simp only [Bool.or_eq_true, decide_eq_true_eq]; omega
  · rw [if_neg h, if_pos (by simp; omega)]

theorem Sparse.look_insert (m : Sparse α) (k j : Nat) (y : α) :
    (m.insert k y).look j = if j = k then some y else m.look j := by
  induction m with
  | nil => simp [Sparse.insert, Sparse.look]
  | cons e m ih =>
    obtain ⟨i, x⟩ := e
    unfold Sparse.insert
    split
    · simp [Sparse.look]
    · split
      · subst_vars; by_cases h : j = i <;> simp [Sparse.look, h]
      · by_cases h : j = i
        · subst h; simp [Sparse.look]; intro h; omega
        · simp [Sparse.look, h, ih]

@[simp] theorem Sparse.look_insert_self (m : Sparse α) (k : Nat) (y : α) : (m.insert k y).look k = some y := by
  simp [Sparse.look_insert]

theorem Sparse.look_erase (m : Sparse α) (k j : Nat) : (m.erase k).look j = if j = k then none else m.look j := by
  induction m with
  | nil => simp [Sparse.erase, Sparse.look]
  | cons e m ih =>
    obtain ⟨i, x⟩ := e
    simp only [Sparse.erase] at ih ⊢
    by_cases h1 : i = k <;> by_cases h2 : j = i <;> simp_all [Sparse.look]

/-- Reading a table whose records have been changed in place. -/
theorem Sparse.look_map {β : Type} (m : Sparse α) (f : Nat → α → β) (j : Nat) :
    Sparse.look (m.map fun e => (e.1, f e.1 e.2)) j = (m.look j).map (f j) := by
  induction m with
  | nil => rfl
  | cons e m ih =>
    obtain ⟨i, x⟩ := e
    by_cases h : j = i
    · subst h; simp [Sparse.look]
    · simp [Sparse.look, h, ih]

/-! ### The canonical form -/

theorem Sparse.above_mono [DecidableEq α] {d : α} {m : Sparse α} {a b : Nat} (h : a ≤ b) (hm : Sparse.above d b m = true) :
    Sparse.above d a m = true := by
  cases m with
  | nil => rfl
  | cons e m => simp_all [Sparse.above]; omega

theorem Sparse.above_filter [DecidableEq α] {d : α} (p : Nat × α → Bool) {m : Sparse α} {b : Nat} (hm : Sparse.above d b m = true) :
    Sparse.above d b (m.filter p) = true := by
  induction m generalizing b with
  | nil => rfl
  | cons e m ih =>
    simp only [Sparse.above, Bool.and_eq_true, decide_eq_true_eq] at hm
    by_cases hp : p e
    · simp [hp, Sparse.above, hm.1.1, hm.1.2, ih hm.2]
    · simp only [List.filter_cons, hp]
      exact Sparse.above_mono (by omega) (ih hm.2)

theorem Sparse.above_insert [DecidableEq α] {d y : α} (hy : y ≠ d) {m : Sparse α} {b k : Nat} (hk : b ≤ k)
    (hm : Sparse.above d b m = true) : Sparse.above d b (m.insert k y) = true := by
  induction m generalizing b with
  | nil => simp [Sparse.insert, Sparse.above, hk, hy]
  | cons e m ih =>
    obtain ⟨i, x⟩ := e
    simp only [Sparse.above, Bool.and_eq_true, decide_eq_true_eq] at hm
    unfold Sparse.insert
    split
    · simp [Sparse.above, hk, hy, hm.1.2, hm.2]; omega
    · split
      · subst_vars; simp [Sparse.above, hk, hy, hm.2]
      · simp [Sparse.above, hm.1.1, hm.1.2]; exact ih (by omega) hm.2

/-- A write keeps the canonical form. -/
theorem Sparse.set_wf [DecidableEq α] {d : α} {m : Sparse α} (k : Nat) (y : α) (hm : Sparse.wf d m = true) :
    Sparse.wf d (Sparse.set d m k y) = true := by
  unfold Sparse.set
  split
  · exact Sparse.above_filter _ hm
  · next h => exact Sparse.above_insert h (Nat.zero_le _) hm

theorem Sparse.clear_wf [DecidableEq α] {d : α} {m : Sparse α} (n len : Nat) (hm : Sparse.wf d m = true) :
    Sparse.wf d (m.clear n len) = true := Sparse.above_filter _ hm

theorem Sparse.setList_wf [DecidableEq α] {d : α} (ys : List α) {m : Sparse α} (k : Nat) (hm : Sparse.wf d m = true) :
    Sparse.wf d (Sparse.setList d m k ys) = true := by
  induction ys generalizing m k with
  | nil => exact hm
  | cons y ys ih => exact ih _ (Sparse.set_wf k y hm)

end Sys2Proof.Machine
end

