-- ==== Sys2Proof/Laws/Mem.lean ====
section
/-!
SUPPORT. Memory: what a read gives after a write, and that every memory operation keeps the canonical form.
-/

namespace Sys2Proof.Machine

/-! ### Reading after writing -/

@[simp] theorem Mem.write_bytes (m : Mem) (a : Nat) (bs : List Byte) : (m.write a bs).bytes = Sparse.setList 0 m.bytes a bs := rfl

/-- A byte after a write. -/
theorem Mem.byte_write (m : Mem) (a : Nat) (bs : List Byte) (j : Nat) :
    (m.write a bs).byte j = if a ≤ j ∧ j < a + bs.length then bs.getD (j - a) 0 else m.byte j := by
  simp [Mem.byte, Sparse.get_setList]

theorem Mem.byte_zero (m : Mem) (a n j : Nat) : (m.zero a n).byte j = if a ≤ j ∧ j < a + n then 0 else m.byte j := by
  simp [Mem.byte, Mem.zero, Sparse.get_clear]

@[simp] theorem Mem.byte_poisonRange (m : Mem) (a n j : Nat) : (m.poisonRange a n).byte j = m.byte j := rfl

theorem get_setGranules (b : Bool) (gs : List Nat) (m : Sparse Bool) (j : Nat) :
    Sparse.get false (setGranules b gs m) j = if j ∈ gs then b else Sparse.get false m j := by
  induction gs generalizing m with
  | nil => simp [setGranules]
  | cons g gs ih =>
    simp only [setGranules, ih, Sparse.get_set, List.mem_cons]
    by_cases h : j ∈ gs <;> by_cases h2 : j = g <;> simp [h, h2]

/-- The granules of a range are those whose numbers lie between the first and the last. -/
theorem mem_granules (a n g : Nat) : g ∈ granules a n ↔ n ≠ 0 ∧ a / 16 ≤ g ∧ g ≤ (a + n - 1) / 16 := by
  unfold granules
  split
  · simp [*]
  · have hle : a / 16 ≤ (a + n - 1) / 16 := Nat.div_le_div_right (by omega)
    simp only [List.mem_map, List.mem_range]
    constructor
    · rintro ⟨j, hj, rfl⟩; omega
    · rintro ⟨_, h1, h2⟩; exact ⟨g - a / 16, by omega, by omega⟩

/-- A write that is no capability write clears the tags of the granules that it touches, and no others (R62). -/
theorem Mem.tag_write (m : Mem) (a : Nat) (bs : List Byte) (j : Nat) :
    (m.write a bs).tagAt j = if j / 16 ∈ granules a bs.length then false else m.tagAt j := by
  simp [Mem.tagAt, Mem.write, get_setGranules]

@[simp] theorem Mem.empty_byte (a : Nat) : Mem.empty.byte a = 0 := rfl

@[simp] theorem Mem.empty_tagAt (a : Nat) : Mem.empty.tagAt a = false := rfl

/-- A granule taken from another memory has its bytes, and every other byte stays (R170). -/
theorem Mem.byte_takeGranule (m f : Mem) (g j : Nat) : (m.takeGranule f g).byte j = if j / 16 = g then f.byte j else m.byte j := by
  simp only [Mem.byte, Mem.takeGranule, Sparse.get_setList, Mem.read, Sparse.getList_length]
  by_cases h : j / 16 = g
  · rw [if_pos h, if_pos (by omega)]
    simp [Sparse.getList, List.getD_eq_getElem?_getD, show j - 16 * g < 16 by omega, show 16 * g + (j - 16 * g) = j by omega]
  · rw [if_neg h, if_neg (by omega)]

theorem Mem.tag_takeGranule (m f : Mem) (g j : Nat) : (m.takeGranule f g).tagAt j = if j / 16 = g then f.tagAt j else m.tagAt j := by
  simp only [Mem.tagAt, Mem.takeGranule, Sparse.get_set]
  split <;> simp [*]

/-- A command none of whose granules has been written writes its whole payload. -/
@[simp] theorem State.lessParts_nil (s w : State) : s.lessParts w [] = w := by simp [State.lessParts]

/-! ### The canonical form -/

theorem Mem.wf_iff (m : Mem) : m.wf = true ↔
    Sparse.wf 0 m.bytes = true ∧ Sparse.wf false m.tags = true ∧ Sparse.wf false m.poison = true := by
  simp [Mem.wf, and_assoc]

theorem Mem.empty_wf : Mem.empty.wf = true := rfl

theorem setGranules_wf (b : Bool) (gs : List Nat) {m : Sparse Bool} (h : Sparse.wf false m = true) :
    Sparse.wf false (setGranules b gs m) = true := by
  induction gs generalizing m with
  | nil => exact h
  | cons g gs ih => exact ih (Sparse.set_wf g b h)

theorem Mem.write_wf {m : Mem} (a : Nat) (bs : List Byte) (h : m.wf = true) : (m.write a bs).wf = true := by
  rw [Mem.wf_iff] at *
  exact ⟨Sparse.setList_wf _ _ h.1, setGranules_wf _ _ h.2.1, setGranules_wf _ _ h.2.2⟩

theorem Mem.setTags_wf {m : Mem} (b : Bool) (gs : List Nat) (h : m.wf = true) : Mem.wf { m with tags := setGranules b gs m.tags } = true := by
  rw [Mem.wf_iff] at *; exact ⟨h.1, setGranules_wf _ _ h.2.1, h.2.2⟩

theorem Mem.setPoison_wf {m : Mem} (b : Bool) (gs : List Nat) (h : m.wf = true) :
    Mem.wf { m with poison := setGranules b gs m.poison } = true := by
  rw [Mem.wf_iff] at *; exact ⟨h.1, h.2.1, setGranules_wf _ _ h.2.2⟩

theorem Mem.writeCap_wf {m : Mem} (a : Nat) (c : Cap) (h : m.wf = true) : (m.writeCap a c).wf = true := by
  have h1 := Mem.write_wf a (natBytes 16 c.toNat) h
  rw [Mem.wf_iff] at *
  exact ⟨h1.1, Sparse.set_wf _ _ h1.2.1, h1.2.2⟩

theorem Mem.poisonRange_wf {m : Mem} (a n : Nat) (h : m.wf = true) : (m.poisonRange a n).wf = true := Mem.setPoison_wf _ _ h

theorem Mem.takeGranule_wf {m : Mem} (f : Mem) (g : Nat) (h : m.wf = true) : (m.takeGranule f g).wf = true := by
  rw [Mem.wf_iff] at *
  exact ⟨Sparse.setList_wf _ _ h.1, Sparse.set_wf _ _ h.2.1, Sparse.set_wf _ _ h.2.2⟩

theorem Mem.zero_wf {m : Mem} (a n : Nat) (h : m.wf = true) : (m.zero a n).wf = true := by
  rw [Mem.wf_iff] at *
  exact ⟨Sparse.clear_wf _ _ h.1, Sparse.clear_wf _ _ h.2.1, Sparse.clear_wf _ _ h.2.2⟩

theorem Mem.mapCaps_wf (f : Cap → Cap) {m : Mem} (h : m.wf = true) : (m.mapCaps f).wf = true := by
  unfold Mem.mapCaps
  generalize m.tags = ts
  induction ts generalizing m with
  | nil => exact h
  | cons e ts ih =>
    refine ih ?_
    simp only
    split
    · exact h
    · rw [Mem.wf_iff] at *
      exact ⟨Sparse.setList_wf _ _ h.1, Sparse.set_wf _ _ h.2.1, h.2.2⟩

theorem Mem.putRow_wf {m : Mem} (a : Nat) (r : Row) (keep : Nat → Bool) (h : m.wf = true) : (m.putRow a r keep).wf = true :=
  Mem.setTags_wf _ _ (Mem.setPoison_wf _ _ (Mem.write_wf _ _ h))

theorem Mem.copyIn_wf {d : Mem} (a : Nat) (m : Mem) (o n : Nat) (h : d.wf = true) : (d.copyIn a m o n).wf = true := by
  have h1 := Mem.write_wf a (m.read o n) h
  unfold Mem.copyIn
  rw [Mem.wf_iff] at *
  exact ⟨h1.1, setGranules_wf _ _ h1.2.1, setGranules_wf _ _ h1.2.2⟩

theorem Mem.access_wf {m : Mem} (a size : Nat) (op : AccOp) (h : m.wf = true) : (m.access a size op).1.wf = true := by
  cases op with
  | read => exact h
  | readCap => exact h
  | write bs => exact Mem.write_wf _ _ h
  | writeCap c => exact Mem.writeCap_wf _ _ h
  | writePoison c => exact Mem.poisonRange_wf _ _ (Mem.writeCap_wf _ _ h)
  | atomic op ty x y =>
    simp only [Mem.access]
    split
    · exact Mem.write_wf _ _ h
    · exact h

end Sys2Proof.Machine
end

