-- ==== Sys2Proof/Laws/State.lean ====
section
/-!
SUPPORT. One lemma per field per update of the state and of a team, so that no proof unfolds a record update.
-/

namespace Sys2Proof.Machine

/-! ### State.setTeam -/

@[simp] theorem State.setTeam_mem (s : State) (n : Nat) (t : Team) : (s.setTeam n t).mem = s.mem := rfl
@[simp] theorem State.setTeam_live (s : State) (n : Nat) (t : Team) : (s.setTeam n t).live = s.live := rfl
@[simp] theorem State.setTeam_updMode (s : State) (n : Nat) (t : Team) : (s.setTeam n t).updMode = s.updMode := rfl
@[simp] theorem State.setTeam_teams (s : State) (n : Nat) (t : Team) : (s.setTeam n t).teams = Sparse.insert s.teams n t := rfl
@[simp] theorem State.setTeam_shops (s : State) (n : Nat) (t : Team) : (s.setTeam n t).shops = s.shops := rfl
@[simp] theorem State.setTeam_nextShop (s : State) (n : Nat) (t : Team) : (s.setTeam n t).nextShop = s.nextShop := rfl
@[simp] theorem State.setTeam_cmds (s : State) (n : Nat) (t : Team) : (s.setTeam n t).cmds = s.cmds := rfl
@[simp] theorem State.setTeam_pubs (s : State) (n : Nat) (t : Team) : (s.setTeam n t).pubs = s.pubs := rfl
@[simp] theorem State.setTeam_launches (s : State) (n : Nat) (t : Team) : (s.setTeam n t).launches = s.launches := rfl
@[simp] theorem State.setTeam_nextLaunch (s : State) (n : Nat) (t : Team) : (s.setTeam n t).nextLaunch = s.nextLaunch := rfl
@[simp] theorem State.setTeam_spawns (s : State) (n : Nat) (t : Team) : (s.setTeam n t).spawns = s.spawns := rfl
@[simp] theorem State.setTeam_ready (s : State) (n : Nat) (t : Team) : (s.setTeam n t).ready = s.ready := rfl
@[simp] theorem State.setTeam_forwards (s : State) (n : Nat) (t : Team) : (s.setTeam n t).forwards = s.forwards := rfl
@[simp] theorem State.setTeam_codes (s : State) (n : Nat) (t : Team) : (s.setTeam n t).codes = s.codes := rfl
@[simp] theorem State.setTeam_images (s : State) (n : Nat) (t : Team) : (s.setTeam n t).images = s.images := rfl
@[simp] theorem State.setTeam_groups (s : State) (n : Nat) (t : Team) : (s.setTeam n t).groups = s.groups := rfl
@[simp] theorem State.setTeam_rse (s : State) (n : Nat) (t : Team) : (s.setTeam n t).rse = s.rse := rfl
@[simp] theorem State.setTeam_rseQueue (s : State) (n : Nat) (t : Team) : (s.setTeam n t).rseQueue = s.rseQueue := rfl
@[simp] theorem State.setTeam_reqs (s : State) (n : Nat) (t : Team) : (s.setTeam n t).reqs = s.reqs := rfl
@[simp] theorem State.setTeam_nextId (s : State) (n : Nat) (t : Team) : (s.setTeam n t).nextId = s.nextId := rfl
@[simp] theorem State.setTeam_halves (s : State) (n : Nat) (t : Team) : (s.setTeam n t).halves = s.halves := rfl
@[simp] theorem State.setTeam_devId (s : State) (n : Nat) (t : Team) : (s.setTeam n t).devId = s.devId := rfl
@[simp] theorem State.setTeam_devSet (s : State) (n : Nat) (t : Team) : (s.setTeam n t).devSet = s.devSet := rfl
@[simp] theorem State.setTeam_starve (s : State) (n : Nat) (t : Team) : (s.setTeam n t).starve = s.starve := rfl
@[simp] theorem State.setTeam_fabto (s : State) (n : Nat) (t : Team) : (s.setTeam n t).fabto = s.fabto := rfl
@[simp] theorem State.setTeam_lehrto (s : State) (n : Nat) (t : Team) : (s.setTeam n t).lehrto = s.lehrto := rfl
@[simp] theorem State.setTeam_disten (s : State) (n : Nat) (t : Team) : (s.setTeam n t).disten = s.disten := rfl
@[simp] theorem State.setTeam_portdn (s : State) (n : Nat) (t : Team) : (s.setTeam n t).portdn = s.portdn := rfl
@[simp] theorem State.setTeam_replays (s : State) (n : Nat) (t : Team) : (s.setTeam n t).replays = s.replays := rfl
@[simp] theorem State.setTeam_portSeen (s : State) (n : Nat) (t : Team) : (s.setTeam n t).portSeen = s.portSeen := rfl
@[simp] theorem State.setTeam_hbmunp (s : State) (n : Nat) (t : Team) : (s.setTeam n t).hbmunp = s.hbmunp := rfl
@[simp] theorem State.setTeam_drain (s : State) (n : Nat) (t : Team) : (s.setTeam n t).drain = s.drain := rfl
@[simp] theorem State.setTeam_draining (s : State) (n : Nat) (t : Team) : (s.setTeam n t).draining = s.draining := rfl
@[simp] theorem State.setTeam_errlog (s : State) (n : Nat) (t : Team) : (s.setTeam n t).errlog = s.errlog := rfl
@[simp] theorem State.setTeam_cecnt (s : State) (n : Nat) (t : Team) : (s.setTeam n t).cecnt = s.cecnt := rfl
@[simp] theorem State.setTeam_pwrlim (s : State) (n : Nat) (t : Team) : (s.setTeam n t).pwrlim = s.pwrlim := rfl
@[simp] theorem State.setTeam_expset (s : State) (n : Nat) (t : Team) : (s.setTeam n t).expset = s.expset := rfl
@[simp] theorem State.setTeam_hwin (s : State) (n : Nat) (t : Team) : (s.setTeam n t).hwin = s.hwin := rfl
@[simp] theorem State.setTeam_rings (s : State) (n : Nat) (t : Team) : (s.setTeam n t).rings = s.rings := rfl
@[simp] theorem State.setTeam_funcs (s : State) (n : Nat) (t : Team) : (s.setTeam n t).funcs = s.funcs := rfl
@[simp] theorem State.setTeam_everEnabled (s : State) (n : Nat) (t : Team) : (s.setTeam n t).everEnabled = s.everEnabled := rfl
@[simp] theorem State.setTeam_lastQueue (s : State) (n : Nat) (t : Team) : (s.setTeam n t).lastQueue = s.lastQueue := rfl
@[simp] theorem State.setTeam_quar (s : State) (n : Nat) (t : Team) : (s.setTeam n t).quar = s.quar := rfl
@[simp] theorem State.setTeam_lehrDone (s : State) (n : Nat) (t : Team) : (s.setTeam n t).lehrDone = s.lehrDone := rfl
@[simp] theorem State.setTeam_lehr (s : State) (n : Nat) (t : Team) : (s.setTeam n t).lehr = s.lehr := rfl
@[simp] theorem State.setTeam_records (s : State) (n : Nat) (t : Team) : (s.setTeam n t).records = s.records := rfl
@[simp] theorem State.setTeam_remoteRanges (s : State) (n : Nat) (t : Team) : (s.setTeam n t).remoteRanges = s.remoteRanges := rfl
@[simp] theorem State.setTeam_excluded (s : State) (n : Nat) (t : Team) : (s.setTeam n t).excluded = s.excluded := rfl
@[simp] theorem State.setTeam_retired (s : State) (n : Nat) (t : Team) : (s.setTeam n t).retired = s.retired := rfl
@[simp] theorem State.setTeam_rebuilding (s : State) (n : Nat) (t : Team) : (s.setTeam n t).rebuilding = s.rebuilding := rfl
@[simp] theorem State.setTeam_cyc (s : State) (n : Nat) (t : Team) : (s.setTeam n t).cyc = s.cyc := rfl
@[simp] theorem State.setTeam_boot (s : State) (n : Nat) (t : Team) : (s.setTeam n t).boot = s.boot := rfl
@[simp] theorem State.setTeam_flash (s : State) (n : Nat) (t : Team) : (s.setTeam n t).flash = s.flash := rfl
@[simp] theorem State.setTeam_flashSig (s : State) (n : Nat) (t : Team) : (s.setTeam n t).flashSig = s.flashSig := rfl
@[simp] theorem State.setTeam_imageLen (s : State) (n : Nat) (t : Team) : (s.setTeam n t).imageLen = s.imageLen := rfl
@[simp] theorem State.setTeam_out (s : State) (n : Nat) (t : Team) : (s.setTeam n t).out = s.out := rfl
@[simp] theorem State.setTeam_cur (s : State) (n : Nat) (t : Team) : (s.setTeam n t).cur = s.cur := rfl
@[simp] theorem State.setTeam_late (s : State) (n : Nat) (t : Team) : (s.setTeam n t).late = s.late := rfl
@[simp] theorem State.setTeam_agenda (s : State) (n : Nat) (t : Team) : (s.setTeam n t).agenda = s.agenda := rfl
@[simp] theorem State.setTeam_rr (s : State) (n : Nat) (t : Team) : (s.setTeam n t).rr = s.rr := rfl
@[simp] theorem State.setTeam_lastSlot (s : State) (n : Nat) (t : Team) : (s.setTeam n t).lastSlot = s.lastSlot := rfl
@[simp] theorem State.setTeam_fresh (s : State) (n : Nat) (t : Team) : (s.setTeam n t).fresh = s.fresh := rfl

/-! ### State.setShop -/

@[simp] theorem State.setShop_mem (s : State) (n : Nat) (x : Shop) : (s.setShop n x).mem = s.mem := rfl
@[simp] theorem State.setShop_live (s : State) (n : Nat) (x : Shop) : (s.setShop n x).live = s.live := rfl
@[simp] theorem State.setShop_updMode (s : State) (n : Nat) (x : Shop) : (s.setShop n x).updMode = s.updMode := rfl
@[simp] theorem State.setShop_teams (s : State) (n : Nat) (x : Shop) : (s.setShop n x).teams = s.teams := rfl
@[simp] theorem State.setShop_shops (s : State) (n : Nat) (x : Shop) : (s.setShop n x).shops = Sparse.insert s.shops n x := rfl
@[simp] theorem State.setShop_nextShop (s : State) (n : Nat) (x : Shop) : (s.setShop n x).nextShop = s.nextShop := rfl
@[simp] theorem State.setShop_cmds (s : State) (n : Nat) (x : Shop) : (s.setShop n x).cmds = s.cmds := rfl
@[simp] theorem State.setShop_pubs (s : State) (n : Nat) (x : Shop) : (s.setShop n x).pubs = s.pubs := rfl
@[simp] theorem State.setShop_launches (s : State) (n : Nat) (x : Shop) : (s.setShop n x).launches = s.launches := rfl
@[simp] theorem State.setShop_nextLaunch (s : State) (n : Nat) (x : Shop) : (s.setShop n x).nextLaunch = s.nextLaunch := rfl
@[simp] theorem State.setShop_spawns (s : State) (n : Nat) (x : Shop) : (s.setShop n x).spawns = s.spawns := rfl
@[simp] theorem State.setShop_ready (s : State) (n : Nat) (x : Shop) : (s.setShop n x).ready = s.ready := rfl
@[simp] theorem State.setShop_forwards (s : State) (n : Nat) (x : Shop) : (s.setShop n x).forwards = s.forwards := rfl
@[simp] theorem State.setShop_codes (s : State) (n : Nat) (x : Shop) : (s.setShop n x).codes = s.codes := rfl
@[simp] theorem State.setShop_images (s : State) (n : Nat) (x : Shop) : (s.setShop n x).images = s.images := rfl
@[simp] theorem State.setShop_groups (s : State) (n : Nat) (x : Shop) : (s.setShop n x).groups = s.groups := rfl
@[simp] theorem State.setShop_rse (s : State) (n : Nat) (x : Shop) : (s.setShop n x).rse = s.rse := rfl
@[simp] theorem State.setShop_rseQueue (s : State) (n : Nat) (x : Shop) : (s.setShop n x).rseQueue = s.rseQueue := rfl
@[simp] theorem State.setShop_reqs (s : State) (n : Nat) (x : Shop) : (s.setShop n x).reqs = s.reqs := rfl
@[simp] theorem State.setShop_nextId (s : State) (n : Nat) (x : Shop) : (s.setShop n x).nextId = s.nextId := rfl
@[simp] theorem State.setShop_halves (s : State) (n : Nat) (x : Shop) : (s.setShop n x).halves = s.halves := rfl
@[simp] theorem State.setShop_devId (s : State) (n : Nat) (x : Shop) : (s.setShop n x).devId = s.devId := rfl
@[simp] theorem State.setShop_devSet (s : State) (n : Nat) (x : Shop) : (s.setShop n x).devSet = s.devSet := rfl
@[simp] theorem State.setShop_starve (s : State) (n : Nat) (x : Shop) : (s.setShop n x).starve = s.starve := rfl
@[simp] theorem State.setShop_fabto (s : State) (n : Nat) (x : Shop) : (s.setShop n x).fabto = s.fabto := rfl
@[simp] theorem State.setShop_lehrto (s : State) (n : Nat) (x : Shop) : (s.setShop n x).lehrto = s.lehrto := rfl
@[simp] theorem State.setShop_disten (s : State) (n : Nat) (x : Shop) : (s.setShop n x).disten = s.disten := rfl
@[simp] theorem State.setShop_portdn (s : State) (n : Nat) (x : Shop) : (s.setShop n x).portdn = s.portdn := rfl
@[simp] theorem State.setShop_replays (s : State) (n : Nat) (x : Shop) : (s.setShop n x).replays = s.replays := rfl
@[simp] theorem State.setShop_portSeen (s : State) (n : Nat) (x : Shop) : (s.setShop n x).portSeen = s.portSeen := rfl
@[simp] theorem State.setShop_hbmunp (s : State) (n : Nat) (x : Shop) : (s.setShop n x).hbmunp = s.hbmunp := rfl
@[simp] theorem State.setShop_drain (s : State) (n : Nat) (x : Shop) : (s.setShop n x).drain = s.drain := rfl
@[simp] theorem State.setShop_draining (s : State) (n : Nat) (x : Shop) : (s.setShop n x).draining = s.draining := rfl
@[simp] theorem State.setShop_errlog (s : State) (n : Nat) (x : Shop) : (s.setShop n x).errlog = s.errlog := rfl
@[simp] theorem State.setShop_cecnt (s : State) (n : Nat) (x : Shop) : (s.setShop n x).cecnt = s.cecnt := rfl
@[simp] theorem State.setShop_pwrlim (s : State) (n : Nat) (x : Shop) : (s.setShop n x).pwrlim = s.pwrlim := rfl
@[simp] theorem State.setShop_expset (s : State) (n : Nat) (x : Shop) : (s.setShop n x).expset = s.expset := rfl
@[simp] theorem State.setShop_hwin (s : State) (n : Nat) (x : Shop) : (s.setShop n x).hwin = s.hwin := rfl
@[simp] theorem State.setShop_rings (s : State) (n : Nat) (x : Shop) : (s.setShop n x).rings = s.rings := rfl
@[simp] theorem State.setShop_funcs (s : State) (n : Nat) (x : Shop) : (s.setShop n x).funcs = s.funcs := rfl
@[simp] theorem State.setShop_everEnabled (s : State) (n : Nat) (x : Shop) : (s.setShop n x).everEnabled = s.everEnabled := rfl
@[simp] theorem State.setShop_lastQueue (s : State) (n : Nat) (x : Shop) : (s.setShop n x).lastQueue = s.lastQueue := rfl
@[simp] theorem State.setShop_quar (s : State) (n : Nat) (x : Shop) : (s.setShop n x).quar = s.quar := rfl
@[simp] theorem State.setShop_lehrDone (s : State) (n : Nat) (x : Shop) : (s.setShop n x).lehrDone = s.lehrDone := rfl
@[simp] theorem State.setShop_lehr (s : State) (n : Nat) (x : Shop) : (s.setShop n x).lehr = s.lehr := rfl
@[simp] theorem State.setShop_records (s : State) (n : Nat) (x : Shop) : (s.setShop n x).records = s.records := rfl
@[simp] theorem State.setShop_remoteRanges (s : State) (n : Nat) (x : Shop) : (s.setShop n x).remoteRanges = s.remoteRanges := rfl
@[simp] theorem State.setShop_excluded (s : State) (n : Nat) (x : Shop) : (s.setShop n x).excluded = s.excluded := rfl
@[simp] theorem State.setShop_retired (s : State) (n : Nat) (x : Shop) : (s.setShop n x).retired = s.retired := rfl
@[simp] theorem State.setShop_rebuilding (s : State) (n : Nat) (x : Shop) : (s.setShop n x).rebuilding = s.rebuilding := rfl
@[simp] theorem State.setShop_cyc (s : State) (n : Nat) (x : Shop) : (s.setShop n x).cyc = s.cyc := rfl
@[simp] theorem State.setShop_boot (s : State) (n : Nat) (x : Shop) : (s.setShop n x).boot = s.boot := rfl
@[simp] theorem State.setShop_flash (s : State) (n : Nat) (x : Shop) : (s.setShop n x).flash = s.flash := rfl
@[simp] theorem State.setShop_flashSig (s : State) (n : Nat) (x : Shop) : (s.setShop n x).flashSig = s.flashSig := rfl
@[simp] theorem State.setShop_imageLen (s : State) (n : Nat) (x : Shop) : (s.setShop n x).imageLen = s.imageLen := rfl
@[simp] theorem State.setShop_out (s : State) (n : Nat) (x : Shop) : (s.setShop n x).out = s.out := rfl
@[simp] theorem State.setShop_cur (s : State) (n : Nat) (x : Shop) : (s.setShop n x).cur = s.cur := rfl
@[simp] theorem State.setShop_late (s : State) (n : Nat) (x : Shop) : (s.setShop n x).late = s.late := rfl
@[simp] theorem State.setShop_agenda (s : State) (n : Nat) (x : Shop) : (s.setShop n x).agenda = s.agenda := rfl
@[simp] theorem State.setShop_rr (s : State) (n : Nat) (x : Shop) : (s.setShop n x).rr = s.rr := rfl
@[simp] theorem State.setShop_lastSlot (s : State) (n : Nat) (x : Shop) : (s.setShop n x).lastSlot = s.lastSlot := rfl
@[simp] theorem State.setShop_fresh (s : State) (n : Nat) (x : Shop) : (s.setShop n x).fresh = s.fresh := rfl

/-! ### Team.wrV -/

@[simp] theorem Team.wrV_vpoison (t : Team) (lane r : Nat) (x : W32) : (t.wrV lane r x).vpoison = t.vpoison := rfl
@[simp] theorem Team.wrV_sreg (t : Team) (lane r : Nat) (x : W32) : (t.wrV lane r x).sreg = t.sreg := rfl
@[simp] theorem Team.wrV_creg (t : Team) (lane r : Nat) (x : W32) : (t.wrV lane r x).creg = t.creg := rfl
@[simp] theorem Team.wrV_cpoison (t : Team) (lane r : Nat) (x : W32) : (t.wrV lane r x).cpoison = t.cpoison := rfl
@[simp] theorem Team.wrV_kreg (t : Team) (lane r : Nat) (x : W32) : (t.wrV lane r x).kreg = t.kreg := rfl
@[simp] theorem Team.wrV_mode (t : Team) (lane r : Nat) (x : W32) : (t.wrV lane r x).mode = t.mode := rfl
@[simp] theorem Team.wrV_pc (t : Team) (lane r : Nat) (x : W32) : (t.wrV lane r x).pc = t.pc := rfl
@[simp] theorem Team.wrV_dlleft (t : Team) (lane r : Nat) (x : W32) : (t.wrV lane r x).dlleft = t.dlleft := rfl
@[simp] theorem Team.wrV_pri (t : Team) (lane r : Nat) (x : W32) : (t.wrV lane r x).pri = t.pri := rfl
@[simp] theorem Team.wrV_pricap (t : Team) (lane r : Nat) (x : W32) : (t.wrV lane r x).pricap = t.pricap := rfl
@[simp] theorem Team.wrV_roleix (t : Team) (lane r : Nat) (x : W32) : (t.wrV lane r x).roleix = t.roleix := rfl
@[simp] theorem Team.wrV_allot (t : Team) (lane r : Nat) (x : W32) : (t.wrV lane r x).allot = t.allot := rfl
@[simp] theorem Team.wrV_crews (t : Team) (lane r : Nat) (x : W32) : (t.wrV lane r x).crews = t.crews := rfl
@[simp] theorem Team.wrV_inHandler (t : Team) (lane r : Nat) (x : W32) : (t.wrV lane r x).inHandler = t.inHandler := rfl
@[simp] theorem Team.wrV_loop (t : Team) (lane r : Nat) (x : W32) : (t.wrV lane r x).loop = t.loop := rfl
@[simp] theorem Team.wrV_shadow (t : Team) (lane r : Nat) (x : W32) : (t.wrV lane r x).shadow = t.shadow := rfl
@[simp] theorem Team.wrV_bkpc (t : Team) (lane r : Nat) (x : W32) : (t.wrV lane r x).bkpc = t.bkpc := rfl
@[simp] theorem Team.wrV_bkctl (t : Team) (lane r : Nat) (x : W32) : (t.wrV lane r x).bkctl = t.bkctl := rfl
@[simp] theorem Team.wrV_noBreak (t : Team) (lane r : Nat) (x : W32) : (t.wrV lane r x).noBreak = t.noBreak := rfl
@[simp] theorem Team.wrV_yielded (t : Team) (lane r : Nat) (x : W32) : (t.wrV lane r x).yielded = t.yielded := rfl
@[simp] theorem Team.wrV_gen (t : Team) (lane r : Nat) (x : W32) : (t.wrV lane r x).gen = t.gen := rfl
@[simp] theorem Team.wrV_monitor (t : Team) (lane r : Nat) (x : W32) : (t.wrV lane r x).monitor = t.monitor := rfl
@[simp] theorem Team.wrV_wait (t : Team) (lane r : Nat) (x : W32) : (t.wrV lane r x).wait = t.wait := rfl
@[simp] theorem Team.wrV_outStores (t : Team) (lane r : Nat) (x : W32) : (t.wrV lane r x).outStores = t.outStores := rfl
@[simp] theorem Team.wrV_mclosed (t : Team) (lane r : Nat) (x : W32) : (t.wrV lane r x).mclosed = t.mclosed := rfl
@[simp] theorem Team.wrV_mdone (t : Team) (lane r : Nat) (x : W32) : (t.wrV lane r x).mdone = t.mdone := rfl
@[simp] theorem Team.wrV_merr (t : Team) (lane r : Nat) (x : W32) : (t.wrV lane r x).merr = t.merr := rfl
@[simp] theorem Team.wrV_mbad (t : Team) (lane r : Nat) (x : W32) : (t.wrV lane r x).mbad = t.mbad := rfl
@[simp] theorem Team.wrV_aging (t : Team) (lane r : Nat) (x : W32) : (t.wrV lane r x).aging = t.aging := rfl
@[simp] theorem Team.wrV_aged (t : Team) (lane r : Nat) (x : W32) : (t.wrV lane r x).aged = t.aged := rfl
@[simp] theorem Team.wrV_privBase (t : Team) (lane r : Nat) (x : W32) : (t.wrV lane r x).privBase = t.privBase := rfl
@[simp] theorem Team.wrV_privLen (t : Team) (lane r : Nat) (x : W32) : (t.wrV lane r x).privLen = t.privLen := rfl
@[simp] theorem Team.wrV_ended (t : Team) (lane r : Nat) (x : W32) : (t.wrV lane r x).ended = t.ended := rfl

/-! ### Team.wrS -/

@[simp] theorem Team.wrS_v (t : Team) (r : Nat) (x : W64) : (t.wrS r x).v = t.v := rfl
@[simp] theorem Team.wrS_vtag (t : Team) (r : Nat) (x : W64) : (t.wrS r x).vtag = t.vtag := rfl
@[simp] theorem Team.wrS_vpoison (t : Team) (r : Nat) (x : W64) : (t.wrS r x).vpoison = t.vpoison := rfl
@[simp] theorem Team.wrS_creg (t : Team) (r : Nat) (x : W64) : (t.wrS r x).creg = t.creg := rfl
@[simp] theorem Team.wrS_cpoison (t : Team) (r : Nat) (x : W64) : (t.wrS r x).cpoison = t.cpoison := rfl
@[simp] theorem Team.wrS_kreg (t : Team) (r : Nat) (x : W64) : (t.wrS r x).kreg = t.kreg := rfl
@[simp] theorem Team.wrS_mode (t : Team) (r : Nat) (x : W64) : (t.wrS r x).mode = t.mode := rfl
@[simp] theorem Team.wrS_pc (t : Team) (r : Nat) (x : W64) : (t.wrS r x).pc = t.pc := rfl
@[simp] theorem Team.wrS_dlleft (t : Team) (r : Nat) (x : W64) : (t.wrS r x).dlleft = t.dlleft := rfl
@[simp] theorem Team.wrS_pri (t : Team) (r : Nat) (x : W64) : (t.wrS r x).pri = t.pri := rfl
@[simp] theorem Team.wrS_pricap (t : Team) (r : Nat) (x : W64) : (t.wrS r x).pricap = t.pricap := rfl
@[simp] theorem Team.wrS_roleix (t : Team) (r : Nat) (x : W64) : (t.wrS r x).roleix = t.roleix := rfl
@[simp] theorem Team.wrS_allot (t : Team) (r : Nat) (x : W64) : (t.wrS r x).allot = t.allot := rfl
@[simp] theorem Team.wrS_crews (t : Team) (r : Nat) (x : W64) : (t.wrS r x).crews = t.crews := rfl
@[simp] theorem Team.wrS_inHandler (t : Team) (r : Nat) (x : W64) : (t.wrS r x).inHandler = t.inHandler := rfl
@[simp] theorem Team.wrS_loop (t : Team) (r : Nat) (x : W64) : (t.wrS r x).loop = t.loop := rfl
@[simp] theorem Team.wrS_shadow (t : Team) (r : Nat) (x : W64) : (t.wrS r x).shadow = t.shadow := rfl
@[simp] theorem Team.wrS_bkpc (t : Team) (r : Nat) (x : W64) : (t.wrS r x).bkpc = t.bkpc := rfl
@[simp] theorem Team.wrS_bkctl (t : Team) (r : Nat) (x : W64) : (t.wrS r x).bkctl = t.bkctl := rfl
@[simp] theorem Team.wrS_noBreak (t : Team) (r : Nat) (x : W64) : (t.wrS r x).noBreak = t.noBreak := rfl
@[simp] theorem Team.wrS_yielded (t : Team) (r : Nat) (x : W64) : (t.wrS r x).yielded = t.yielded := rfl
@[simp] theorem Team.wrS_gen (t : Team) (r : Nat) (x : W64) : (t.wrS r x).gen = t.gen := rfl
@[simp] theorem Team.wrS_monitor (t : Team) (r : Nat) (x : W64) : (t.wrS r x).monitor = t.monitor := rfl
@[simp] theorem Team.wrS_wait (t : Team) (r : Nat) (x : W64) : (t.wrS r x).wait = t.wait := rfl
@[simp] theorem Team.wrS_outStores (t : Team) (r : Nat) (x : W64) : (t.wrS r x).outStores = t.outStores := rfl
@[simp] theorem Team.wrS_mclosed (t : Team) (r : Nat) (x : W64) : (t.wrS r x).mclosed = t.mclosed := rfl
@[simp] theorem Team.wrS_mdone (t : Team) (r : Nat) (x : W64) : (t.wrS r x).mdone = t.mdone := rfl
@[simp] theorem Team.wrS_merr (t : Team) (r : Nat) (x : W64) : (t.wrS r x).merr = t.merr := rfl
@[simp] theorem Team.wrS_mbad (t : Team) (r : Nat) (x : W64) : (t.wrS r x).mbad = t.mbad := rfl
@[simp] theorem Team.wrS_aging (t : Team) (r : Nat) (x : W64) : (t.wrS r x).aging = t.aging := rfl
@[simp] theorem Team.wrS_aged (t : Team) (r : Nat) (x : W64) : (t.wrS r x).aged = t.aged := rfl
@[simp] theorem Team.wrS_privBase (t : Team) (r : Nat) (x : W64) : (t.wrS r x).privBase = t.privBase := rfl
@[simp] theorem Team.wrS_privLen (t : Team) (r : Nat) (x : W64) : (t.wrS r x).privLen = t.privLen := rfl
@[simp] theorem Team.wrS_ended (t : Team) (r : Nat) (x : W64) : (t.wrS r x).ended = t.ended := rfl

/-! ### Team.wrK -/

@[simp] theorem Team.wrK_v (t : Team) (lanes r : Nat) (m : Mask) : (t.wrK lanes r m).v = t.v := rfl
@[simp] theorem Team.wrK_vtag (t : Team) (lanes r : Nat) (m : Mask) : (t.wrK lanes r m).vtag = t.vtag := rfl
@[simp] theorem Team.wrK_vpoison (t : Team) (lanes r : Nat) (m : Mask) : (t.wrK lanes r m).vpoison = t.vpoison := rfl
@[simp] theorem Team.wrK_sreg (t : Team) (lanes r : Nat) (m : Mask) : (t.wrK lanes r m).sreg = t.sreg := rfl
@[simp] theorem Team.wrK_creg (t : Team) (lanes r : Nat) (m : Mask) : (t.wrK lanes r m).creg = t.creg := rfl
@[simp] theorem Team.wrK_cpoison (t : Team) (lanes r : Nat) (m : Mask) : (t.wrK lanes r m).cpoison = t.cpoison := rfl
@[simp] theorem Team.wrK_mode (t : Team) (lanes r : Nat) (m : Mask) : (t.wrK lanes r m).mode = t.mode := rfl
@[simp] theorem Team.wrK_pc (t : Team) (lanes r : Nat) (m : Mask) : (t.wrK lanes r m).pc = t.pc := rfl
@[simp] theorem Team.wrK_dlleft (t : Team) (lanes r : Nat) (m : Mask) : (t.wrK lanes r m).dlleft = t.dlleft := rfl
@[simp] theorem Team.wrK_pri (t : Team) (lanes r : Nat) (m : Mask) : (t.wrK lanes r m).pri = t.pri := rfl
@[simp] theorem Team.wrK_pricap (t : Team) (lanes r : Nat) (m : Mask) : (t.wrK lanes r m).pricap = t.pricap := rfl
@[simp] theorem Team.wrK_roleix (t : Team) (lanes r : Nat) (m : Mask) : (t.wrK lanes r m).roleix = t.roleix := rfl
@[simp] theorem Team.wrK_allot (t : Team) (lanes r : Nat) (m : Mask) : (t.wrK lanes r m).allot = t.allot := rfl
@[simp] theorem Team.wrK_crews (t : Team) (lanes r : Nat) (m : Mask) : (t.wrK lanes r m).crews = t.crews := rfl
@[simp] theorem Team.wrK_inHandler (t : Team) (lanes r : Nat) (m : Mask) : (t.wrK lanes r m).inHandler = t.inHandler := rfl
@[simp] theorem Team.wrK_loop (t : Team) (lanes r : Nat) (m : Mask) : (t.wrK lanes r m).loop = t.loop := rfl
@[simp] theorem Team.wrK_shadow (t : Team) (lanes r : Nat) (m : Mask) : (t.wrK lanes r m).shadow = t.shadow := rfl
@[simp] theorem Team.wrK_bkpc (t : Team) (lanes r : Nat) (m : Mask) : (t.wrK lanes r m).bkpc = t.bkpc := rfl
@[simp] theorem Team.wrK_bkctl (t : Team) (lanes r : Nat) (m : Mask) : (t.wrK lanes r m).bkctl = t.bkctl := rfl
@[simp] theorem Team.wrK_noBreak (t : Team) (lanes r : Nat) (m : Mask) : (t.wrK lanes r m).noBreak = t.noBreak := rfl
@[simp] theorem Team.wrK_yielded (t : Team) (lanes r : Nat) (m : Mask) : (t.wrK lanes r m).yielded = t.yielded := rfl
@[simp] theorem Team.wrK_gen (t : Team) (lanes r : Nat) (m : Mask) : (t.wrK lanes r m).gen = t.gen := rfl
@[simp] theorem Team.wrK_monitor (t : Team) (lanes r : Nat) (m : Mask) : (t.wrK lanes r m).monitor = t.monitor := rfl
@[simp] theorem Team.wrK_wait (t : Team) (lanes r : Nat) (m : Mask) : (t.wrK lanes r m).wait = t.wait := rfl
@[simp] theorem Team.wrK_outStores (t : Team) (lanes r : Nat) (m : Mask) : (t.wrK lanes r m).outStores = t.outStores := rfl
@[simp] theorem Team.wrK_mclosed (t : Team) (lanes r : Nat) (m : Mask) : (t.wrK lanes r m).mclosed = t.mclosed := rfl
@[simp] theorem Team.wrK_mdone (t : Team) (lanes r : Nat) (m : Mask) : (t.wrK lanes r m).mdone = t.mdone := rfl
@[simp] theorem Team.wrK_merr (t : Team) (lanes r : Nat) (m : Mask) : (t.wrK lanes r m).merr = t.merr := rfl
@[simp] theorem Team.wrK_mbad (t : Team) (lanes r : Nat) (m : Mask) : (t.wrK lanes r m).mbad = t.mbad := rfl
@[simp] theorem Team.wrK_aging (t : Team) (lanes r : Nat) (m : Mask) : (t.wrK lanes r m).aging = t.aging := rfl
@[simp] theorem Team.wrK_aged (t : Team) (lanes r : Nat) (m : Mask) : (t.wrK lanes r m).aged = t.aged := rfl
@[simp] theorem Team.wrK_privBase (t : Team) (lanes r : Nat) (m : Mask) : (t.wrK lanes r m).privBase = t.privBase := rfl
@[simp] theorem Team.wrK_privLen (t : Team) (lanes r : Nat) (m : Mask) : (t.wrK lanes r m).privLen = t.privLen := rfl
@[simp] theorem Team.wrK_ended (t : Team) (lanes r : Nat) (m : Mask) : (t.wrK lanes r m).ended = t.ended := rfl

/-! ### Team.wrGen -/

@[simp] theorem Team.wrGen_v (t : Team) (lane : Nat) (x : W32) : (t.wrGen lane x).v = t.v := rfl
@[simp] theorem Team.wrGen_vtag (t : Team) (lane : Nat) (x : W32) : (t.wrGen lane x).vtag = t.vtag := rfl
@[simp] theorem Team.wrGen_vpoison (t : Team) (lane : Nat) (x : W32) : (t.wrGen lane x).vpoison = t.vpoison := rfl
@[simp] theorem Team.wrGen_sreg (t : Team) (lane : Nat) (x : W32) : (t.wrGen lane x).sreg = t.sreg := rfl
@[simp] theorem Team.wrGen_creg (t : Team) (lane : Nat) (x : W32) : (t.wrGen lane x).creg = t.creg := rfl
@[simp] theorem Team.wrGen_cpoison (t : Team) (lane : Nat) (x : W32) : (t.wrGen lane x).cpoison = t.cpoison := rfl
@[simp] theorem Team.wrGen_kreg (t : Team) (lane : Nat) (x : W32) : (t.wrGen lane x).kreg = t.kreg := rfl
@[simp] theorem Team.wrGen_mode (t : Team) (lane : Nat) (x : W32) : (t.wrGen lane x).mode = t.mode := rfl
@[simp] theorem Team.wrGen_pc (t : Team) (lane : Nat) (x : W32) : (t.wrGen lane x).pc = t.pc := rfl
@[simp] theorem Team.wrGen_dlleft (t : Team) (lane : Nat) (x : W32) : (t.wrGen lane x).dlleft = t.dlleft := rfl
@[simp] theorem Team.wrGen_pri (t : Team) (lane : Nat) (x : W32) : (t.wrGen lane x).pri = t.pri := rfl
@[simp] theorem Team.wrGen_pricap (t : Team) (lane : Nat) (x : W32) : (t.wrGen lane x).pricap = t.pricap := rfl
@[simp] theorem Team.wrGen_roleix (t : Team) (lane : Nat) (x : W32) : (t.wrGen lane x).roleix = t.roleix := rfl
@[simp] theorem Team.wrGen_allot (t : Team) (lane : Nat) (x : W32) : (t.wrGen lane x).allot = t.allot := rfl
@[simp] theorem Team.wrGen_crews (t : Team) (lane : Nat) (x : W32) : (t.wrGen lane x).crews = t.crews := rfl
@[simp] theorem Team.wrGen_inHandler (t : Team) (lane : Nat) (x : W32) : (t.wrGen lane x).inHandler = t.inHandler := rfl
@[simp] theorem Team.wrGen_loop (t : Team) (lane : Nat) (x : W32) : (t.wrGen lane x).loop = t.loop := rfl
@[simp] theorem Team.wrGen_shadow (t : Team) (lane : Nat) (x : W32) : (t.wrGen lane x).shadow = t.shadow := rfl
@[simp] theorem Team.wrGen_bkpc (t : Team) (lane : Nat) (x : W32) : (t.wrGen lane x).bkpc = t.bkpc := rfl
@[simp] theorem Team.wrGen_bkctl (t : Team) (lane : Nat) (x : W32) : (t.wrGen lane x).bkctl = t.bkctl := rfl
@[simp] theorem Team.wrGen_noBreak (t : Team) (lane : Nat) (x : W32) : (t.wrGen lane x).noBreak = t.noBreak := rfl
@[simp] theorem Team.wrGen_yielded (t : Team) (lane : Nat) (x : W32) : (t.wrGen lane x).yielded = t.yielded := rfl
@[simp] theorem Team.wrGen_monitor (t : Team) (lane : Nat) (x : W32) : (t.wrGen lane x).monitor = t.monitor := rfl
@[simp] theorem Team.wrGen_wait (t : Team) (lane : Nat) (x : W32) : (t.wrGen lane x).wait = t.wait := rfl
@[simp] theorem Team.wrGen_outStores (t : Team) (lane : Nat) (x : W32) : (t.wrGen lane x).outStores = t.outStores := rfl
@[simp] theorem Team.wrGen_mclosed (t : Team) (lane : Nat) (x : W32) : (t.wrGen lane x).mclosed = t.mclosed := rfl
@[simp] theorem Team.wrGen_mdone (t : Team) (lane : Nat) (x : W32) : (t.wrGen lane x).mdone = t.mdone := rfl
@[simp] theorem Team.wrGen_merr (t : Team) (lane : Nat) (x : W32) : (t.wrGen lane x).merr = t.merr := rfl
@[simp] theorem Team.wrGen_mbad (t : Team) (lane : Nat) (x : W32) : (t.wrGen lane x).mbad = t.mbad := rfl
@[simp] theorem Team.wrGen_aging (t : Team) (lane : Nat) (x : W32) : (t.wrGen lane x).aging = t.aging := rfl
@[simp] theorem Team.wrGen_aged (t : Team) (lane : Nat) (x : W32) : (t.wrGen lane x).aged = t.aged := rfl
@[simp] theorem Team.wrGen_privBase (t : Team) (lane : Nat) (x : W32) : (t.wrGen lane x).privBase = t.privBase := rfl
@[simp] theorem Team.wrGen_privLen (t : Team) (lane : Nat) (x : W32) : (t.wrGen lane x).privLen = t.privLen := rfl
@[simp] theorem Team.wrGen_ended (t : Team) (lane : Nat) (x : W32) : (t.wrGen lane x).ended = t.ended := rfl

/-! ### Team.wrC -/

@[simp] theorem Team.wrC_v (t : Team) (r : Nat) (c : Cap) : (t.wrC r c).v = t.v := by unfold Team.wrC; split <;> rfl
@[simp] theorem Team.wrC_vtag (t : Team) (r : Nat) (c : Cap) : (t.wrC r c).vtag = t.vtag := by unfold Team.wrC; split <;> rfl
@[simp] theorem Team.wrC_vpoison (t : Team) (r : Nat) (c : Cap) : (t.wrC r c).vpoison = t.vpoison := by unfold Team.wrC; split <;> rfl
@[simp] theorem Team.wrC_sreg (t : Team) (r : Nat) (c : Cap) : (t.wrC r c).sreg = t.sreg := by unfold Team.wrC; split <;> rfl
@[simp] theorem Team.wrC_kreg (t : Team) (r : Nat) (c : Cap) : (t.wrC r c).kreg = t.kreg := by unfold Team.wrC; split <;> rfl
@[simp] theorem Team.wrC_mode (t : Team) (r : Nat) (c : Cap) : (t.wrC r c).mode = t.mode := by unfold Team.wrC; split <;> rfl
@[simp] theorem Team.wrC_pc (t : Team) (r : Nat) (c : Cap) : (t.wrC r c).pc = t.pc := by unfold Team.wrC; split <;> rfl
@[simp] theorem Team.wrC_dlleft (t : Team) (r : Nat) (c : Cap) : (t.wrC r c).dlleft = t.dlleft := by unfold Team.wrC; split <;> rfl
@[simp] theorem Team.wrC_pri (t : Team) (r : Nat) (c : Cap) : (t.wrC r c).pri = t.pri := by unfold Team.wrC; split <;> rfl
@[simp] theorem Team.wrC_pricap (t : Team) (r : Nat) (c : Cap) : (t.wrC r c).pricap = t.pricap := by unfold Team.wrC; split <;> rfl
@[simp] theorem Team.wrC_roleix (t : Team) (r : Nat) (c : Cap) : (t.wrC r c).roleix = t.roleix := by unfold Team.wrC; split <;> rfl
@[simp] theorem Team.wrC_allot (t : Team) (r : Nat) (c : Cap) : (t.wrC r c).allot = t.allot := by unfold Team.wrC; split <;> rfl
@[simp] theorem Team.wrC_crews (t : Team) (r : Nat) (c : Cap) : (t.wrC r c).crews = t.crews := by unfold Team.wrC; split <;> rfl
@[simp] theorem Team.wrC_inHandler (t : Team) (r : Nat) (c : Cap) : (t.wrC r c).inHandler = t.inHandler := by unfold Team.wrC; split <;> rfl
@[simp] theorem Team.wrC_loop (t : Team) (r : Nat) (c : Cap) : (t.wrC r c).loop = t.loop := by unfold Team.wrC; split <;> rfl
@[simp] theorem Team.wrC_shadow (t : Team) (r : Nat) (c : Cap) : (t.wrC r c).shadow = t.shadow := by unfold Team.wrC; split <;> rfl
@[simp] theorem Team.wrC_bkpc (t : Team) (r : Nat) (c : Cap) : (t.wrC r c).bkpc = t.bkpc := by unfold Team.wrC; split <;> rfl
@[simp] theorem Team.wrC_bkctl (t : Team) (r : Nat) (c : Cap) : (t.wrC r c).bkctl = t.bkctl := by unfold Team.wrC; split <;> rfl
@[simp] theorem Team.wrC_noBreak (t : Team) (r : Nat) (c : Cap) : (t.wrC r c).noBreak = t.noBreak := by unfold Team.wrC; split <;> rfl
@[simp] theorem Team.wrC_yielded (t : Team) (r : Nat) (c : Cap) : (t.wrC r c).yielded = t.yielded := by unfold Team.wrC; split <;> rfl
@[simp] theorem Team.wrC_gen (t : Team) (r : Nat) (c : Cap) : (t.wrC r c).gen = t.gen := by unfold Team.wrC; split <;> rfl
@[simp] theorem Team.wrC_monitor (t : Team) (r : Nat) (c : Cap) : (t.wrC r c).monitor = t.monitor := by unfold Team.wrC; split <;> rfl
@[simp] theorem Team.wrC_wait (t : Team) (r : Nat) (c : Cap) : (t.wrC r c).wait = t.wait := by unfold Team.wrC; split <;> rfl
@[simp] theorem Team.wrC_outStores (t : Team) (r : Nat) (c : Cap) : (t.wrC r c).outStores = t.outStores := by unfold Team.wrC; split <;> rfl
@[simp] theorem Team.wrC_mclosed (t : Team) (r : Nat) (c : Cap) : (t.wrC r c).mclosed = t.mclosed := by unfold Team.wrC; split <;> rfl
@[simp] theorem Team.wrC_mdone (t : Team) (r : Nat) (c : Cap) : (t.wrC r c).mdone = t.mdone := by unfold Team.wrC; split <;> rfl
@[simp] theorem Team.wrC_merr (t : Team) (r : Nat) (c : Cap) : (t.wrC r c).merr = t.merr := by unfold Team.wrC; split <;> rfl
@[simp] theorem Team.wrC_mbad (t : Team) (r : Nat) (c : Cap) : (t.wrC r c).mbad = t.mbad := by unfold Team.wrC; split <;> rfl
@[simp] theorem Team.wrC_aging (t : Team) (r : Nat) (c : Cap) : (t.wrC r c).aging = t.aging := by unfold Team.wrC; split <;> rfl
@[simp] theorem Team.wrC_aged (t : Team) (r : Nat) (c : Cap) : (t.wrC r c).aged = t.aged := by unfold Team.wrC; split <;> rfl
@[simp] theorem Team.wrC_privBase (t : Team) (r : Nat) (c : Cap) : (t.wrC r c).privBase = t.privBase := by unfold Team.wrC; split <;> rfl
@[simp] theorem Team.wrC_privLen (t : Team) (r : Nat) (c : Cap) : (t.wrC r c).privLen = t.privLen := by unfold Team.wrC; split <;> rfl
@[simp] theorem Team.wrC_ended (t : Team) (r : Nat) (c : Cap) : (t.wrC r c).ended = t.ended := by unfold Team.wrC; split <;> rfl

/-! ### Team.soilCap -/

@[simp] theorem Team.soilCap_v (t : Team) (r : Nat) (b : Bool) : (t.soilCap r b).v = t.v := by unfold Team.soilCap; split <;> rfl
@[simp] theorem Team.soilCap_vtag (t : Team) (r : Nat) (b : Bool) : (t.soilCap r b).vtag = t.vtag := by unfold Team.soilCap; split <;> rfl
@[simp] theorem Team.soilCap_vpoison (t : Team) (r : Nat) (b : Bool) : (t.soilCap r b).vpoison = t.vpoison := by unfold Team.soilCap; split <;> rfl
@[simp] theorem Team.soilCap_sreg (t : Team) (r : Nat) (b : Bool) : (t.soilCap r b).sreg = t.sreg := by unfold Team.soilCap; split <;> rfl
@[simp] theorem Team.soilCap_creg (t : Team) (r : Nat) (b : Bool) : (t.soilCap r b).creg = t.creg := by unfold Team.soilCap; split <;> rfl
@[simp] theorem Team.soilCap_kreg (t : Team) (r : Nat) (b : Bool) : (t.soilCap r b).kreg = t.kreg := by unfold Team.soilCap; split <;> rfl
@[simp] theorem Team.soilCap_mode (t : Team) (r : Nat) (b : Bool) : (t.soilCap r b).mode = t.mode := by unfold Team.soilCap; split <;> rfl
@[simp] theorem Team.soilCap_pc (t : Team) (r : Nat) (b : Bool) : (t.soilCap r b).pc = t.pc := by unfold Team.soilCap; split <;> rfl
@[simp] theorem Team.soilCap_dlleft (t : Team) (r : Nat) (b : Bool) : (t.soilCap r b).dlleft = t.dlleft := by unfold Team.soilCap; split <;> rfl
@[simp] theorem Team.soilCap_pri (t : Team) (r : Nat) (b : Bool) : (t.soilCap r b).pri = t.pri := by unfold Team.soilCap; split <;> rfl
@[simp] theorem Team.soilCap_pricap (t : Team) (r : Nat) (b : Bool) : (t.soilCap r b).pricap = t.pricap := by unfold Team.soilCap; split <;> rfl
@[simp] theorem Team.soilCap_roleix (t : Team) (r : Nat) (b : Bool) : (t.soilCap r b).roleix = t.roleix := by unfold Team.soilCap; split <;> rfl
@[simp] theorem Team.soilCap_allot (t : Team) (r : Nat) (b : Bool) : (t.soilCap r b).allot = t.allot := by unfold Team.soilCap; split <;> rfl
@[simp] theorem Team.soilCap_crews (t : Team) (r : Nat) (b : Bool) : (t.soilCap r b).crews = t.crews := by unfold Team.soilCap; split <;> rfl
@[simp] theorem Team.soilCap_inHandler (t : Team) (r : Nat) (b : Bool) : (t.soilCap r b).inHandler = t.inHandler := by unfold Team.soilCap; split <;> rfl
@[simp] theorem Team.soilCap_loop (t : Team) (r : Nat) (b : Bool) : (t.soilCap r b).loop = t.loop := by unfold Team.soilCap; split <;> rfl
@[simp] theorem Team.soilCap_shadow (t : Team) (r : Nat) (b : Bool) : (t.soilCap r b).shadow = t.shadow := by unfold Team.soilCap; split <;> rfl
@[simp] theorem Team.soilCap_bkpc (t : Team) (r : Nat) (b : Bool) : (t.soilCap r b).bkpc = t.bkpc := by unfold Team.soilCap; split <;> rfl
@[simp] theorem Team.soilCap_bkctl (t : Team) (r : Nat) (b : Bool) : (t.soilCap r b).bkctl = t.bkctl := by unfold Team.soilCap; split <;> rfl
@[simp] theorem Team.soilCap_noBreak (t : Team) (r : Nat) (b : Bool) : (t.soilCap r b).noBreak = t.noBreak := by unfold Team.soilCap; split <;> rfl
@[simp] theorem Team.soilCap_yielded (t : Team) (r : Nat) (b : Bool) : (t.soilCap r b).yielded = t.yielded := by unfold Team.soilCap; split <;> rfl
@[simp] theorem Team.soilCap_gen (t : Team) (r : Nat) (b : Bool) : (t.soilCap r b).gen = t.gen := by unfold Team.soilCap; split <;> rfl
@[simp] theorem Team.soilCap_monitor (t : Team) (r : Nat) (b : Bool) : (t.soilCap r b).monitor = t.monitor := by unfold Team.soilCap; split <;> rfl
@[simp] theorem Team.soilCap_wait (t : Team) (r : Nat) (b : Bool) : (t.soilCap r b).wait = t.wait := by unfold Team.soilCap; split <;> rfl
@[simp] theorem Team.soilCap_outStores (t : Team) (r : Nat) (b : Bool) : (t.soilCap r b).outStores = t.outStores := by unfold Team.soilCap; split <;> rfl
@[simp] theorem Team.soilCap_mclosed (t : Team) (r : Nat) (b : Bool) : (t.soilCap r b).mclosed = t.mclosed := by unfold Team.soilCap; split <;> rfl
@[simp] theorem Team.soilCap_mdone (t : Team) (r : Nat) (b : Bool) : (t.soilCap r b).mdone = t.mdone := by unfold Team.soilCap; split <;> rfl
@[simp] theorem Team.soilCap_merr (t : Team) (r : Nat) (b : Bool) : (t.soilCap r b).merr = t.merr := by unfold Team.soilCap; split <;> rfl
@[simp] theorem Team.soilCap_mbad (t : Team) (r : Nat) (b : Bool) : (t.soilCap r b).mbad = t.mbad := by unfold Team.soilCap; split <;> rfl
@[simp] theorem Team.soilCap_aging (t : Team) (r : Nat) (b : Bool) : (t.soilCap r b).aging = t.aging := by unfold Team.soilCap; split <;> rfl
@[simp] theorem Team.soilCap_aged (t : Team) (r : Nat) (b : Bool) : (t.soilCap r b).aged = t.aged := by unfold Team.soilCap; split <;> rfl
@[simp] theorem Team.soilCap_privBase (t : Team) (r : Nat) (b : Bool) : (t.soilCap r b).privBase = t.privBase := by unfold Team.soilCap; split <;> rfl
@[simp] theorem Team.soilCap_privLen (t : Team) (r : Nat) (b : Bool) : (t.soilCap r b).privLen = t.privLen := by unfold Team.soilCap; split <;> rfl
@[simp] theorem Team.soilCap_ended (t : Team) (r : Nat) (b : Bool) : (t.soilCap r b).ended = t.ended := by unfold Team.soilCap; split <;> rfl

/-! ### Team.wrW -/

@[simp] theorem Team.wrW_vpoison (t : Team) (wide : Bool) (lane r x : Nat) : (t.wrW wide lane r x).vpoison = t.vpoison := by cases wide <;> rfl
@[simp] theorem Team.wrW_sreg (t : Team) (wide : Bool) (lane r x : Nat) : (t.wrW wide lane r x).sreg = t.sreg := by cases wide <;> rfl
@[simp] theorem Team.wrW_creg (t : Team) (wide : Bool) (lane r x : Nat) : (t.wrW wide lane r x).creg = t.creg := by cases wide <;> rfl
@[simp] theorem Team.wrW_cpoison (t : Team) (wide : Bool) (lane r x : Nat) : (t.wrW wide lane r x).cpoison = t.cpoison := by cases wide <;> rfl
@[simp] theorem Team.wrW_kreg (t : Team) (wide : Bool) (lane r x : Nat) : (t.wrW wide lane r x).kreg = t.kreg := by cases wide <;> rfl
@[simp] theorem Team.wrW_mode (t : Team) (wide : Bool) (lane r x : Nat) : (t.wrW wide lane r x).mode = t.mode := by cases wide <;> rfl
@[simp] theorem Team.wrW_pc (t : Team) (wide : Bool) (lane r x : Nat) : (t.wrW wide lane r x).pc = t.pc := by cases wide <;> rfl
@[simp] theorem Team.wrW_dlleft (t : Team) (wide : Bool) (lane r x : Nat) : (t.wrW wide lane r x).dlleft = t.dlleft := by cases wide <;> rfl
@[simp] theorem Team.wrW_pri (t : Team) (wide : Bool) (lane r x : Nat) : (t.wrW wide lane r x).pri = t.pri := by cases wide <;> rfl
@[simp] theorem Team.wrW_pricap (t : Team) (wide : Bool) (lane r x : Nat) : (t.wrW wide lane r x).pricap = t.pricap := by cases wide <;> rfl
@[simp] theorem Team.wrW_roleix (t : Team) (wide : Bool) (lane r x : Nat) : (t.wrW wide lane r x).roleix = t.roleix := by cases wide <;> rfl
@[simp] theorem Team.wrW_allot (t : Team) (wide : Bool) (lane r x : Nat) : (t.wrW wide lane r x).allot = t.allot := by cases wide <;> rfl
@[simp] theorem Team.wrW_crews (t : Team) (wide : Bool) (lane r x : Nat) : (t.wrW wide lane r x).crews = t.crews := by cases wide <;> rfl
@[simp] theorem Team.wrW_inHandler (t : Team) (wide : Bool) (lane r x : Nat) : (t.wrW wide lane r x).inHandler = t.inHandler := by cases wide <;> rfl
@[simp] theorem Team.wrW_loop (t : Team) (wide : Bool) (lane r x : Nat) : (t.wrW wide lane r x).loop = t.loop := by cases wide <;> rfl
@[simp] theorem Team.wrW_shadow (t : Team) (wide : Bool) (lane r x : Nat) : (t.wrW wide lane r x).shadow = t.shadow := by cases wide <;> rfl
@[simp] theorem Team.wrW_bkpc (t : Team) (wide : Bool) (lane r x : Nat) : (t.wrW wide lane r x).bkpc = t.bkpc := by cases wide <;> rfl
@[simp] theorem Team.wrW_bkctl (t : Team) (wide : Bool) (lane r x : Nat) : (t.wrW wide lane r x).bkctl = t.bkctl := by cases wide <;> rfl
@[simp] theorem Team.wrW_noBreak (t : Team) (wide : Bool) (lane r x : Nat) : (t.wrW wide lane r x).noBreak = t.noBreak := by cases wide <;> rfl
@[simp] theorem Team.wrW_yielded (t : Team) (wide : Bool) (lane r x : Nat) : (t.wrW wide lane r x).yielded = t.yielded := by cases wide <;> rfl
@[simp] theorem Team.wrW_gen (t : Team) (wide : Bool) (lane r x : Nat) : (t.wrW wide lane r x).gen = t.gen := by cases wide <;> rfl
@[simp] theorem Team.wrW_monitor (t : Team) (wide : Bool) (lane r x : Nat) : (t.wrW wide lane r x).monitor = t.monitor := by cases wide <;> rfl
@[simp] theorem Team.wrW_wait (t : Team) (wide : Bool) (lane r x : Nat) : (t.wrW wide lane r x).wait = t.wait := by cases wide <;> rfl
@[simp] theorem Team.wrW_outStores (t : Team) (wide : Bool) (lane r x : Nat) : (t.wrW wide lane r x).outStores = t.outStores := by cases wide <;> rfl
@[simp] theorem Team.wrW_mclosed (t : Team) (wide : Bool) (lane r x : Nat) : (t.wrW wide lane r x).mclosed = t.mclosed := by cases wide <;> rfl
@[simp] theorem Team.wrW_mdone (t : Team) (wide : Bool) (lane r x : Nat) : (t.wrW wide lane r x).mdone = t.mdone := by cases wide <;> rfl
@[simp] theorem Team.wrW_merr (t : Team) (wide : Bool) (lane r x : Nat) : (t.wrW wide lane r x).merr = t.merr := by cases wide <;> rfl
@[simp] theorem Team.wrW_mbad (t : Team) (wide : Bool) (lane r x : Nat) : (t.wrW wide lane r x).mbad = t.mbad := by cases wide <;> rfl
@[simp] theorem Team.wrW_aging (t : Team) (wide : Bool) (lane r x : Nat) : (t.wrW wide lane r x).aging = t.aging := by cases wide <;> rfl
@[simp] theorem Team.wrW_aged (t : Team) (wide : Bool) (lane r x : Nat) : (t.wrW wide lane r x).aged = t.aged := by cases wide <;> rfl
@[simp] theorem Team.wrW_privBase (t : Team) (wide : Bool) (lane r x : Nat) : (t.wrW wide lane r x).privBase = t.privBase := by cases wide <;> rfl
@[simp] theorem Team.wrW_privLen (t : Team) (wide : Bool) (lane r x : Nat) : (t.wrW wide lane r x).privLen = t.privLen := by cases wide <;> rfl
@[simp] theorem Team.wrW_ended (t : Team) (wide : Bool) (lane r x : Nat) : (t.wrW wide lane r x).ended = t.ended := by cases wide <;> rfl

/-! ### Team.wrQuad -/

@[simp] theorem Team.wrQuad_sreg (t : Team) (lane q : Nat) (c : Cap) : (t.wrQuad lane q c).sreg = t.sreg := by simp [Team.wrQuad]
@[simp] theorem Team.wrQuad_creg (t : Team) (lane q : Nat) (c : Cap) : (t.wrQuad lane q c).creg = t.creg := by simp [Team.wrQuad]
@[simp] theorem Team.wrQuad_cpoison (t : Team) (lane q : Nat) (c : Cap) : (t.wrQuad lane q c).cpoison = t.cpoison := by simp [Team.wrQuad]
@[simp] theorem Team.wrQuad_kreg (t : Team) (lane q : Nat) (c : Cap) : (t.wrQuad lane q c).kreg = t.kreg := by simp [Team.wrQuad]
@[simp] theorem Team.wrQuad_mode (t : Team) (lane q : Nat) (c : Cap) : (t.wrQuad lane q c).mode = t.mode := by simp [Team.wrQuad]
@[simp] theorem Team.wrQuad_pc (t : Team) (lane q : Nat) (c : Cap) : (t.wrQuad lane q c).pc = t.pc := by simp [Team.wrQuad]
@[simp] theorem Team.wrQuad_dlleft (t : Team) (lane q : Nat) (c : Cap) : (t.wrQuad lane q c).dlleft = t.dlleft := by simp [Team.wrQuad]
@[simp] theorem Team.wrQuad_pri (t : Team) (lane q : Nat) (c : Cap) : (t.wrQuad lane q c).pri = t.pri := by simp [Team.wrQuad]
@[simp] theorem Team.wrQuad_pricap (t : Team) (lane q : Nat) (c : Cap) : (t.wrQuad lane q c).pricap = t.pricap := by simp [Team.wrQuad]
@[simp] theorem Team.wrQuad_roleix (t : Team) (lane q : Nat) (c : Cap) : (t.wrQuad lane q c).roleix = t.roleix := by simp [Team.wrQuad]
@[simp] theorem Team.wrQuad_allot (t : Team) (lane q : Nat) (c : Cap) : (t.wrQuad lane q c).allot = t.allot := by simp [Team.wrQuad]
@[simp] theorem Team.wrQuad_crews (t : Team) (lane q : Nat) (c : Cap) : (t.wrQuad lane q c).crews = t.crews := by simp [Team.wrQuad]
@[simp] theorem Team.wrQuad_inHandler (t : Team) (lane q : Nat) (c : Cap) : (t.wrQuad lane q c).inHandler = t.inHandler := by simp [Team.wrQuad]
@[simp] theorem Team.wrQuad_loop (t : Team) (lane q : Nat) (c : Cap) : (t.wrQuad lane q c).loop = t.loop := by simp [Team.wrQuad]
@[simp] theorem Team.wrQuad_shadow (t : Team) (lane q : Nat) (c : Cap) : (t.wrQuad lane q c).shadow = t.shadow := by simp [Team.wrQuad]
@[simp] theorem Team.wrQuad_bkpc (t : Team) (lane q : Nat) (c : Cap) : (t.wrQuad lane q c).bkpc = t.bkpc := by simp [Team.wrQuad]
@[simp] theorem Team.wrQuad_bkctl (t : Team) (lane q : Nat) (c : Cap) : (t.wrQuad lane q c).bkctl = t.bkctl := by simp [Team.wrQuad]
@[simp] theorem Team.wrQuad_noBreak (t : Team) (lane q : Nat) (c : Cap) : (t.wrQuad lane q c).noBreak = t.noBreak := by simp [Team.wrQuad]
@[simp] theorem Team.wrQuad_yielded (t : Team) (lane q : Nat) (c : Cap) : (t.wrQuad lane q c).yielded = t.yielded := by simp [Team.wrQuad]
@[simp] theorem Team.wrQuad_gen (t : Team) (lane q : Nat) (c : Cap) : (t.wrQuad lane q c).gen = t.gen := by simp [Team.wrQuad]
@[simp] theorem Team.wrQuad_monitor (t : Team) (lane q : Nat) (c : Cap) : (t.wrQuad lane q c).monitor = t.monitor := by simp [Team.wrQuad]
@[simp] theorem Team.wrQuad_wait (t : Team) (lane q : Nat) (c : Cap) : (t.wrQuad lane q c).wait = t.wait := by simp [Team.wrQuad]
@[simp] theorem Team.wrQuad_outStores (t : Team) (lane q : Nat) (c : Cap) : (t.wrQuad lane q c).outStores = t.outStores := by simp [Team.wrQuad]
@[simp] theorem Team.wrQuad_mclosed (t : Team) (lane q : Nat) (c : Cap) : (t.wrQuad lane q c).mclosed = t.mclosed := by simp [Team.wrQuad]
@[simp] theorem Team.wrQuad_mdone (t : Team) (lane q : Nat) (c : Cap) : (t.wrQuad lane q c).mdone = t.mdone := by simp [Team.wrQuad]
@[simp] theorem Team.wrQuad_merr (t : Team) (lane q : Nat) (c : Cap) : (t.wrQuad lane q c).merr = t.merr := by simp [Team.wrQuad]
@[simp] theorem Team.wrQuad_mbad (t : Team) (lane q : Nat) (c : Cap) : (t.wrQuad lane q c).mbad = t.mbad := by simp [Team.wrQuad]
@[simp] theorem Team.wrQuad_aging (t : Team) (lane q : Nat) (c : Cap) : (t.wrQuad lane q c).aging = t.aging := by simp [Team.wrQuad]
@[simp] theorem Team.wrQuad_aged (t : Team) (lane q : Nat) (c : Cap) : (t.wrQuad lane q c).aged = t.aged := by simp [Team.wrQuad]
@[simp] theorem Team.wrQuad_privBase (t : Team) (lane q : Nat) (c : Cap) : (t.wrQuad lane q c).privBase = t.privBase := by simp [Team.wrQuad]
@[simp] theorem Team.wrQuad_privLen (t : Team) (lane q : Nat) (c : Cap) : (t.wrQuad lane q c).privLen = t.privLen := by simp [Team.wrQuad]
@[simp] theorem Team.wrQuad_ended (t : Team) (lane q : Nat) (c : Cap) : (t.wrQuad lane q c).ended = t.ended := by simp [Team.wrQuad]

/-! ### Team.setQuadPoison -/

@[simp] theorem Team.setQuadPoison_v (t : Team) (lane q : Nat) (b : Bool) : (t.setQuadPoison lane q b).v = t.v := rfl
@[simp] theorem Team.setQuadPoison_vtag (t : Team) (lane q : Nat) (b : Bool) : (t.setQuadPoison lane q b).vtag = t.vtag := rfl
@[simp] theorem Team.setQuadPoison_sreg (t : Team) (lane q : Nat) (b : Bool) : (t.setQuadPoison lane q b).sreg = t.sreg := rfl
@[simp] theorem Team.setQuadPoison_creg (t : Team) (lane q : Nat) (b : Bool) : (t.setQuadPoison lane q b).creg = t.creg := rfl
@[simp] theorem Team.setQuadPoison_cpoison (t : Team) (lane q : Nat) (b : Bool) : (t.setQuadPoison lane q b).cpoison = t.cpoison := rfl
@[simp] theorem Team.setQuadPoison_kreg (t : Team) (lane q : Nat) (b : Bool) : (t.setQuadPoison lane q b).kreg = t.kreg := rfl
@[simp] theorem Team.setQuadPoison_mode (t : Team) (lane q : Nat) (b : Bool) : (t.setQuadPoison lane q b).mode = t.mode := rfl
@[simp] theorem Team.setQuadPoison_pc (t : Team) (lane q : Nat) (b : Bool) : (t.setQuadPoison lane q b).pc = t.pc := rfl
@[simp] theorem Team.setQuadPoison_dlleft (t : Team) (lane q : Nat) (b : Bool) : (t.setQuadPoison lane q b).dlleft = t.dlleft := rfl
@[simp] theorem Team.setQuadPoison_pri (t : Team) (lane q : Nat) (b : Bool) : (t.setQuadPoison lane q b).pri = t.pri := rfl
@[simp] theorem Team.setQuadPoison_pricap (t : Team) (lane q : Nat) (b : Bool) : (t.setQuadPoison lane q b).pricap = t.pricap := rfl
@[simp] theorem Team.setQuadPoison_roleix (t : Team) (lane q : Nat) (b : Bool) : (t.setQuadPoison lane q b).roleix = t.roleix := rfl
@[simp] theorem Team.setQuadPoison_allot (t : Team) (lane q : Nat) (b : Bool) : (t.setQuadPoison lane q b).allot = t.allot := rfl
@[simp] theorem Team.setQuadPoison_crews (t : Team) (lane q : Nat) (b : Bool) : (t.setQuadPoison lane q b).crews = t.crews := rfl
@[simp] theorem Team.setQuadPoison_inHandler (t : Team) (lane q : Nat) (b : Bool) : (t.setQuadPoison lane q b).inHandler = t.inHandler := rfl
@[simp] theorem Team.setQuadPoison_loop (t : Team) (lane q : Nat) (b : Bool) : (t.setQuadPoison lane q b).loop = t.loop := rfl
@[simp] theorem Team.setQuadPoison_shadow (t : Team) (lane q : Nat) (b : Bool) : (t.setQuadPoison lane q b).shadow = t.shadow := rfl
@[simp] theorem Team.setQuadPoison_bkpc (t : Team) (lane q : Nat) (b : Bool) : (t.setQuadPoison lane q b).bkpc = t.bkpc := rfl
@[simp] theorem Team.setQuadPoison_bkctl (t : Team) (lane q : Nat) (b : Bool) : (t.setQuadPoison lane q b).bkctl = t.bkctl := rfl
@[simp] theorem Team.setQuadPoison_noBreak (t : Team) (lane q : Nat) (b : Bool) : (t.setQuadPoison lane q b).noBreak = t.noBreak := rfl
@[simp] theorem Team.setQuadPoison_yielded (t : Team) (lane q : Nat) (b : Bool) : (t.setQuadPoison lane q b).yielded = t.yielded := rfl
@[simp] theorem Team.setQuadPoison_gen (t : Team) (lane q : Nat) (b : Bool) : (t.setQuadPoison lane q b).gen = t.gen := rfl
@[simp] theorem Team.setQuadPoison_monitor (t : Team) (lane q : Nat) (b : Bool) : (t.setQuadPoison lane q b).monitor = t.monitor := rfl
@[simp] theorem Team.setQuadPoison_wait (t : Team) (lane q : Nat) (b : Bool) : (t.setQuadPoison lane q b).wait = t.wait := rfl
@[simp] theorem Team.setQuadPoison_outStores (t : Team) (lane q : Nat) (b : Bool) : (t.setQuadPoison lane q b).outStores = t.outStores := rfl
@[simp] theorem Team.setQuadPoison_mclosed (t : Team) (lane q : Nat) (b : Bool) : (t.setQuadPoison lane q b).mclosed = t.mclosed := rfl
@[simp] theorem Team.setQuadPoison_mdone (t : Team) (lane q : Nat) (b : Bool) : (t.setQuadPoison lane q b).mdone = t.mdone := rfl
@[simp] theorem Team.setQuadPoison_merr (t : Team) (lane q : Nat) (b : Bool) : (t.setQuadPoison lane q b).merr = t.merr := rfl
@[simp] theorem Team.setQuadPoison_mbad (t : Team) (lane q : Nat) (b : Bool) : (t.setQuadPoison lane q b).mbad = t.mbad := rfl
@[simp] theorem Team.setQuadPoison_aging (t : Team) (lane q : Nat) (b : Bool) : (t.setQuadPoison lane q b).aging = t.aging := rfl
@[simp] theorem Team.setQuadPoison_aged (t : Team) (lane q : Nat) (b : Bool) : (t.setQuadPoison lane q b).aged = t.aged := rfl
@[simp] theorem Team.setQuadPoison_privBase (t : Team) (lane q : Nat) (b : Bool) : (t.setQuadPoison lane q b).privBase = t.privBase := rfl
@[simp] theorem Team.setQuadPoison_privLen (t : Team) (lane q : Nat) (b : Bool) : (t.setQuadPoison lane q b).privLen = t.privLen := rfl
@[simp] theorem Team.setQuadPoison_ended (t : Team) (lane q : Nat) (b : Bool) : (t.setQuadPoison lane q b).ended = t.ended := rfl

/-! ### Teams and shops by number -/

@[simp] theorem State.team?_setTeam (s : State) (n m : Nat) (t : Team) :
    (s.setTeam n t).team? m = if m = n then some t else s.team? m := by simp [State.team?, Sparse.look_insert]

@[simp] theorem State.team?_setShop (s : State) (n m : Nat) (x : Shop) : (s.setShop n x).team? m = s.team? m := rfl

@[simp] theorem State.shop?_setShop (s : State) (n m : Nat) (x : Shop) :
    (s.setShop n x).shop? m = if m = n then some x else s.shop? m := by simp [State.shop?, Sparse.look_insert]

@[simp] theorem State.shop?_setTeam (s : State) (n m : Nat) (t : Team) : (s.setTeam n t).shop? m = s.shop? m := rfl

/-! ### Registers -/

@[simp] theorem Team.rdS_wrS (t : Team) (r q : Nat) (x : W64) : (t.wrS r x).rdS q = if q = r then x else t.rdS q := by
  simp [Team.rdS, Team.wrS, Sparse.get_set]

@[simp] theorem Team.rdV_wrS (t : Team) (r lane q : Nat) (x : W64) : (t.wrS r x).rdV lane q = t.rdV lane q := rfl

@[simp] theorem Team.rdK_wrS (t : Team) (r q : Nat) (x : W64) : (t.wrS r x).rdK q = t.rdK q := rfl

@[simp] theorem Team.rdC_wrS (t : Team) (r q : Nat) (x : W64) : (t.wrS r x).rdC q = t.rdC q := rfl

@[simp] theorem Team.rdK_wrK (t : Team) (lanes r q : Nat) (m : Mask) :
    (t.wrK lanes r m).rdK q = if q = r then m &&& laneMask lanes else t.rdK q := by
  simp [Team.rdK, Team.wrK, Sparse.get_set]

@[simp] theorem Team.rdV_wrV (t : Team) (lane r l q : Nat) (x : W32) :
    (t.wrV lane r x).rdV l q = if l * 256 + q = lane * 256 + r then x else t.rdV l q := by
  simp [Team.rdV, Team.wrV, Sparse.get_set]

@[simp] theorem Team.rdS_wrV (t : Team) (lane r q : Nat) (x : W32) : (t.wrV lane r x).rdS q = t.rdS q := rfl

@[simp] theorem Team.rdV_wrGen (t : Team) (lane l q : Nat) (x : W32) : (t.wrGen lane x).rdV l q = t.rdV l q := rfl

@[simp] theorem Team.rdGen_wrGen (t : Team) (lane l : Nat) (x : W32) :
    (t.wrGen lane x).rdGen l = if l = lane then x else t.rdGen l := by
  simp [Team.rdGen, Team.wrGen, Sparse.get_set]

/-- c0 reads as null, whatever has been written to it (R61). -/
@[simp] theorem Team.rdC_zero (t : Team) : t.rdC 0 = Cap.null := rfl

@[simp] theorem Team.rdC_wrC (t : Team) (r q : Nat) (c : Cap) : (t.wrC r c).rdC q = if q = r ∧ r ≠ 0 then c else t.rdC q := by
  unfold Team.wrC Team.rdC
  by_cases hr : r = 0
  · simp [hr]
  · by_cases hq : q = 0
    · subst hq; simp [hr, Ne.symm hr]
    · simp [hr, hq, Sparse.get_set]

/-- A write of a capability register replaces its poison (R61, R186). -/
@[simp] theorem Team.capPoison_wrC (t : Team) (r q : Nat) (c : Cap) (hq : q < 32) :
    (t.wrC r c).capPoison q = (t.capPoison q && !(decide (q = r) && decide (r ≠ 0))) := by
  unfold Team.wrC Team.capPoison
  by_cases hr : r = 0
  · simp [hr]
  · by_cases h : q = r
    · subst h; simp [hr, hq]
    · have : q < r ∨ ¬ q - r = 0 := by omega
      simp [hr, h, hq, this]

@[simp] theorem Team.capPoison_soilCap (t : Team) (r q : Nat) (b : Bool) (hq : q < 32) :
    (t.soilCap r b).capPoison q = (t.capPoison q || (b && decide (r ≠ 0) && decide (q = r))) := by
  unfold Team.soilCap Team.capPoison
  by_cases h : q = r
  · subst h; cases b <;> by_cases hr : q = 0 <;> simp [hr, hq]
  · have : r ≤ q → ¬ q - r = 0 := by omega
    cases b <;> by_cases hr : r = 0 <;> simp +contextual [hr, h, hq, this]

end Sys2Proof.Machine
end

