-- ==== Sys2Proof/Laws/Word.lean ====
section
/-!
SUPPORT. What the shared shapes of words answer: one lemma each for a word, a word that changes its team, and a guarded
word over lanes.
-/

namespace Sys2Proof.Machine

theorem ctx_eta (x : Ctx) : (⟨x.n, x.t, x.sh⟩ : Ctx) = x := rfl

/-- A word that issues passes the checks at decode, unless it is the illegal opcode. -/
theorem Issues.decodes {i : Instr} {s : State} {x : Ctx} (h : Issues i s x) : x.decodeCheck i = .ok () := by
  obtain ⟨-, -, -, -, -, hw, hl, hm⟩ := h
  unfold Ctx.decodeCheck
  split
  · simp [WellFormed] at hw
  · rw [if_neg, if_pos]
    · simp [hw, hl]
    · intro hc
      simp only [Bool.and_eq_true] at hc
      exact Bool.false_ne_true ((hm hc.1).symm.trans hc.2)

/-- A word that issues answers what its body answers. -/
theorem wordStep_issues {i : Instr} {s : State} {x : Ctx} (h : Issues i s x) (body : Ctx → State → Effect) :
    wordStep i body s = match body x s with
      | .ok (s1, f) => .next (s1.settle x.n x.sh.lanes i f)
      | .error e => .next (s.takeFault x.n e (BitVec.ofNat 32 (encodeNat i)) (literalOf i)) := by
  have hd := h.decodes
  obtain ⟨h1, h2, h3, h4, h5, -⟩ := h
  unfold wordStep
  simp only [h1, h2, h3, h4, h5, Wait.resumedBy, ctx_eta, hd]
  cases body x s <;> simp

/-- A blocking word that issues again answers what its body answers. -/
theorem wordStep_reissues {i : Instr} {s : State} {x : Ctx} {p : Bool} (h : Reissues i s x p) (body : Ctx → State → Effect) :
    wordStep i body s = match body x s with
      | .ok (s1, f) => .next (s1.settle x.n x.sh.lanes i f)
      | .error e => .next (s.takeFault x.n e (BitVec.ofNat 32 (encodeNat i)) (literalOf i)) := by
  obtain ⟨h1, h2, h3, h4, h5, hw, hl, hm⟩ := h
  have hd : x.decodeCheck i = .ok () := by
    unfold Ctx.decodeCheck
    split
    · simp [WellFormed] at hw
    · rw [if_neg, if_pos]
      · simp [hw, hl]
      · intro hc
        simp only [Bool.and_eq_true] at hc
        exact Bool.false_ne_true ((hm hc.1).symm.trans hc.2)
  unfold wordStep
  simp only [h1, h2, h3, h4, h5, Wait.resumedBy, ctx_eta, hd]
  cases body x s <;> simp

/-- A word that changes its team and nothing else. -/
theorem teamStep_issues {i : Instr} {s : State} {x : Ctx} (h : Issues i s x) {f : Ctx → Except Trap Team} {t : Team}
    (hf : f x = .ok t) : teamStep i f s = .next (s.afterWord x i t .next) := by
  simp [teamStep, wordStep_issues h, hf, State.afterWord]

/-- A word that changes its team, when it faults. -/
theorem teamStep_faults {i : Instr} {s : State} {x : Ctx} (h : Issues i s x) {f : Ctx → Except Trap Team} {e : Trap}
    (hf : f x = .error e) :
    teamStep i f s = .next (s.takeFault x.n e (BitVec.ofNat 32 (encodeNat i)) (literalOf i)) := by
  simp [teamStep, wordStep_issues h, hf]

/-! ### Operand checks -/

theorem needV_ok {x : Ctx} {wide : Bool} {r : Nat} (h : regOk x wide r) : needV x wide r = .ok () := by
  unfold regOk at h
  cases wide <;> simp_all [needV, need]

theorem needTy_ok {x : Ctx} {p : Ty → Bool} {ty : Ty} (h : x.t.ty? = some ty) (hp : p ty = true) : needTy x p = .ok ty := by
  simp [needTy, h, hp]

@[simp] theorem both_ok (b : Except Trap Unit) : both (.ok ()) b = b := rfl

@[simp] theorem both_ok_right (a : Except Trap Unit) : both a (.ok ()) = a := by
  cases a <;> rfl

/-! ### Lanes -/

theorem mem_lanesOf {m : Mask} {lanes l : Nat} : l ∈ lanesOf m lanes ↔ l < lanes ∧ m.getLsbD l = true := by
  simp [lanesOf]

theorem mem_lanes {x : Ctx} {l : Nat} : l ∈ x.lanes ↔ x.liveLane l := mem_lanesOf

theorem lanesOf_nodup (m : Mask) (lanes : Nat) : (lanesOf m lanes).Nodup := List.nodup_range.filter _

@[simp] theorem forLanes_nil (f : Nat → Team → Team) (t : Team) : forLanes f [] t = t := rfl

@[simp] theorem forLanes_cons (f : Nat → Team → Team) (l : Nat) (ls : List Nat) (t : Team) :
    forLanes f (l :: ls) t = forLanes f ls (f l t) := rfl

/-- A property of the team that every lane's update keeps holds after all of them. -/
theorem forLanes_keeps {f : Nat → Team → Team} {P : Team → Prop} {ls : List Nat} (hf : ∀ l ∈ ls, ∀ t, P t → P (f l t)) {t : Team} (h : P t) :
    P (forLanes f ls t) := by
  induction ls generalizing t with
  | nil => exact h
  | cons l ls ih =>
    exact ih (fun k hk => hf k (List.mem_cons_of_mem _ hk)) (hf l List.mem_cons_self t h)

/-- What one lane's update establishes holds after all of them, when the other lanes' updates keep it. -/
theorem forLanes_lane {f : Nat → Team → Team} {P : Team → Prop} {ls : List Nat} (hd : ls.Nodup) {l : Nat} (hl : l ∈ ls)
    (h1 : ∀ t, P (f l t)) (h2 : ∀ k ∈ ls, k ≠ l → ∀ t, P t → P (f k t)) {t : Team} : P (forLanes f ls t) := by
  induction ls generalizing t with
  | nil => simp at hl
  | cons k ls ih =>
    rw [List.nodup_cons] at hd
    by_cases h : k = l
    · subst h
      exact forLanes_keeps (fun j hj t ht => h2 j (List.mem_cons_of_mem _ hj) (fun e => hd.1 (e ▸ hj)) t ht) (h1 t)
    · exact ih hd.2 (by simpa [Ne.symm h] using hl) (fun j hj => h2 j (List.mem_cons_of_mem _ hj))

/-- A guarded word whose TYPE and operands pass. -/
theorem vecStep_issues {i : Instr} {s : State} {x : Ctx} (h : Issues i s x) {p : Ty → Bool} {chk : Ctx → Ty → Except Trap Unit}
    {f : Ctx → Ty → Nat → Team → Team} {ty : Ty} (ht : x.t.ty? = some ty) (hp : p ty = true) (hc : chk x ty = .ok ()) :
    vecStep i p chk f s = .next (s.afterWord x i (forLanes (f x ty) x.lanes x.t) .next) :=
  teamStep_issues h (by simp [needTy_ok ht hp, hc])

/-- A guarded word that reads no TYPE, whose operands pass. -/
theorem laneStep_issues {i : Instr} {s : State} {x : Ctx} (h : Issues i s x) {chk : Ctx → Except Trap Unit}
    {f : Ctx → Nat → Team → Team} (hc : chk x = .ok ()) :
    laneStep i chk f s = .next (s.afterWord x i (forLanes (f x) x.lanes x.t) .next) :=
  teamStep_issues h (by simp [hc])

end Sys2Proof.Machine
end

