-- ==== Sys2Proof/Machine/Mras.lean ====
section
/-!
DEFINITION. mras, the assembler of the Brohar native instruction set (R210, R211, R213 to R217): from the text of a source
to the bytes of its code object (R218, R219). Syntax that the manual does not give is as log entry 166 says.
-/

namespace Sys2Proof.Machine

/-! ### Lines (R213) -/

/-- A token of a line. -/
inductive Tok where
  /-- Letters, digits, underscores and dots. -/
  | word (w : List Char)
  /-- Another character. -/
  | sym (c : Char)
deriving DecidableEq, Repr

/-- A character of a word. -/
def isWordChar (c : Char) : Bool := c.isAlphanum || c = '_' || c = '.'

/-- A character between tokens. -/
def isBlank (c : Char) : Bool := c = ' ' || c = '\t' || c = '\r'

/-- The tokens of a line up to its comment; `w` is the word read so far, reversed. -/
def tokens (w : List Char) : List Char → List Tok
  | [] => if w = [] then [] else [.word w.reverse]
  | c :: cs =>
    let done : List Tok := if w = [] then [] else [.word w.reverse]
    if isWordChar c then tokens (c :: w) cs
    else if c = ';' || (c = '/' && cs.head? = some '/') then done
    else if isBlank c then done ++ tokens [] cs
    else done ++ .sym c :: tokens [] cs

/-- An identifier: a letter or underscore, then letters, digits and underscores. -/
def isIdent : List Char → Bool
  | [] => false
  | c :: cs => (c.isAlpha || c = '_') && cs.all fun x => x.isAlphanum || x = '_'

/-- The value of a digit in a base. -/
def digitOf (base : Nat) (c : Char) : Option Nat :=
  let n := if c.isDigit then c.toNat - 48 else if 'a' ≤ c ∧ c ≤ 'f' then c.toNat - 87 else if 'A' ≤ c ∧ c ≤ 'F' then c.toNat - 55 else 99
  if n < base then some n else none

/-- Digits with underscores between them; `after`: the last character was a digit. -/
def digitsOf (base acc : Nat) (after : Bool) : List Char → Option Nat
  | [] => if after then some acc else none
  | c :: cs =>
    if c = '_' then (if after then digitsOf base acc false cs else none)
    else (digitOf base c).bind fun d => digitsOf base (acc * base + d) true cs

/-- A number: decimal, 0x or 0b. -/
def numberOf : List Char → Option Nat
  | '0' :: 'x' :: cs => digitsOf 16 0 false cs
  | '0' :: 'b' :: cs => digitsOf 2 0 false cs
  | cs => digitsOf 10 0 false cs

/-- Names are case-insensitive. -/
def lower (w : List Char) : List Char := w.map Char.toLower

/-- A value that a literal stands for. -/
inductive AsmVal where
  /-- A number. -/
  | num (n : Int)
  /-- A label or `.cap` symbol. -/
  | name (w : List Char)
deriving DecidableEq, Repr

/-- A literal: `#` and a number, a negative number, a label or a `.cap` symbol. -/
def litTok : List Tok → Option AsmVal
  | [.sym '#', .word w] => if isIdent w then some (.name w) else (numberOf w).map fun n => .num n
  | [.sym '#', .sym '-', .word w] => (numberOf w).map fun n => .num (-(n : Int))
  | _ => none

/-- An immediate. -/
def immTok (ts : List Tok) : Option Nat :=
  match litTok ts with
  | some (.num (.ofNat n)) => some n
  | _ => none

/-- The parts between commas. -/
def atCommas (cur : List Tok) : List Tok → List (List Tok)
  | [] => [cur.reverse]
  | .sym ',' :: ts => cur.reverse :: atCommas [] ts
  | t :: ts => atCommas (t :: cur) ts

/-- The operands of a line. -/
def operandsOf (ts : List Tok) : List (List Tok) := if ts = [] then [] else atCommas [] ts

/-! ### Operands (R200 to R202, R214) -/

/-- The register of a namespace letter. -/
def regOf (ns : Char) : List Tok → Option Nat
  | [.word (c :: cs)] => if c.toLower = ns && cs.all Char.isDigit then digitsOf 10 0 false cs else none
  | _ => none

/-- A quad `v4n q`: n. -/
def quadOf : List Tok → Option Nat
  | [.word w] =>
    match w.reverse with
    | c :: cs => if c.toLower = 'q' then (regOf 'v' [.word cs.reverse]).bind fun n => if n % 4 = 0 ∧ n < 256 then some (n / 4) else none else none
    | [] => none
  | _ => none

/-- A capability operand: a c register, or a quad with bit 7. -/
def capOf (ts : List Tok) : Option Nat :=
  match quadOf ts with
  | some n => some (128 + n)
  | none => (regOf 'c' ts).bind fun n => if n < 32 then some n else none

/-- A memory operand `[x + y]`: its parts. -/
def memOf (ts : List Tok) : Option (List Tok × List Tok) :=
  match ts with
  | [.sym '[', x, .sym '+', y, .sym ']'] => some ([x], [y])
  | _ => none

/-- How an operand of an instruction is written and where it goes; `p` is the lowest bit of its field in the word. -/
inductive AsmOp where
  /-- v register. -/
  | v (p : Nat)
  /-- s register, a multiple of `m` (R262: se). -/
  | s (p m : Nat)
  /-- c register. -/
  | c (p : Nat)
  /-- k register. -/
  | k (p : Nat)
  /-- v register of a stream quad, a multiple of 4. -/
  | q (p : Nat)
  /-- Capability operand: c register or quad. -/
  | cq (p : Nat)
  /-- Capability operand: a quad. -/
  | quadReg (p : Nat)
  /-- Memory operand: whether it takes a quad, and the namespace of its offset. -/
  | mem (quad : Bool) (off : Char)
  /-- Data register of an atomic: its number over 4. -/
  | data (ns : Char)
  /-- `#n` from `lo` to `hi`. -/
  | imm (p lo hi : Nat)
  /-- `#n` up to `hi` that may be left out. -/
  | opt (p hi : Nat)
  /-- The scope of FENCE, which sets b[6] when it is left out (R303). -/
  | fence
  /-- A label as a displacement in words, of so many bits (R264). -/
  | target (bits : Nat)
  /-- The literal word (R211). -/
  | lit
deriving DecidableEq, Repr

/-- What a line's instruction leaves open until labels have their places. -/
structure AsmCode where
  /-- The word without its displacement. -/
  word : Nat
  /-- A displacement: its bits, and the label. -/
  target : Option (Nat × List Char)
  /-- The literal word. -/
  lit : Option AsmVal
deriving DecidableEq, Repr

/-- A number below a bound, at a place. -/
def below (bound p : Nat) (n : Option Nat) : Option AsmCode := n.bind fun x => if x < bound then some ⟨x * 2 ^ p, none, none⟩ else none

/-- A multiple, or nothing. -/
def multiple (m : Nat) (n : Option Nat) : Option Nat := n.bind fun x => if x % m = 0 then some x else none

/-- Encode one operand. mras refuses a register or value that does not fit its field. -/
def AsmOp.encode (o : AsmOp) (ts : List Tok) : Option AsmCode :=
  match o with
  | .v p => below 256 p (regOf 'v' ts)
  | .s p m => below 64 p (multiple m (regOf 's' ts))
  | .c p => below 32 p (regOf 'c' ts)
  | .k p => below 8 p (regOf 'k' ts)
  | .q p => below 256 p (multiple 4 (regOf 'v' ts))
  | .cq p => below 256 p (capOf ts)
  | .quadReg p => below 256 p ((quadOf ts).map fun n => 128 + n)
  | .mem quad off => (memOf ts).bind fun m => (capOf m.1).bind fun a =>
      if a < 128 ∨ quad then (below (if off = 'v' then 256 else 64) 0 (regOf off m.2)).map fun b => { b with word := a * 256 + b.word } else none
  | .data ns => below 16 16 ((multiple 4 (regOf ns ts)).map fun n => n / 4)
  | .imm p lo hi => (immTok ts).bind fun n => if lo ≤ n then below (hi + 1) p (some n) else none
  | .opt p hi => below (hi + 1) p (immTok ts)
  | .fence => below 64 0 (immTok ts)
  | .target bits => match ts with
      | [.word w] => if isIdent w then some ⟨0, some (bits, w), none⟩ else none
      | _ => none
  | .lit => (litTok ts).map fun v => ⟨0, none, some v⟩

/-- What an operand stands for when it is left out. -/
def AsmOp.absent : AsmOp → Option Nat
  | .opt _ _ => some 0
  | .fence => some 64
  | _ => none

/-- Two parts of one instruction. -/
def AsmCode.join (x y : AsmCode) : AsmCode := ⟨x.word + y.word, x.target.or y.target, x.lit.or y.lit⟩

/-- Encode a list of operands in field order. -/
def encodeOps : List AsmOp → List (List Tok) → Option AsmCode
  | [], [] => some ⟨0, none, none⟩
  | [], _ :: _ => none
  | o :: os, [] => o.absent.bind fun x => (encodeOps os []).map fun y => AsmCode.join ⟨x, none, none⟩ y
  | o :: os, t :: ts =>
    match o.encode t with
    | some x => (encodeOps os ts).map fun y => x.join y
    | none => o.absent.bind fun x => (encodeOps os (t :: ts)).map fun y => AsmCode.join ⟨x, none, none⟩ y

/-! ### Instructions (R210, R211, R214, R215) -/

/-- Modifiers of one kind, with the bits that each sets; `need`: one of them must be written. -/
structure ModGroup where
  /-- One must be written. -/
  need : Bool
  /-- Names and bits. -/
  names : List (String × Nat)
deriving DecidableEq, Repr

/-- How one instruction is written. -/
structure AsmRow where
  /-- Mnemonic, with the modifier that selects its opcode. -/
  name : String
  /-- Opcode. -/
  op : Nat
  /-- Operands. -/
  ops : List AsmOp
  /-- Its b field is HINT. -/
  hint : Bool := false
  /-- Opcode of its literal form, and the place of the operand that the literal replaces. -/
  lit : Option (Nat × Nat) := none
  /-- Modifiers. -/
  mods : List ModGroup := []
deriving DecidableEq, Repr

/-- d, a and b are v registers. -/
def vvv : List AsmOp := [.v 16, .v 8, .v 0]
/-- d and a are v registers. -/
def vv : List AsmOp := [.v 16, .v 8]
/-- d, a and b are s registers. -/
def sss : List AsmOp := [.s 16 1, .s 8 1, .s 0 1]

/-- Conditions of CMP (R230). -/
def cmpMods : List (String × Nat) := ["eq", "ne", "lt", "le", "gt", "ge"].zipIdx.map fun e => (e.1, e.2 * 2 ^ 19)
/-- Conditions of FCMP (R238). -/
def fcmpMods : List (String × Nat) := ["eq", "ne", "lt", "le", "gt", "ge", "un", "or"].zipIdx.map fun e => (e.1, e.2 * 2 ^ 19)
/-- Conditions of SCMP (R260). -/
def scmpMods : List (String × Nat) :=
  ["eq", "ne", "lt", "le", "gt", "ge", "ltu", "leu", "gtu", "geu"].zipIdx.map fun e => (e.1, e.2 / 4 * 2 ^ 22 + e.2 % 4 * 2 ^ 14)
/-- Operations of atomics (R297). -/
def atomMods : List (String × Nat) :=
  ["add", "fadd", "min", "max", "and", "or", "xor", "xchg", "cas", "inc"].zipIdx.map fun e => (e.1, e.2 * 2 ^ 20)
/-- Operations of RED: those without a result. -/
def redMods : List (String × Nat) := atomMods.filter fun e => e.1 ≠ "xchg" && e.1 ≠ "cas"
/-- Orders of atomics (R296). -/
def ordMods : List (String × Nat) := [("acq", 2 ^ 13), ("rel", 2 ^ 14), ("ar", 2 ^ 13 + 2 ^ 14)]

/-- Control, team state and waits (R263 to R274, R303, R307, R329). -/
def rowsControl : List AsmRow :=
  [ { name := "nop", op := 0x01, ops := [], hint := true }
  , { name := "bra", op := 0x02, ops := [.target 24] }
  , { name := "bany", op := 0x03, ops := [.k 16, .target 16] }
  , { name := "ball", op := 0x04, ops := [.k 16, .target 16] }
  , { name := "bnone", op := 0x05, ops := [.k 16, .target 16] }
  , { name := "brs", op := 0x06, ops := [.s 16 1, .target 16], mods := [⟨false, [("z", 2 ^ 23)]⟩] }
  , { name := "jmp", op := 0x07, ops := [.s 8 1], hint := true }
  , { name := "call", op := 0x08, ops := [.s 16 1, .target 16] }
  , { name := "ret", op := 0x09, ops := [.s 8 1], hint := true }
  , { name := "rep", op := 0x0A, ops := [.s 8 1, .imm 0 1 255] }
  , { name := "loopb", op := 0x0B, ops := [.k 8, .imm 0 1 64] }
  , { name := "exit", op := 0x0C, ops := [], hint := true }
  , { name := "end", op := 0x0D, ops := [], hint := true }
  , { name := "yield", op := 0x0E, ops := [.opt 8 4095], hint := true }
  , { name := "yieldc", op := 0x0F, ops := [.c 16, .s 8 2, .s 0 2, .opt 23 1] }
  , { name := "setm", op := 0x10, ops := [.s 8 1], hint := true, lit := some (0xD2, 8) }
  , { name := "getm", op := 0x11, ops := [.s 16 1], hint := true }
  , { name := "setml", op := 0xD2, ops := [.lit], hint := true }
  , { name := "setpri", op := 0x12, ops := [.imm 0 0 15] }
  , { name := "role", op := 0x13, ops := [.imm 0 0 7] }
  , { name := "join", op := 0x14, ops := [.imm 0 0 7] }
  , { name := "leave", op := 0x15, ops := [.imm 0 0 7] }
  , { name := "trap", op := 0x16, ops := [.imm 0 0 65535] }
  , { name := "bkpt", op := 0x17, ops := [.imm 0 0 65535] }
  , { name := "eret", op := 0x18, ops := [], hint := true }
  , { name := "rdsr", op := 0x19, ops := [.s 16 1, .imm 0 0 255] }
  , { name := "wrsr", op := 0x1A, ops := [.imm 16 0 255, .s 8 1], hint := true }
  , { name := "seedr", op := 0x1B, ops := [.v 8], hint := true }
  , { name := "waitc", op := 0x1C, ops := [.imm 18 0 63, .imm 12 0 63, .imm 6 0 63, .imm 0 0 63] }
  , { name := "monarm", op := 0x1D, ops := [.mem false 's'] }
  , { name := "monwait", op := 0x1E, ops := [.s 16 1, .s 8 1], hint := true }
  , { name := "barw", op := 0x1F, ops := [.s 16 1, .c 8, .s 0 2] }
  , { name := "bary", op := 0x20, ops := [.s 16 1, .c 8, .s 0 1] }
  , { name := "mwait", op := 0x21, ops := [.s 16 1, .s 8 1], hint := true }
  , { name := "revoke", op := 0x22, ops := [.s 16 1, .c 8], hint := true }
  , { name := "sweepq", op := 0x23, ops := [.s 16 1], hint := true } ]

/-- Lane masks, integers and conversions (R226 to R231, R244 to R249, R261). -/
def rowsInteger : List AsmRow :=
  [ { name := "kand", op := 0x24, ops := [.k 16, .k 8, .k 0] }
  , { name := "kor", op := 0x25, ops := [.k 16, .k 8, .k 0] }
  , { name := "kxor", op := 0x26, ops := [.k 16, .k 8, .k 0] }
  , { name := "kandn", op := 0x27, ops := [.k 16, .k 8, .k 0] }
  , { name := "knot", op := 0x28, ops := [.k 16, .k 8], hint := true }
  , { name := "kmov", op := 0x29, ops := [.k 16, .k 8], hint := true }
  , { name := "kpop", op := 0x2A, ops := [.s 16 1, .k 8], hint := true }
  , { name := "kfst", op := 0x2B, ops := [.s 16 1, .k 8], hint := true }
  , { name := "ksplit", op := 0x2C, ops := [.k 16, .k 8, .s 0 1] }
  , { name := "add", op := 0x30, ops := vvv, lit := some (0xD3, 0) }
  , { name := "adds", op := 0x31, ops := [.v 16, .v 8, .s 0 1] }
  , { name := "sub", op := 0x32, ops := vvv, lit := some (0xD4, 0) }
  , { name := "mul", op := 0x33, ops := vvv, lit := some (0xD5, 0) }
  , { name := "mulh", op := 0x34, ops := vvv }
  , { name := "mad", op := 0x35, ops := vvv }
  , { name := "min", op := 0x36, ops := vvv, lit := some (0xDC, 0) }
  , { name := "max", op := 0x37, ops := vvv, lit := some (0xDD, 0) }
  , { name := "abs", op := 0x38, ops := vv, hint := true }
  , { name := "neg", op := 0x39, ops := vv, hint := true }
  , { name := "and", op := 0x3A, ops := vvv, lit := some (0xD6, 0) }
  , { name := "or", op := 0x3B, ops := vvv, lit := some (0xD7, 0) }
  , { name := "xor", op := 0x3C, ops := vvv, lit := some (0xD8, 0) }
  , { name := "andn", op := 0x3D, ops := vvv }
  , { name := "not", op := 0x3E, ops := vv, hint := true }
  , { name := "shl", op := 0x3F, ops := vvv, lit := some (0xD9, 0) }
  , { name := "shr", op := 0x40, ops := vvv, lit := some (0xDA, 0) }
  , { name := "sha", op := 0x41, ops := vvv, lit := some (0xDB, 0) }
  , { name := "rot", op := 0x42, ops := vvv }
  , { name := "cmp", op := 0x43, ops := [.k 16, .v 8, .v 0], lit := some (0xDE, 0), mods := [⟨true, cmpMods⟩] }
  , { name := "sel", op := 0x44, ops := vvv }
  , { name := "mov", op := 0x45, ops := vv, hint := true, lit := some (0xD0, 8) }
  , { name := "movl", op := 0xD0, ops := [.v 16, .lit], hint := true }
  , { name := "popc", op := 0x46, ops := vv, hint := true }
  , { name := "clz", op := 0x47, ops := vv, hint := true }
  , { name := "ctz", op := 0x48, ops := vv, hint := true }
  , { name := "fns", op := 0x49, ops := vvv }
  , { name := "brev", op := 0x4A, ops := vv, hint := true }
  , { name := "bfx", op := 0x4B, ops := vvv }
  , { name := "bfi", op := 0x4C, ops := vvv }
  , { name := "cvt", op := 0x4D, ops := [.v 16, .v 8, .imm 0 0 31] }
  , { name := "cvtn", op := 0x4E, ops := [.v 16, .v 8, .imm 0 0 63] }
  , { name := "packn", op := 0x4F, ops := [.v 16, .v 8, .imm 0 0 63] }
  , { name := "unpkn", op := 0x50, ops := [.v 16, .v 8, .imm 0 0 63] } ]

/-- Floats, bit streams, cross-lane and uniform instructions (R232 to R243, R250 to R260). -/
def rowsFloat : List AsmRow :=
  [ { name := "fadd", op := 0x51, ops := vvv, lit := some (0xDF, 0) }
  , { name := "fsub", op := 0x52, ops := vvv }
  , { name := "fmul", op := 0x53, ops := vvv, lit := some (0xE0, 0) }
  , { name := "fma", op := 0x54, ops := vvv, lit := some (0xE1, 0) }
  , { name := "fmal", op := 0x55, ops := vvv }
  , { name := "fmin", op := 0x56, ops := vvv }
  , { name := "fmax", op := 0x57, ops := vvv }
  , { name := "fminn", op := 0x58, ops := vvv }
  , { name := "fmaxn", op := 0x59, ops := vvv }
  , { name := "fabs", op := 0x5A, ops := vv, hint := true }
  , { name := "fneg", op := 0x5B, ops := vv, hint := true }
  , { name := "fcmp", op := 0x5C, ops := [.k 16, .v 8, .v 0], mods := [⟨true, fcmpMods⟩] }
  , { name := "fclass", op := 0x5D, ops := vv, hint := true }
  , { name := "frnd", op := 0x5E, ops := vv, hint := true }
  , { name := "fscale", op := 0x5F, ops := vvv }
  , { name := "fdivs", op := 0x60, ops := vvv }
  , { name := "frcp", op := 0x61, ops := vv, hint := true }
  , { name := "frsq", op := 0x62, ops := vv, hint := true }
  , { name := "fsqrt", op := 0x63, ops := vv, hint := true }
  , { name := "fexp2", op := 0x64, ops := vv, hint := true }
  , { name := "flog2", op := 0x65, ops := vv, hint := true }
  , { name := "fsin", op := 0x66, ops := vv, hint := true }
  , { name := "fcos", op := 0x67, ops := vv, hint := true }
  , { name := "ftanh", op := 0x68, ops := vv, hint := true }
  , { name := "bsini", op := 0x69, ops := [.q 16, .v 8], hint := true }
  , { name := "bsrd", op := 0x6A, ops := [.v 16, .q 8, .v 0] }
  , { name := "bspk", op := 0x6B, ops := [.v 16, .q 8, .v 0] }
  , { name := "bssk", op := 0x6C, ops := [.q 16, .v 8], hint := true }
  , { name := "bsld", op := 0x6D, ops := [.q 16, .c 8], hint := true }
  , { name := "bspos", op := 0x6E, ops := [.v 16, .q 8], hint := true }
  , { name := "shfl.idx", op := 0x70, ops := vvv }
  , { name := "shfl.up", op := 0x71, ops := [.v 16, .v 8, .imm 0 0 63] }
  , { name := "shfl.dn", op := 0x72, ops := [.v 16, .v 8, .imm 0 0 63] }
  , { name := "shfl.xor", op := 0x73, ops := [.v 16, .v 8, .imm 0 0 63] }
  , { name := "vote.any", op := 0x74, ops := [.k 16, .k 8, .k 0] }
  , { name := "vote.all", op := 0x75, ops := [.k 16, .k 8, .k 0] }
  , { name := "ballot", op := 0x76, ops := [.v 16, .k 8, .k 0] }
  , { name := "rsum", op := 0x77, ops := [.v 16, .v 8, .k 0] }
  , { name := "rmin", op := 0x78, ops := [.v 16, .v 8, .k 0] }
  , { name := "rmax", op := 0x79, ops := [.v 16, .v 8, .k 0] }
  , { name := "scan.add", op := 0x7A, ops := [.v 16, .v 8, .k 0] }
  , { name := "bcast", op := 0x7B, ops := [.s 16 1, .v 8, .s 0 1] }
  , { name := "laneid", op := 0x7C, ops := [.v 16], hint := true }
  , { name := "movs", op := 0x7D, ops := [.v 16, .s 8 1], hint := true }
  , { name := "sadd", op := 0x80, ops := sss, lit := some (0xE2, 0) }
  , { name := "ssub", op := 0x81, ops := sss, lit := some (0xE3, 0) }
  , { name := "smul", op := 0x82, ops := sss, lit := some (0xE4, 0) }
  , { name := "sand", op := 0x83, ops := sss, lit := some (0xE5, 0) }
  , { name := "sor", op := 0x84, ops := sss, lit := some (0xE6, 0) }
  , { name := "sxor", op := 0x85, ops := sss, lit := some (0xE7, 0) }
  , { name := "sshl", op := 0x86, ops := sss, lit := some (0xE8, 0) }
  , { name := "sshr", op := 0x87, ops := sss, lit := some (0xE9, 0) }
  , { name := "scmp", op := 0x88, ops := sss, lit := some (0xEA, 0), mods := [⟨true, scmpMods⟩] }
  , { name := "ssel", op := 0x89, ops := sss }
  , { name := "smov", op := 0x8A, ops := [.s 16 1, .s 8 1], hint := true, lit := some (0xD1, 8) }
  , { name := "smovl", op := 0xD1, ops := [.s 16 1, .lit], hint := true }
  , { name := "plen", op := 0x8B, ops := [.s 16 1, .s 8 1], hint := true } ]

/-- Loads, stores, atomics, capabilities and fences (R275 to R303). -/
def rowsMemory : List AsmRow :=
  [ { name := "ld", op := 0x90, ops := [.v 16, .mem true 'v'] }
  , { name := "ldv", op := 0x91, ops := [.v 16, .mem false 's'] }
  , { name := "ldu", op := 0x92, ops := [.s 16 1, .mem false 's'] }
  , { name := "ldw", op := 0x93, ops := [.v 16, .mem true 'v'] }
  , { name := "st", op := 0x94, ops := [.v 16, .mem true 'v'] }
  , { name := "stv", op := 0x95, ops := [.v 16, .mem false 's'] }
  , { name := "stu", op := 0x96, ops := [.s 16 1, .mem false 's'] }
  , { name := "stn", op := 0x97, ops := [.v 16, .mem true 'v'] }
  , { name := "ldq", op := 0x98, ops := [.c 16, .mem false 's'] }
  , { name := "ldq", op := 0x98, ops := [.quadReg 16, .mem true 'v'] }
  , { name := "stq", op := 0x99, ops := [.c 16, .mem false 's'] }
  , { name := "stq", op := 0x99, ops := [.quadReg 16, .mem true 'v'] }
  , { name := "ld.acq", op := 0x9A, ops := [.v 16, .mem true 'v'] }
  , { name := "st.rel", op := 0x9B, ops := [.v 16, .mem true 'v'] }
  , { name := "prf", op := 0x9C, ops := [.opt 16 1, .mem true 'v'] }
  , { name := "dead", op := 0x9D, ops := [.s 16 1, .mem false 's'] }
  , { name := "atom", op := 0x9E, ops := [.data 'v', .mem false 'v'], mods := [⟨true, atomMods⟩, ⟨false, ordMods⟩] }
  , { name := "atomu", op := 0x9F, ops := [.data 's', .mem false 's'], mods := [⟨true, atomMods⟩, ⟨false, ordMods⟩] }
  , { name := "red", op := 0xA0, ops := [.data 'v', .mem false 'v'], mods := [⟨true, redMods⟩, ⟨false, [("rel", 2 ^ 14)]⟩] }
  , { name := "mcas", op := 0xA1, ops := [.s 16 1, .c 8], hint := true }
  , { name := "fence", op := 0xA2, ops := [.fence] }
  , { name := "qfence", op := 0xA3, ops := [.imm 0 0 63] }
  , { name := "pbound", op := 0xA4, ops := [.c 16, .c 8, .s 0 2] }
  , { name := "pboundv", op := 0xA5, ops := [.q 16, .c 8, .v 0] }
  , { name := "pperm", op := 0xA6, ops := [.c 16, .c 8, .s 0 1] }
  , { name := "pform", op := 0xA7, ops := [.c 16, .c 8, .s 0 1] }
  , { name := "plock", op := 0xA8, ops := [.c 16, .c 8, .s 0 1] }
  , { name := "punlock", op := 0xA9, ops := [.c 16, .c 8], hint := true }
  , { name := "pinfo", op := 0xAA, ops := [.s 16 1, .c 8, .imm 0 0 15] }
  , { name := "pwithin", op := 0xAB, ops := [.s 16 1, .c 8, .c 0] }
  , { name := "psame", op := 0xAC, ops := [.s 16 1, .c 8, .c 0] }
  , { name := "pmov", op := 0xAD, ops := [.cq 16, .cq 8], hint := true }
  , { name := "pclr", op := 0xAD, ops := [.c 16], hint := true }
  , { name := "cmdmk", op := 0xAE, ops := [.c 16, .c 8], hint := true, mods := [⟨false, [("l", 1)]⟩] }
  , { name := "deleg", op := 0xAF, ops := [.c 16, .c 8, .s 0 2] } ]

/-- Engines, queues, matrix and fabric (R310 to R382). -/
def rowsEngine : List AsmRow :=
  [ { name := "cpy", op := 0xB0, ops := [.c 16, .c 8, .imm 0 0 7] }
  , { name := "cpyt", op := 0xB1, ops := [.c 16, .c 8, .imm 0 0 7] }
  , { name := "cpyg", op := 0xB2, ops := [.c 16, .c 8, .imm 0 0 7] }
  , { name := "cpys", op := 0xB3, ops := [.c 16, .c 8, .imm 0 0 7] }
  , { name := "cpyb", op := 0xB4, ops := [.c 16, .c 8, .imm 0 0 7] }
  , { name := "cpym", op := 0xB5, ops := [.c 16, .c 8, .imm 0 0 7] }
  , { name := "go", op := 0xB6, ops := [.c 8, .imm 0 0 7] }
  , { name := "bari", op := 0xB7, ops := [.c 8, .s 0 2] }
  , { name := "bara", op := 0xB8, ops := [.s 16 1, .c 8, .s 0 1] }
  , { name := "barx", op := 0xB9, ops := [.c 8, .s 0 2] }
  , { name := "qdef", op := 0xBA, ops := [.c 8, .s 0 2] }
  , { name := "qpush", op := 0xBB, ops := [.s 16 1, .c 8, .s 0 1] }
  , { name := "qpop", op := 0xBC, ops := [.s 16 1, .c 8, .s 0 1] }
  , { name := "qtry", op := 0xBD, ops := [.s 16 2, .c 8, .s 0 1] }
  , { name := "qgrant", op := 0xBE, ops := [.imm 16 0 31, .c 8, .s 0 2] }
  , { name := "mloadb", op := 0xBF, ops := [.imm 16 0 1, .c 8, .s 0 2] }
  , { name := "msub", op := 0xC0, ops := [.imm 16 0 7, .imm 8 0 63, .imm 0 1 8] }
  , { name := "munsub", op := 0xC1, ops := [.imm 16 0 7], hint := true }
  , { name := "mpub", op := 0xC2, ops := [.imm 16 0 63, .c 8, .s 0 4] }
  , { name := "mma", op := 0xC3, ops := [.imm 16 0 15, .imm 20 0 1, .c 8, .s 0 2] }
  , { name := "mmas", op := 0xC4, ops := [.imm 16 0 15, .imm 20 0 1, .c 8, .s 0 2] }
  , { name := "mfence", op := 0xC5, ops := [.s 16 1], hint := true }
  , { name := "mepi", op := 0xC6, ops := [.imm 16 0 31, .c 8, .s 0 2] }
  , { name := "mclr", op := 0xC7, ops := [.imm 16 0 15], hint := true }
  , { name := "mrel", op := 0xC8, ops := [.imm 16 0 7], hint := true }
  , { name := "mstat", op := 0xC9, ops := [.s 16 1, .imm 0 0 255] }
  , { name := "nspawn", op := 0xCA, ops := [.c 16, .c 8, .c 0] }
  , { name := "mlred", op := 0xCB, ops := [.c 16, .c 8, .imm 0 0 7] }
  , { name := "mstm", op := 0xCC, ops := [.c 16, .c 8, .imm 0 0 7] }
  , { name := "grpmk", op := 0xCD, ops := [.c 16, .c 8], hint := true }
  , { name := "grpq", op := 0xCE, ops := [.s 16 1, .c 8, .imm 0 0 255] }
  , { name := "rsq", op := 0xCF, ops := [.s 16 1, .c 8, .s 0 1] } ]

/-- Every instruction. -/
def asmRows : List AsmRow := rowsControl ++ (rowsInteger ++ (rowsFloat ++ (rowsMemory ++ rowsEngine)))

/-- The text after a prefix. -/
def after? : List Char → List Char → Option (List Char)
  | [], cs => some cs
  | _ :: _, [] => none
  | p :: ps, c :: cs => if p = c then after? ps cs else none

/-- The modifiers in a text that is empty or begins with a dot; `cur` is the one being read, reversed. -/
def modsOf (cur : List Char) : List Char → List (List Char)
  | [] => [cur.reverse]
  | c :: cs => if c = '.' then cur.reverse :: modsOf [] cs else modsOf (c :: cur) cs

/-- The bits of modifiers, group by group. -/
def modBits : List ModGroup → List (List Char) → Option Nat
  | [], [] => some 0
  | [], _ :: _ => none
  | g :: gs, [] => if g.need then none else modBits gs []
  | g :: gs, m :: ms =>
    match g.names.find? fun e => e.1.toList = m with
    | some e => (modBits gs ms).map fun x => e.2 + x
    | none => if g.need then none else modBits gs (m :: ms)

/-- The modifier bits of a mnemonic that a row covers. -/
def AsmRow.modOf (r : AsmRow) (mnem : List Char) : Option Nat :=
  match after? r.name.toList mnem with
  | some [] => modBits r.mods []
  | some ('.' :: cs) => modBits r.mods (modsOf [] cs)
  | _ => none

/-- Whether an operand stands at a place. -/
def AsmOp.isAt (p : Nat) : AsmOp → Bool
  | .v x => x = p
  | .s x _ => x = p
  | _ => false

/-- The literal form of a row (R211). -/
def AsmRow.litRow (r : AsmRow) : Option AsmRow :=
  r.lit.map fun l => { r with op := l.1, ops := r.ops.map fun o => if o.isAt l.2 then .lit else o, hint := true, lit := none }

/-- `hint #n`, written last. -/
def hintOf : List Tok → Option Nat
  | .word w :: ts => if lower w = "hint".toList then (immTok ts).bind fun n => if n < 16 then some n else none else none
  | _ => none

/-- The operands of a row, with `hint #n` last where its b field is HINT. -/
def AsmRow.operands (r : AsmRow) (os : List (List Tok)) : Option AsmCode :=
  match encodeOps r.ops os, r.hint, os.getLast?.bind hintOf with
  | some x, _, _ => some x
  | none, true, some n => (encodeOps r.ops os.dropLast).map fun x => { x with word := x.word + n * 16 }
  | none, _, _ => none

/-- A row's word without modifiers. -/
def AsmRow.encode (r : AsmRow) (os : List (List Tok)) : Option AsmCode :=
  (r.operands os).map fun x => { x with word := x.word + r.op * 2 ^ 24 }

/-- An instruction: the first row that covers its mnemonic and operands. -/
def asmInstr (mnem : List Char) (os : List (List Tok)) : Option AsmCode :=
  asmRows.findSome? fun r => (r.modOf (lower mnem)).bind fun m =>
    ((r.encode os).or (r.litRow.bind fun l => l.encode os)).map fun x => { x with word := x.word + m }

/-- What a disassembly adds to the text of a word: `hint #n` for a HINT other than zero (R215). -/
def disasmHint (w : Nat) : List Char :=
  let op := w / 2 ^ 24 % 256
  let n := w / 16 % 16
  if n ≠ 0 ∧ asmRows.any (fun r => (r.op = op && r.hint) || r.lit.map Prod.fst = some op) then
    "hint #".toList ++ (if n < 10 then [Char.ofNat (48 + n)] else ['1', Char.ofNat (38 + n)])
  else []

/-! ### Directives (R216) -/

/-- An item of a section. -/
inductive AsmItem where
  /-- A label. -/
  | label (w : List Char)
  /-- `.word`. -/
  | word (v : AsmVal)
  /-- `.align`. -/
  | align (n : Nat)
  /-- An instruction. -/
  | code (c : AsmCode)
deriving DecidableEq, Repr

/-- A `.role`. -/
structure AsmRole where
  /-- A. -/
  allot : Nat
  /-- PRI. -/
  pri : Nat
  /-- CEIL. -/
  ceil : Nat
  /-- Entry label. -/
  entry : List Char
deriving DecidableEq, Repr

/-- A team description. -/
structure AsmTeam where
  /-- Name. -/
  name : List Char
  /-- L. -/
  lanes : Nat
  /-- Teams. -/
  teams : Nat
  /-- NKIND. -/
  kind : Nat
  /-- `.span`. -/
  span : Option Nat
  /-- `.regs`. -/
  regs : Option Nat
  /-- `.pool`: the PPW. -/
  pool : Option Nat
  /-- `.deadline`. -/
  deadline : Option Nat
  /-- `.entry`. -/
  entry : Option (List Char)
  /-- `.role` entries, in order. -/
  roles : List AsmRole
  /-- `.handler`. -/
  handler : Option (List Char)
  /-- `.cap` symbols: name and slot. -/
  caps : List (List Char × Nat)
deriving DecidableEq, Repr

/-- Where the assembler stands between two lines. -/
structure Asm where
  /-- `.isarev`. -/
  isarev : Option Nat
  /-- `.minrev`. -/
  minrev : Option Nat
  /-- `.mmrev`. -/
  mmrev : Option Nat
  /-- The open description. -/
  team : Option AsmTeam
  /-- Descriptions that `.end` has closed, in order. -/
  done : List AsmTeam
  /-- Lines assemble into .text. -/
  inText : Bool
  /-- .text, reversed. -/
  text : List AsmItem
  /-- .rodata, reversed. -/
  rodata : List AsmItem
deriving DecidableEq, Repr

/-- Before the first line. -/
def Asm.start : Asm := ⟨none, none, none, none, [], true, [], []⟩

/-- An item goes into the current section. -/
def Asm.add (a : Asm) (i : AsmItem) : Asm := if a.inText then { a with text := i :: a.text } else { a with rodata := i :: a.rodata }

/-- A value from `lo` to `hi`, a multiple of `m`. -/
def inRange (lo hi m : Nat) (n : Option Nat) : Option Nat := n.bind fun x => if lo ≤ x ∧ x ≤ hi ∧ x % m = 0 then some x else none

/-- A word operand. -/
def wordTok : List Tok → Option (List Char)
  | [.word w] => some w
  | _ => none

/-- An identifier operand. -/
def identTok (ts : List Tok) : Option (List Char) := (wordTok ts).bind fun w => if isIdent w then some w else none

/-- A revision directive: at most once, before the first description. -/
def Asm.setRev (a : Asm) (old : Option Nat) (v : Option Nat) (put : Nat → Asm) : Option Asm :=
  if old.isSome ∨ a.team.isSome ∨ a.done ≠ [] then none else v.map put

/-- A description directive: only between `.team` and `.end`. -/
def Asm.onTeam (a : Asm) (f : AsmTeam → Option AsmTeam) : Option Asm := a.team.bind fun t => (f t).map fun u => { a with team := some u }

/-- NKIND of a kind. -/
def kindOf (w : List Char) : Option Nat :=
  if lower w = "m".toList then some 0 else if lower w = "v".toList then some 1 else if lower w = "mv".toList then some 2 else none

/-- `.team`. -/
def asmTeam : List (List Tok) → Option AsmTeam
  | [n, l, t, k] => do
    let name ← identTok n
    let lanes ← inRange 32 1024 32 (immTok l)
    let kind ← (wordTok k).bind kindOf
    let teams ← inRange 1 (if kind = 0 then 16 else 32) 1 (immTok t)
    some ⟨name, lanes, teams, kind, none, none, none, none, none, [], none, []⟩
  | _ => none

/-- `.pool`: the fields of R137 in order. -/
def asmPool : List (List Tok) → Option Nat
  | [v, s, c, l, p] => do
    let v ← inRange 0 255 1 (immTok v)
    let s ← inRange 0 255 1 (immTok s)
    let c ← inRange 0 63 1 (immTok c)
    let l ← inRange 0 15 1 (immTok l)
    let p ← inRange 0 63 1 (immTok p)
    some (v * 2 ^ 24 + s * 2 ^ 16 + c * 2 ^ 10 + l * 2 ^ 6 + p)
  | _ => none

/-- `.role`: entries come from 0 without gaps, at most eight (R122). -/
def asmRole (t : AsmTeam) : List (List Tok) → Option AsmTeam
  | [n, r, p, c, e] => do
    let _ ← inRange t.roles.length (min 7 t.roles.length) 1 (immTok n)
    let r ← inRange 8 256 8 (immTok r)
    let c ← inRange 0 15 1 (immTok c)
    let p ← inRange 0 c 1 (immTok p)
    let e ← identTok e
    some { t with roles := t.roles ++ [⟨r, p, c, e⟩] }
  | _ => none

/-- A directive that is given at most once in a description. -/
def once {α : Type} (old : Option α) (v : Option α) : Option α := if old.isSome then none else v

/-- `.end`: a description without `.pool` is refused, so is one with `.role` and `.regs` or `.entry`, with neither `.role` nor
`.entry`, or with a span above L. -/
def Asm.closeTeam (a : Asm) : Option Asm :=
  a.team.bind fun t =>
    if t.pool.isNone ∨ (t.roles ≠ [] ∧ (t.regs.isSome ∨ t.entry.isSome)) ∨ (t.roles = [] ∧ t.entry.isNone) ∨ t.lanes < t.span.getD 32 then none
    else some { a with team := none, done := a.done ++ [t] }

/-- A directive and its operands. -/
def Asm.directive (a : Asm) (d : String) (os : List (List Tok)) : Option Asm :=
  let one : List Tok := os.headD []
  let only : Bool := os.length = 1
  if d = ".text" then (if os = [] then some { a with inText := true } else none)
  else if d = ".rodata" then (if os = [] then some { a with inText := false } else none)
  else if d = ".word" then (if os = [] then none else os.foldl (fun r o => r.bind fun a => (litTok o).map fun v => a.add (.word v)) (some a))
  else if d = ".end" then (if os = [] then a.closeTeam else none)
  else if d = ".team" then (if a.team.isSome then none else (asmTeam os).map fun t => { a with team := some t })
  else if d = ".pool" then a.onTeam fun t => (once t.pool (asmPool os)).map fun v => { t with pool := some v }
  else if d = ".role" then a.onTeam fun t => asmRole t os
  else if d = ".cap" then
    match os with
    | [n, s] => a.onTeam fun t => (identTok n).bind fun w => (inRange 0 255 1 (immTok s)).map fun v => { t with caps := t.caps ++ [(w, v)] }
    | _ => none
  else if !only then none
  else if d = ".isarev" then a.setRev a.isarev (inRange 1 255 1 (immTok one)) fun v => { a with isarev := some v }
  else if d = ".minrev" then a.setRev a.minrev (inRange 1 255 1 (immTok one)) fun v => { a with minrev := some v }
  else if d = ".mmrev" then a.setRev a.mmrev (inRange 2 3 1 (immTok one)) fun v => { a with mmrev := some v }
  else if d = ".span" then a.onTeam fun t => (once t.span ((immTok one).bind fun n => if n = 16 ∨ n = 32 ∨ n = 64 then some n else none)).map fun v => { t with span := some v }
  else if d = ".regs" then a.onTeam fun t => (once t.regs (inRange 8 256 8 (immTok one))).map fun v => { t with regs := some v }
  else if d = ".deadline" then a.onTeam fun t => (once t.deadline (inRange 16 65520 16 (immTok one))).map fun v => { t with deadline := some v }
  else if d = ".entry" then a.onTeam fun t => (once t.entry (identTok one)).map fun v => { t with entry := some v }
  else if d = ".handler" then a.onTeam fun t => (once t.handler (identTok one)).map fun v => { t with handler := some v }
  else if d = ".align" then (immTok one).bind fun n => if n ∈ (List.range 11).map fun e => 2 ^ (e + 2) then some (a.add (.align n)) else none
  else none

/-- The names of the directives. -/
def directives : List String :=
  [".text", ".rodata", ".word", ".align", ".team", ".end", ".span", ".regs", ".pool", ".deadline", ".entry", ".role", ".handler",
    ".cap", ".isarev", ".minrev", ".mmrev"]

/-- What follows the label of a line. -/
def Asm.statement (a : Asm) : List Tok → Option Asm
  | [] => some a
  | .word w :: ts =>
    match directives.find? fun d => d.toList = lower w with
    | some d => a.directive d (operandsOf ts)
    | none => (asmInstr w (operandsOf ts)).map fun c => a.add (.code c)
  | _ => none

/-- A line: an optional label, then an optional instruction or directive. -/
def Asm.line (a : Asm) (cs : List Char) : Option Asm :=
  match tokens [] cs with
  | .word w :: .sym ':' :: ts => if isIdent w then (a.add (.label w)).statement ts else none
  | ts => a.statement ts

/-! ### The image (R217) -/

/-- Length of an item at an offset. -/
def AsmItem.size (off : Nat) : AsmItem → Nat
  | .label _ => 0
  | .word _ => 4
  | .align n => (n - off % n) % n
  | .code c => if c.lit.isSome then 8 else 4

/-- The offset after items. -/
def itemsEnd (off : Nat) (is : List AsmItem) : Nat := is.foldl (fun o i => o + i.size o) off

/-- The labels of items, with their offsets. -/
def labelsOf (off : Nat) : List AsmItem → List (List Char × Nat)
  | [] => []
  | .label w :: is => (w, off) :: labelsOf off is
  | i :: is => labelsOf (off + i.size off) is

/-- The value of a symbol. -/
def symbol (syms : List (List Char × Nat)) (w : List Char) : Option Nat := (syms.find? fun e => e.1 = w).map Prod.snd

/-- The 32-bit word of a value. -/
def AsmVal.word (syms : List (List Char × Nat)) : AsmVal → Option Nat
  | .num n => if -(2 ^ 31 : Int) ≤ n ∧ n < 2 ^ 32 then some (n % 2 ^ 32).toNat else none
  | .name w => symbol syms w

/-- The word of an instruction at an offset: a displacement in words from the branch word (R264), that must fit. -/
def AsmCode.at (labels : List (List Char × Nat)) (off : Nat) (c : AsmCode) : Option Nat :=
  match c.target with
  | none => some c.word
  | some t => (symbol labels t.2).bind fun x =>
    let d : Int := ((x : Int) - off) / 4
    if -(2 ^ (t.1 - 1) : Int) ≤ d ∧ d < 2 ^ (t.1 - 1) then some (c.word + (d % 2 ^ t.1).toNat) else none

/-- The bytes of items: `labels` may be branch targets, `syms` may be literals. -/
def emitItems (labels syms : List (List Char × Nat)) (text : Bool) (off : Nat) : List AsmItem → Option (List Byte)
  | [] => some []
  | i :: is =>
    (match i with
      | .label _ => some []
      | .word v => (v.word syms).map (natBytes 4)
      | .align _ => some (if text then (List.replicate (i.size off / 4) (natBytes 4 0x01000000)).flatten else List.replicate (i.size off) 0)
      | .code c => (c.at labels off).bind fun w => match c.lit with
        | none => some (natBytes 4 w)
        | some v => (v.word syms).map fun x => natBytes 4 w ++ natBytes 4 x).bind fun bs =>
    (emitItems labels syms text (off + i.size off) is).map fun r => bs ++ r

/-- The role entries of a description. -/
def AsmTeam.roleList (t : AsmTeam) : List AsmRole := if t.roles = [] then [⟨t.regs.getD 32, 0, 15, t.entry.getD []⟩] else t.roles

/-- A role table entry (R122). -/
def AsmRole.bytes (text : List (List Char × Nat)) (r : AsmRole) : Option (List Byte) :=
  (symbol text r.entry).map fun e => natBytes 8 ((r.allot / 8 - 1) * 2 ^ 59 + r.pri * 2 ^ 55 + r.ceil * 2 ^ 51 + e)

/-- Role table and name of a description, 8-byte aligned, with the offset of the table. -/
def AsmTeam.tables (text : List (List Char × Nat)) (off : Nat) (t : AsmTeam) : Option (Nat × List Byte) :=
  (t.roleList.mapM (AsmRole.bytes text)).map fun rs =>
    let pad := (8 - off % 8) % 8
    (off + pad, List.replicate pad 0 ++ rs.flatten ++ t.name.map (fun c => BitVec.ofNat 8 c.toNat) ++ [0])

/-- A description's record of the note (R219); `roleOff` is the offset of its role table. -/
def AsmTeam.record (text : List (List Char × Nat)) (roleOff : Nat) (t : AsmTeam) : Option (List Byte) :=
  let n := t.roleList.length
  let slots := t.caps.foldl (fun m e => max m (e.2 + 1)) 0
  (match t.handler with
    | none => some 0
    | some w => symbol text w).map fun h =>
  natBytes 4 (roleOff + 8 * n) ++ natBytes 4 roleOff ++ natBytes 4 h ++ natBytes 4 (t.pool.getD 0) ++ natBytes 2 (t.deadline.getD 4096 / 16) ++
    natBytes 1 (t.lanes / 32 - 1) ++ natBytes 1 (t.teams - 1) ++ natBytes 1 (t.span.getD 32 / 32) ++ natBytes 1 t.kind ++ natBytes 1 (n - 1) ++
    natBytes 1 (if t.handler.isSome then 1 else 0) ++ natBytes 2 slots ++ natBytes 6 0

/-- Tables and records of the descriptions from an offset of the image. -/
def teamBytes (text : List (List Char × Nat)) (off : Nat) : List AsmTeam → Option (List Byte × List Byte)
  | [] => some ([], [])
  | t :: ts => do
    let x ← t.tables text off
    let r ← t.record text x.1
    let y ← teamBytes text (off + x.2.length) ts
    some (x.2 ++ y.1, r ++ y.2)

/-- Whether every name has one value. -/
def oneValue (syms : List (List Char × Nat)) : Bool := syms.all fun e => symbol syms e.1 = some e.2

/-! ### The object (R218) -/

/-- Header, section table and sections; a section that is empty and not required is left out. -/
def objectBytes (text rodata note : List Byte) : List Byte :=
  let secs := [(nameText, text)] ++ (if rodata = [] then [] else [(nameRodata, rodata)]) ++ [(nameNote, note)]
  let start := 64 + 32 * secs.length
  let table := secs.foldl (fun (r : List Byte × Nat) s => (r.1 ++ natBytes 16 s.1 ++ natBytes 8 r.2 ++ natBytes 8 s.2.length, r.2 + s.2.length)) ([], start)
  natBytes 4 0x314F4253 ++ natBytes 2 1 ++ natBytes 2 secs.length ++ natBytes 8 64 ++ natBytes 48 0 ++ table.1 ++ secs.flatMap Prod.snd

/-- The sections of a source that has been read: .text, .rodata and the note. -/
def Asm.sections (a : Asm) : Option (List Byte × List Byte × List Byte) := do
  let text := a.text.reverse
  let ro := a.rodata.reverse
  let base := up256 (itemsEnd 0 text)
  let inText := labelsOf 0 text
  let labels := inText ++ labelsOf base ro
  let caps := a.done.flatMap fun t => t.caps.map fun e => (e.1, 16 * e.2)
  let syms := labels ++ caps
  if a.team.isSome ∨ ¬(labels.map Prod.fst).Nodup ∨ !oneValue syms then none
  else
    let tb ← emitItems labels syms true 0 text
    let rb ← emitItems labels syms false base ro
    let ds ← teamBytes inText (base + rb.length) a.done
    let head := natBytes 1 (a.isarev.getD 3) ++ natBytes 1 (a.minrev.getD 3) ++ natBytes 1 (a.mmrev.getD 3) ++ natBytes 1 0 ++ natBytes 2 a.done.length ++ natBytes 10 0
    some (tb, rb ++ ds.1, head ++ ds.2)

/-- The lines of a text; `cur` is the line being read, reversed. -/
def linesOf (cur : List Char) : List Char → List (List Char)
  | [] => [cur.reverse]
  | c :: cs => if c = '\n' then cur.reverse :: linesOf [] cs else linesOf (c :: cur) cs

/-- Read the lines of a source. -/
def asmLines (ls : List (List Char)) : Option Asm := ls.foldl (fun r l => r.bind fun a => a.line l) (some Asm.start)

/-- mras: the code object of a source, or none where mras refuses it. -/
def mras (source : List Char) : Option (List Byte) :=
  (asmLines (linesOf [] source)).bind fun a => a.sections.map fun s => objectBytes s.1 s.2.1 s.2.2

end Sys2Proof.Machine
end

