-- ==== Sys2Proof/Tests/Slice0.lean ====
section
/-!
SUPPORT. Tests of the model: refused ill-formed words, decoded words, one-step runs and witnesses of the obligations. A
witness shows, clause by clause, that the hypotheses of a statement can be met together.
-/

namespace Sys2Proof.Tests

open Sys2Proof Sys2Proof.Machine Sys2Proof.Claims

set_option Elab.async false

/-! ### Decoding -/

/-- Each word, of the number of bits that the table gives it, decodes to its instruction. -/
def allDecode (ws : List (Nat × Nat × Instr)) : Bool := ws.all fun w => decodeTableWord w.1 w.2.1 == some w.2.2

/-- No word of the list decodes. -/
def noneDecodes (ws : List (Nat × Nat)) : Bool := ws.all fun w => (decodeTableWord w.1 w.2).isNone

theorem test_decode_from_ill : allDecode [
  (32, 0x00A042BE, .ill 160 66 190),
  (32, 0x01000060, .nop 6),
  (32, 0x02CB91CF, .bra 13341135),
  (32, 0x0306F145, .bany 6 61765),
  (32, 0x0407BD6A, .ball 7 48490),
  (32, 0x0506EC1E, .bnone 6 60446),
  (32, 0x0622076D, .brs 34 1901),
  (32, 0x06B67734, .brsZ 54 30516),
  (32, 0x07003240, .jmp 50 4),
  (32, 0x082A0D47, .call 42 3399),
  (32, 0x09003A30, .ret 58 3),
  (32, 0x0A000860, .rep 8 96),
  (32, 0x0B0004DF, .loopb 4 223),
  (32, 0x0C000040, .exit 4),
  (32, 0x0D000070, .endTeam 7),
  (32, 0x0E08B420, .yield 2228 2)] = true := by decide +kernel

theorem test_decode_from_yieldc : allDecode [
  (32, 0x0F812F0E, .yieldc 1 1 47 14),
  (32, 0x10001B50, .setm 27 5),
  (32, 0x110C00F0, .getm 12 15),
  (32, 0x1200000E, .setpri 14),
  (32, 0x13000007, .role 7),
  (32, 0x14000004, .join 4),
  (32, 0x15000002, .leave 2),
  (32, 0x1600C30E, .trap 49934),
  (32, 0x1700CC12, .bkpt 52242),
  (32, 0x18000020, .eret 2),
  (32, 0x1909009F, .rdsr 9 159),
  (32, 0x1A9F1D30, .wrsr 159 29 3),
  (32, 0x1B002210, .seedr 34 1),
  (32, 0x1CFF804E, .waitc 63 56 1 14),
  (32, 0x1D00190E, .monarm 25 14),
  (32, 0x1E3E3F30, .monwait 62 63 3)] = true := by decide +kernel

theorem test_decode_from_barw : allDecode [
  (32, 0x1F380613, .barw 56 6 19),
  (32, 0x20151F0D, .bary 21 31 13),
  (32, 0x212339B0, .mwait 35 57 11),
  (32, 0x22290730, .revoke 41 7 3),
  (32, 0x233D00C0, .sweepq 61 12),
  (32, 0x24020403, .kand 2 4 3),
  (32, 0x25010304, .kor 1 3 4),
  (32, 0x26020203, .kxor 2 2 3),
  (32, 0x27010303, .kandn 1 3 3),
  (32, 0x280705A0, .knot 7 5 10),
  (32, 0x290105B0, .kmov 1 5 11),
  (32, 0x2A2E0320, .kpop 46 3 2),
  (32, 0x2B1403E0, .kfst 20 3 14),
  (32, 0x2C03042D, .ksplit 3 4 45),
  (32, 0x3051307C, .add 81 48 124),
  (32, 0x3179B50C, .adds 121 181 12)] = true := by decide +kernel

theorem test_decode_from_sub : allDecode [
  (32, 0x320F42FA, .sub 15 66 250),
  (32, 0x33F106F4, .mul 241 6 244),
  (32, 0x34C05CD9, .mulh 192 92 217),
  (32, 0x3568058D, .mad 104 5 141),
  (32, 0x36CA6C5E, .min 202 108 94),
  (32, 0x376195D8, .max 97 149 216),
  (32, 0x38037410, .abs 3 116 1),
  (32, 0x39B62FA0, .neg 182 47 10),
  (32, 0x3AF5F533, .and 245 245 51),
  (32, 0x3B1FC23F, .or 31 194 63),
  (32, 0x3CEED2F2, .xor 238 210 242),
  (32, 0x3D775984, .andn 119 89 132),
  (32, 0x3E5BE590, .not 91 229 9),
  (32, 0x3F41C777, .shl 65 199 119),
  (32, 0x401C97C0, .shr 28 151 192),
  (32, 0x41C8CD5F, .sha 200 205 95)] = true := by decide +kernel

theorem test_decode_from_rot : allDecode [
  (32, 0x42DD4C0A, .rot 221 76 10),
  (32, 0x43213658, .cmp 4 1 54 88),
  (32, 0x44849D5D, .sel 132 157 93),
  (32, 0x45EC2660, .mov 236 38 6),
  (32, 0x4647EDC0, .popc 71 237 12),
  (32, 0x478C1850, .clz 140 24 5),
  (32, 0x48B05250, .ctz 176 82 5),
  (32, 0x492ECD15, .fns 46 205 21),
  (32, 0x4AA127C0, .brev 161 39 12),
  (32, 0x4BB1507C, .bfx 177 80 124),
  (32, 0x4C2AB90D, .bfi 42 185 13),
  (32, 0x4D15FD14, .cvt 21 253 20),
  (32, 0x4E89ED1A, .cvtn 137 237 26),
  (32, 0x4F093D30, .packn 9 61 48),
  (32, 0x50995935, .unpkn 153 89 53),
  (32, 0x514175A7, .fadd 65 117 167)] = true := by decide +kernel

theorem test_decode_from_fsub : allDecode [
  (32, 0x526C260F, .fsub 108 38 15),
  (32, 0x53FBEBA4, .fmul 251 235 164),
  (32, 0x5409CE7F, .fma 9 206 127),
  (32, 0x5556D736, .fmal 86 215 54),
  (32, 0x5622FCBC, .fmin 34 252 188),
  (32, 0x5791F422, .fmax 145 244 34),
  (32, 0x58A2E6CA, .fminn 162 230 202),
  (32, 0x596A1C2C, .fmaxn 106 28 44),
  (32, 0x5A706030, .fabs 112 96 3),
  (32, 0x5B10D970, .fneg 16 217 7),
  (32, 0x5C1A75ED, .fcmp 3 2 117 237),
  (32, 0x5D9FDB30, .fclass 159 219 3),
  (32, 0x5EFA8680, .frnd 250 134 8),
  (32, 0x5FF67DB1, .fscale 246 125 177),
  (32, 0x60BB527B, .fdivs 187 82 123),
  (32, 0x61474B80, .frcp 71 75 8)] = true := by decide +kernel

theorem test_decode_from_frsq : allDecode [
  (32, 0x6268E730, .frsq 104 231 3),
  (32, 0x631D61E0, .fsqrt 29 97 14),
  (32, 0x64FE8930, .fexp2 254 137 3),
  (32, 0x65A1F080, .flog2 161 240 8),
  (32, 0x66DF5730, .fsin 223 87 3),
  (32, 0x67177E50, .fcos 23 126 5),
  (32, 0x6884C990, .ftanh 132 201 9),
  (32, 0x69DF8160, .bsini 223 129 6),
  (32, 0x6A11CACC, .bsrd 17 202 204),
  (32, 0x6BC75CB2, .bspk 199 92 178),
  (32, 0x6C97AA10, .bssk 151 170 1),
  (32, 0x6DC30A60, .bsld 195 10 6),
  (32, 0x6E90B5B0, .bspos 144 181 11),
  (32, 0x7048D67D, .shflIdx 72 214 125),
  (32, 0x7144C63F, .shflUp 68 198 63),
  (32, 0x72B1B813, .shflDn 177 184 19)] = true := by decide +kernel

theorem test_decode_from_shflXor : allDecode [
  (32, 0x73F5F316, .shflXor 245 243 22),
  (32, 0x74060205, .voteAny 6 2 5),
  (32, 0x75070104, .voteAll 7 1 4),
  (32, 0x768D0703, .ballot 141 7 3),
  (32, 0x7754AC03, .rsum 84 172 3),
  (32, 0x78774A07, .rmin 119 74 7),
  (32, 0x7981A606, .rmax 129 166 6),
  (32, 0x7ACD5C03, .scanAdd 205 92 3),
  (32, 0x7B12A517, .bcast 18 165 23),
  (32, 0x7CBD00E0, .laneid 189 14),
  (32, 0x7D6917F0, .movs 105 23 15),
  (32, 0x80360C38, .sadd 54 12 56),
  (32, 0x81382D1D, .ssub 56 45 29),
  (32, 0x823F183E, .smul 63 24 62),
  (32, 0x8316220A, .sand 22 34 10),
  (32, 0x84223F0B, .sor 34 63 11)] = true := by decide +kernel

theorem test_decode_from_sxor : allDecode [
  (32, 0x850D3618, .sxor 13 54 24),
  (32, 0x863C371F, .sshl 60 55 31),
  (32, 0x87132D06, .sshr 19 45 6),
  (32, 0x88EBDB0B, .scmp 3 43 3 27 11),
  (32, 0x8928323C, .ssel 40 50 60),
  (32, 0x8A2622B0, .smov 38 34 11),
  (32, 0x8B3C1B50, .plen 60 27 5),
  (32, 0x90A0B8A4, .ld 160 (.quad 56) 164),
  (32, 0x91461802, .ldv 70 24 2),
  (32, 0x920D0626, .ldu 13 6 38),
  (32, 0x93718C39, .ldw 113 (.quad 12) 57),
  (32, 0x94C3A9B8, .st 195 (.quad 41) 184),
  (32, 0x950B103F, .stv 11 16 63),
  (32, 0x960F0604, .stu 15 6 4),
  (32, 0x97E50BF8, .stn 229 (.c 11) 248),
  (32, 0x98079B78, .ldq (.c 7) (.quad 27) 120)] = true := by decide +kernel

theorem test_decode_from_stq : allDecode [
  (32, 0x9916A635, .stq (.c 22) (.quad 38) 53),
  (32, 0x9A3D9801, .ldAcq 61 (.quad 24) 1),
  (32, 0x9B5A09DC, .stRel 90 (.c 9) 220),
  (32, 0x9C01ADD5, .prf 1 (.quad 45) 213),
  (32, 0x9D240C3E, .dead 36 12 62),
  (32, 0x9E196A19, .atom 1 9 3 10 25),
  (32, 0x9F596B3D, .atomu 5 9 3 11 61),
  (32, 0xA0A55B22, .red 10 5 1 27 34),
  (32, 0xA11B0EE0, .mcas 27 14 14),
  (32, 0xA200005E, .fence 1 30),
  (32, 0xA300000A, .qfence 10),
  (32, 0xA4061419, .pbound 6 20 25),
  (32, 0xA59110F6, .pboundv 145 16 246),
  (32, 0xA6071F09, .pperm 7 31 9),
  (32, 0xA7140317, .pform 20 3 23),
  (32, 0xA81B1D2B, .plock 27 29 43)] = true := by decide +kernel

theorem test_decode_from_punlock : allDecode [
  (32, 0xA9010D20, .punlock 1 13 2),
  (32, 0xAA15130F, .pinfo 21 19 15),
  (32, 0xAB281205, .pwithin 40 18 5),
  (32, 0xAC15151D, .psame 21 21 29),
  (32, 0xAD990880, .pmov (.quad 25) (.c 8) 8),
  (32, 0xAE0A10C0, .cmdmk 10 16 12),
  (32, 0xAE0D0DE1, .cmdmkL 13 13 14),
  (32, 0xAF1E0627, .deleg 30 6 39),
  (32, 0xB0140906, .cpy 20 9 6),
  (32, 0xB10A1003, .cpyt 10 16 3),
  (32, 0xB20E0103, .cpyg 14 1 3),
  (32, 0xB31F0A04, .cpys 31 10 4),
  (32, 0xB41E0A02, .cpyb 30 10 2),
  (32, 0xB5100101, .cpym 16 1 1),
  (32, 0xB6001605, .go 22 5),
  (32, 0xB7001F1D, .bari 31 29)] = true := by decide +kernel

theorem test_decode_from_bara : allDecode [
  (32, 0xB8100A03, .bara 16 10 3),
  (32, 0xB9001A09, .barx 26 9),
  (32, 0xBA001B1A, .qdef 27 26),
  (32, 0xBB011023, .qpush 1 16 35),
  (32, 0xBC240910, .qpop 36 9 16),
  (32, 0xBD3C1033, .qtry 60 16 51),
  (32, 0xBE020820, .qgrant 2 8 32),
  (32, 0xBF011C0A, .mloadb 1 28 10),
  (32, 0xC0061305, .msub 6 19 5),
  (32, 0xC10400A0, .munsub 4 10),
  (32, 0xC21F112A, .mpub 31 17 42),
  (32, 0xC3111909, .mma 1 1 25 9),
  (32, 0xC415122E, .mmas 1 5 18 46),
  (32, 0xC51600A0, .mfence 22 10),
  (32, 0xC61C1102, .mepi 1 12 17 2),
  (32, 0xC7080060, .mclr 8 6)] = true := by decide +kernel

theorem test_decode_from_mrel : allDecode [
  (32, 0xC80300B0, .mrel 3 11),
  (32, 0xC93000D1, .mstat 48 209),
  (32, 0xCA130502, .nspawn 19 5 2),
  (32, 0xCB010905, .mlred 1 9 5),
  (32, 0xCC0F1601, .mstm 15 22 1),
  (32, 0xCD1D1690, .grpmk 29 22 9),
  (32, 0xCE0D016E, .grpq 13 1 110),
  (32, 0xCF321A1C, .rsq 50 26 28),
  (64, 0xA61BFAFB_D09900A0, .movl 153 10 2786851579),
  (64, 0xD758E8C7_D13700F0, .smovl 55 15 3612928199),
  (64, 0x4BE40E2F_D2000080, .setml 8 1273237039),
  (64, 0xC76C6515_D3D5C320, .addLit 213 195 2 3345769749),
  (64, 0xC7DDDDA6_D4964AB0, .subLit 150 74 11 3353206182),
  (64, 0x2A5AE45F_D5EA5030, .mulLit 234 80 3 710599775),
  (64, 0x274D9825_D6B28DF0, .andLit 178 141 15 659396645),
  (64, 0x0C6E0A5B_D7968BD0, .orLit 150 139 13 208538203)] = true := by decide +kernel

theorem test_decode_from_xorLit : allDecode [
  (64, 0xD1D0E536_D8BC3B50, .xorLit 188 59 5 3520128310),
  (64, 0xF131CD29_D9CB11B0, .shlLit 203 17 11 4046572841),
  (64, 0xFA8B2A4A_DA56B970, .shrLit 86 185 7 4203424330),
  (64, 0x0C843F2B_DB68B480, .shaLit 104 180 8 209993515),
  (64, 0xE514A97A_DCD82040, .minLit 216 32 4 3843336570),
  (64, 0xEB01E7DD_DDFF4BC0, .maxLit 255 75 12 3942770653),
  (64, 0x294315EA_DE129D30, .cmpLit 2 2 157 3 692262378),
  (64, 0x8E35F901_DFA03710, .faddLit 160 55 1 2385901825),
  (64, 0x126ED9A6_E0AA62C0, .fmulLit 170 98 12 309254566),
  (64, 0x9FAC19B8_E10F93A0, .fmaLit 15 147 10 2678856120),
  (64, 0x99A7DCD1_E2011C20, .saddLit 1 28 2 2577915089),
  (64, 0x0E45B65D_E32017B0, .ssubLit 32 23 11 239449693),
  (64, 0x3878A081_E42D1330, .smulLit 45 19 3 947429505),
  (64, 0xC025EB90_E5052440, .sandLit 5 36 4 3223710608),
  (64, 0xCEDAFA3A_E6223F30, .sorLit 34 63 3 3470457402),
  (64, 0xBC9BD675_E7381880, .sxorLit 56 24 8 3164329589)] = true := by decide +kernel

theorem test_decode_from_sshlLit : allDecode [
  (64, 0x5773605B_E80C09C0, .sshlLit 12 9 12 1467179099),
  (64, 0x980EB273_E9252B10, .sshrLit 37 43 1 2551100019),
  (64, 0x87DC1F70_EA599F60, .scmpLit 1 25 2 31 6 2279350128)] = true := by decide +kernel

/-- A reserved opcode, a must-be-zero bit that is one, and a reserved capability operand are refused (R203, R204, R209, R262). -/
theorem test_reserved_words_refused : noneDecodes [(32, 0x2D000000), (32, 0xFF000000), (32, 0xEB000000), (32, 0x01000001),
  (32, 0x01000100), (32, 0x03080000), (32, 0x06400000), (32, 0x31010240), (32, 0x80C10203), (32, 0x90012003), (32, 0x9001C003),
  (32, 0xAE080702), (64, 0x1D0000001)] = true := by decide +kernel

/-- The words of the spec's own examples (R199 to R203, R230, R260, R263, R269). -/
theorem test_worked_words : allDecode [(32, 0x43120103, .cmp 2 2 1 3), (32, 0x88418203, .scmp 1 1 2 2 3), (32, 0x0302FFFD, .bany 2 (-3)),
  (32, 0x30050203, .add 5 2 3), (32, 0x0E001800, .yield 24 0), (32, 0x4F080433, .packn 8 4 0x33), (32, 0x500C0833, .unpkn 12 8 0x33),
  (32, 0xB0050401, .cpy 5 4 1), (32, 0xC3120214, .mma 1 2 2 20), (32, 0xAE080700, .cmdmk 8 7 0), (32, 0xAE060501, .cmdmkL 6 5 0)] = true := by
  decide +kernel

theorem test_obligation_words : Obligations.DecodeWords := by
  unfold Obligations.DecodeWords; decide +kernel

/-! ### Well-formedness: an ill-formed term for each check -/

theorem test_ill_formed_control : [Instr.ill 0 0 0, .rep 1 0, .loopb 1 0, .loopb 1 65, .yieldc 0 1 3 4, .yieldc 0 1 4 3, .join 0, .leave 0,
  .rdsr 1 0x0D, .rdsr 1 0x15, .wrsr 0x0F 1 0, .wrsr 0x15 1 0].all (fun i => !WellFormed i) = true := by decide +kernel

theorem test_ill_formed_masks_and_compares : [Instr.kand 0 1 2, .kor 0 1 2, .kxor 0 1 2, .kandn 0 1 2, .knot 0 1 0, .kmov 0 1 0, .ksplit 0 1 2,
  .cmp 6 1 0 0, .cmp 0 0 0 0, .cmpLit 6 1 0 0 0, .cmpLit 0 0 0 0 0, .fcmp 0 0 1 2, .voteAny 0 1 2, .voteAll 0 1 2, .scmp 2 1 2 0 0,
  .scmpLit 3 1 3 0 0 0].all (fun i => !WellFormed i) = true := by decide +kernel

theorem test_ill_formed_memory : [Instr.bsini 1 0 0, .bsrd 0 2 1, .bsrd 5 4 1, .bspk 0 3 1, .bssk 6 0 0, .bsld 7 1 0, .bspos 0 9 0,
  .ldq (.c 1) (.c 2) 64, .ldq (.c 1) (.quad 2) 0, .stq (.c 1) (.c 2) 64, .stq (.c 1) (.quad 2) 0, .pbound 1 2 3, .pboundv 2 1 0, .pinfo 1 2 11,
  .pmov (.c 1) (.quad 2) 0, .deleg 1 2 3, .atom 10 0 0 1 2, .atomu 10 0 0 1 2, .red 10 0 0 1 2, .red 7 0 0 1 2, .red 8 0 0 1 2,
  .fence 1 1].all (fun i => !WellFormed i) = true := by decide +kernel

theorem test_ill_formed_engines : [Instr.bari 1 3, .barx 1 3, .barw 1 1 3, .qdef 1 3, .qtry 1 2 0, .qgrant 1 2 3, .mloadb 0 1 3, .mma 0 0 1 3,
  .mmas 0 0 1 3, .mepi 0 0 1 3, .mpub 0 1 2, .msub 0 0 0, .msub 0 0 9, .mstat 0 16, .mstat 0 0x81, .grpq 0 0 0x91].all
  (fun i => !WellFormed i) = true := by decide +kernel

/-- The values at the edges of those ranges pass. -/
theorem test_well_formed_edges : [Instr.rep 1 255, .loopb 1 64, .yieldc 1 31 62 0, .join 7, .rdsr 1 0x0C, .rdsr 1 0x14, .wrsr 0x10 1 0, .kand 7 0 0,
  .cmp 5 1 0 0, .scmp 2 1 1 0 0, .bsini 252 0 0, .bsrd 4 8 1, .ldq (.c 1) (.c 2) 63, .ldq (.quad 1) (.c 2) 255, .pinfo 1 2 10, .pmov (.quad 1) (.c 2) 0,
  .atom 9 15 3 31 255, .red 9 0 0 1 2, .fence 1 0, .fence 0 63, .msub 7 63 8, .mstat 0 15, .mstat 0 0x80, .grpq 0 0 0x90, .grpq 0 0 0xFF].all
  WellFormed = true := by decide +kernel

set_option linter.unusedSimpArgs false

/-! ### Witnesses and one-step tests -/

/-- The boot shop. -/
def shop0 : Shop := bootShop 64 []

/-- The boot team. -/
def team0 : Team := startTeam State.reset shop0 0 0 0

/-- A device in which team `t` of shop `x` issues. -/
def dev (t : Team) (x : Shop) : State := { State.reset with cur := some 0, boot := .started, devSet := true, teams := [(0, t)], shops := [(0, x)], nextShop := 1 }

/-- The context of the issuing team. -/
def ctx (t : Team) (x : Shop) : Ctx := ⟨0, t, x⟩

/-- The word passes the checks that the word alone decides. -/
def clean (i : Instr) (t : Team) (x : Shop) : Bool :=
  WellFormed i && !loopRefuses t.loop t.pc i && (!x.onV || !isMatrixOp (encodeNat i / 2 ^ 24))

theorem issues_dev {i : Instr} {t : Team} {x : Shop} (h : (!t.ended && decide (t.wait = .none) && clean i t x) = true) :
    Issues i (dev t x) (ctx t x) := by
  simp only [clean, Bool.and_eq_true, Bool.or_eq_true, Bool.not_eq_true', decide_eq_true_eq] at h
  obtain ⟨⟨h1, h2⟩, ⟨h3, h4⟩, h5⟩ := h
  refine ⟨rfl, rfl, by simp [dev, ctx, shopOf, State.shop?, Sparse.look], h1, h2, h3, h4, fun hv => ?_⟩
  rcases h5 with h5 | h5
  · exact absurd (h5.symm.trans hv) Bool.false_ne_true
  · exact h5

theorem reissues_dev {i : Instr} {t : Team} {x : Shop} {p : Bool} (h : (!t.ended && decide (t.wait = .blocked i p) && clean i t x) = true) :
    Reissues i (dev t x) (ctx t x) p := by
  simp only [clean, Bool.and_eq_true, Bool.or_eq_true, Bool.not_eq_true', decide_eq_true_eq] at h
  obtain ⟨⟨h1, h2⟩, ⟨h3, h4⟩, h5⟩ := h
  refine ⟨rfl, rfl, by simp [dev, ctx, shopOf, State.shop?, Sparse.look], h1, h2, h3, h4, fun hv => ?_⟩
  rcases h5 with h5 | h5
  · exact absurd (h5.symm.trans hv) Bool.false_ne_true
  · exact h5

/-- The boot team with TYPE `ty` and RND `r`. -/
def typed (ty r : Nat) : Team := { team0 with mode := BitVec.ofNat 32 (ty * 2 ^ 10 + r * 2 ^ 15) }

/-- A word that the boot team issues. -/
abbrev Runs (i : Instr) (t : Team) : Prop := Issues i (dev t shop0) (ctx t shop0)

/-- Every register operand at its end, both sides of SSEL, the ends of the shift counts and the condition codes. -/
theorem witness_UniformAndMaskWords :
    (Runs (.sadd 63 62 61) team0 ∧ uniformResult team0 (.sadd 63 62 61) = some (63, 0)) ∧
    (Runs (.scmp 2 63 1 0 63) team0 ∧ uniformResult team0 (.scmp 2 63 1 0 63) = some (63, 1)) ∧
    (Runs (.sshrLit 0 63 15 0x8000003F) (team0.wrS 63 0x8000000000000000) ∧ uniformResult (team0.wrS 63 0x8000000000000000) (.sshrLit 0 63 15 0x8000003F) = some (0, 1)) ∧
    (Runs (.ssel 5 6 7) (team0.wrS 7 9) ∧ uniformResult (team0.wrS 7 9) (.ssel 5 6 7) = some (5, 9)) ∧
    Runs (.plen 63 63 0) (team0.wrS 63 (-1)) ∧
    (Runs (.ksplit 7 0 63) team0 ∧ ∃ d f, maskResult team0 32 (.ksplit 7 0 63) = some (d, f)) ∧
    Runs (.kpop 63 0 15) team0 ∧
    (Runs (.kfst 63 7 0) (team0.wrK 32 7 0x80000000) ∧ 31 < shop0.lanes ∧ ((team0.wrK 32 7 0x80000000).rdK 7).getLsbD 31 = true ∧ ∀ j, j < 31 → ((team0.wrK 32 7 0x80000000).rdK 7).getLsbD j = false) ∧
    (Runs (.kfst 63 7 0) team0 ∧ ∀ j, j < shop0.lanes → (team0.rdK 7).getLsbD j = false) :=
  ⟨⟨issues_dev (by decide +kernel), by decide +kernel⟩,
    ⟨issues_dev (by decide +kernel), by decide +kernel⟩,
    ⟨issues_dev (by decide +kernel), by decide +kernel⟩,
    ⟨issues_dev (by decide +kernel), by decide +kernel⟩,
    issues_dev (by decide +kernel),
    ⟨issues_dev (by decide +kernel), ⟨_, _, rfl⟩⟩,
    issues_dev (by decide +kernel),
    ⟨issues_dev (by decide +kernel), by decide +kernel, by decide +kernel, by decide +kernel⟩,
    ⟨issues_dev (by decide +kernel), by decide +kernel⟩⟩

/-- The highest register, the highest pair and each kind of second source. -/
theorem witness_IntegerArithmeticOfLanes :
    (Runs (.add 255 0 255) (typed 0 0) ∧ ((typed 0 0)).ty? = some .i32 ∧ (∃ F, arithForm (.add 255 0 255) = some F ∧ .i32 ∈ F.types) ∧ regOk (ctx (typed 0 0) shop0) false 255 ∧ regOk (ctx (typed 0 0) shop0) false 0 ∧ srcOk (ctx (typed 0 0) shop0) false (.v 255)) ∧
    (Runs (.adds 254 0 63) (typed 3 0) ∧ ((typed 3 0)).ty? = some .n64 ∧ (∃ F, arithForm (.adds 254 0 63) = some F ∧ .n64 ∈ F.types) ∧ regOk (ctx (typed 3 0) shop0) true 254 ∧ regOk (ctx (typed 3 0) shop0) true 0 ∧ srcOk (ctx (typed 3 0) shop0) true (.s 63)) ∧
    (Runs (.mulLit 0 255 0 0xFFFFFFFF) (typed 7 0) ∧ ((typed 7 0)).ty? = some .n8x4 ∧ (∃ F, arithForm (.mulLit 0 255 0 0xFFFFFFFF) = some F ∧ .n8x4 ∈ F.types) ∧ regOk (ctx (typed 7 0) shop0) false 0 ∧ regOk (ctx (typed 7 0) shop0) false 255 ∧ srcOk (ctx (typed 7 0) shop0) false (.lit 0xFFFFFFFF)) ∧
    (Runs (.abs 254 254 0) (typed 2 0) ∧ ((typed 2 0)).ty? = some .i64 ∧ (∃ F, arithForm (.abs 254 254 0) = some F ∧ .i64 ∈ F.types) ∧ regOk (ctx (typed 2 0) shop0) true 254 ∧ regOk (ctx (typed 2 0) shop0) true 254) ∧
    (Runs (.sha 255 255 255) (typed 0 0) ∧ ((typed 0 0)).ty? = some .i32 ∧ (∃ F, bitForm (.sha 255 255 255) = some F ∧ .i32 ∈ F.types) ∧ regOk (ctx (typed 0 0) shop0) false 255 ∧ regOk (ctx (typed 0 0) shop0) false 255 ∧ srcOk (ctx (typed 0 0) shop0) false (.v 255)) ∧
    (Runs (.shlLit 254 0 0 64) (typed 13 0) ∧ ((typed 13 0)).ty? = some .b64 ∧ (∃ F, bitForm (.shlLit 254 0 0 64) = some F ∧ .b64 ∈ F.types) ∧ regOk (ctx (typed 13 0) shop0) true 254 ∧ regOk (ctx (typed 13 0) shop0) true 0 ∧ srcOk (ctx (typed 13 0) shop0) true (.lit 64)) ∧
    (Runs (.andn 0 1 2) (typed 10 0) ∧ ((typed 10 0)).ty? = some .bf16x2 ∧ (∃ F, bitForm (.andn 0 1 2) = some F ∧ .bf16x2 ∈ F.types) ∧ regOk (ctx (typed 10 0) shop0) false 0 ∧ regOk (ctx (typed 10 0) shop0) false 1 ∧ srcOk (ctx (typed 10 0) shop0) false (.v 2)) :=
  ⟨⟨issues_dev (by decide +kernel), by decide +kernel, ⟨_, rfl, by decide +kernel⟩, by simp only [regOk]; decide +kernel, by simp only [regOk]; decide +kernel, by simp only [srcOk, regOk]; decide +kernel⟩,
    ⟨issues_dev (by decide +kernel), by decide +kernel, ⟨_, rfl, by decide +kernel⟩, by simp only [regOk]; decide +kernel, by simp only [regOk]; decide +kernel, trivial⟩,
    ⟨issues_dev (by decide +kernel), by decide +kernel, ⟨_, rfl, by decide +kernel⟩, by simp only [regOk]; decide +kernel, by simp only [regOk]; decide +kernel, trivial⟩,
    ⟨issues_dev (by decide +kernel), by decide +kernel, ⟨_, rfl, by decide +kernel⟩, by simp only [regOk]; decide +kernel, by simp only [regOk]; decide +kernel⟩,
    ⟨issues_dev (by decide +kernel), by decide +kernel, ⟨_, rfl, by decide +kernel⟩, by simp only [regOk]; decide +kernel, by simp only [regOk]; decide +kernel, by simp only [srcOk, regOk]; decide +kernel⟩,
    ⟨issues_dev (by decide +kernel), by decide +kernel, ⟨_, rfl, by decide +kernel⟩, by simp only [regOk]; decide +kernel, by simp only [regOk]; decide +kernel, trivial⟩,
    ⟨issues_dev (by decide +kernel), by decide +kernel, ⟨_, rfl, by decide +kernel⟩, by simp only [regOk]; decide +kernel, by simp only [regOk]; decide +kernel, by simp only [srcOk, regOk]; decide +kernel⟩⟩

theorem witness_BitOperationsOfLanes :
    (Runs (.bfi 255 0 255) (typed 1 0) ∧ ((typed 1 0)).ty? = some .n32 ∧ (∃ F, countForm (.bfi 255 0 255) = some F ∧ .n32 ∈ F.types) ∧ regOk (ctx (typed 1 0) shop0) false 255 ∧ regOk (ctx (typed 1 0) shop0) false 0 ∧ srcOk (ctx (typed 1 0) shop0) false (.v 255)) ∧
    (Runs (.fns 254 0 252) (typed 13 0) ∧ ((typed 13 0)).ty? = some .b64 ∧ (∃ F, countForm (.fns 254 0 252) = some F ∧ .b64 ∈ F.types) ∧ regOk (ctx (typed 13 0) shop0) true 254 ∧ regOk (ctx (typed 13 0) shop0) true 0 ∧ srcOk (ctx (typed 13 0) shop0) true (.v 252)) ∧
    (Runs (.popc 0 255 0) (typed 12 0) ∧ ((typed 12 0)).ty? = some .b32 ∧ (∃ F, countForm (.popc 0 255 0) = some F ∧ .b32 ∈ F.types) ∧ regOk (ctx (typed 12 0) shop0) false 0 ∧ regOk (ctx (typed 12 0) shop0) false 255) :=
  ⟨⟨issues_dev (by decide +kernel), by decide +kernel, ⟨_, rfl, by decide +kernel⟩, by simp only [regOk]; decide +kernel, by simp only [regOk]; decide +kernel, by simp only [srcOk, regOk]; decide +kernel⟩,
    ⟨issues_dev (by decide +kernel), by decide +kernel, ⟨_, rfl, by decide +kernel⟩, by simp only [regOk]; decide +kernel, by simp only [regOk]; decide +kernel, by simp only [srcOk, regOk]; decide +kernel⟩,
    ⟨issues_dev (by decide +kernel), by decide +kernel, ⟨_, rfl, by decide +kernel⟩, by simp only [regOk]; decide +kernel, by simp only [regOk]; decide +kernel⟩⟩

theorem witness_MovesIntoLanes :
    (Runs (.movl 254 0 0x80000000) (typed 2 0) ∧ ((typed 2 0)).ty? = some .i64 ∧ regOk (ctx (typed 2 0) shop0) true 254) ∧
    (Runs (.movl 255 0 0) (typed 8 0) ∧ ((typed 8 0)).ty? = some .f32 ∧ regOk (ctx (typed 8 0) shop0) false 255) ∧
    (Runs (.movs 254 63 0) (typed 9 0) ∧ ((typed 9 0)).ty? = some .f64 ∧ regOk (ctx (typed 9 0) shop0) true 254) ∧
    (Runs (.laneid 255 0) team0 ∧ regOk (ctx team0 shop0) false 255 ∧ shop0.lanes ≤ 1024) :=
  ⟨⟨issues_dev (by decide +kernel), by decide +kernel, by simp only [regOk]; decide +kernel⟩,
    ⟨issues_dev (by decide +kernel), by decide +kernel, by simp only [regOk]; decide +kernel⟩,
    ⟨issues_dev (by decide +kernel), by decide +kernel, by simp only [regOk]; decide +kernel⟩,
    ⟨issues_dev (by decide +kernel), by simp only [regOk]; decide +kernel, by decide +kernel⟩⟩

theorem witness_SelWritesEveryLiveLane :
    Runs (.sel 254 0 252) (typed 3 0) ∧
    ((typed 3 0)).ty? = some .n64 ∧
    regOk (ctx (typed 3 0) shop0) true 254 ∧
    regOk (ctx (typed 3 0) shop0) true 0 ∧
    regOk (ctx (typed 3 0) shop0) true 252 ∧
    (31 < shop0.lanes ∧ (team0.rdK 0).getLsbD 31 = true) :=
  ⟨issues_dev (by decide +kernel), by decide +kernel, by simp only [regOk]; decide +kernel, by simp only [regOk]; decide +kernel, by simp only [regOk]; decide +kernel, by decide +kernel⟩

theorem witness_ComparesWriteTheirLaneBits :
    (Runs (.cmp 5 7 255 0) (typed 0 0) ∧ ((typed 0 0)).ty? = some .i32 ∧ Ty.i32 ∈ wideTypes ∧ regOk (ctx (typed 0 0) shop0) false 255 ∧ srcOk (ctx (typed 0 0) shop0) false (.v 0)) ∧
    (Runs (.cmpLit 0 1 254 15 0xFFFFFFFF) (typed 13 0) ∧ ((typed 13 0)).ty? = some .b64 ∧ Ty.b64 ∈ wideTypes ∧ regOk (ctx (typed 13 0) shop0) true 254 ∧ srcOk (ctx (typed 13 0) shop0) true (.lit 0xFFFFFFFF)) ∧
    (Runs (.fcmp 7 7 254 0) (typed 9 0) ∧ ((typed 9 0)).ty? = some .f64 ∧ regOk (ctx (typed 9 0) shop0) true 254 ∧ regOk (ctx (typed 9 0) shop0) true 0) :=
  ⟨⟨issues_dev (by decide +kernel), by decide +kernel, by decide +kernel, by simp only [regOk]; decide +kernel, by simp only [srcOk, regOk]; decide +kernel⟩,
    ⟨issues_dev (by decide +kernel), by decide +kernel, by decide +kernel, by simp only [regOk]; decide +kernel, trivial⟩,
    ⟨issues_dev (by decide +kernel), by decide +kernel, by simp only [regOk]; decide +kernel, by simp only [regOk]; decide +kernel⟩⟩

/-- Stochastic rounding on a pair, a packed TYPE and a literal. -/
theorem witness_FloatArithmeticRoundsOnce :
    (Runs (.fma 254 0 252) (typed 9 5) ∧ ((typed 9 5)).ty? = some .f64 ∧ (∃ F, floatForm (.fma 254 0 252) = some F ∧ .f64 ∈ F.types) ∧ regOk (ctx (typed 9 5) shop0) true 254 ∧ regOk (ctx (typed 9 5) shop0) true 0 ∧ srcOk (ctx (typed 9 5) shop0) true (.v 252)) ∧
    (Runs (.fadd 255 0 255) (typed 11 5) ∧ ((typed 11 5)).ty? = some .f16x2 ∧ (∃ F, floatForm (.fadd 255 0 255) = some F ∧ .f16x2 ∈ F.types) ∧ regOk (ctx (typed 11 5) shop0) false 255 ∧ regOk (ctx (typed 11 5) shop0) false 0 ∧ srcOk (ctx (typed 11 5) shop0) false (.v 255)) ∧
    (Runs (.fmulLit 0 255 0 0x7F800000) (typed 8 3) ∧ ((typed 8 3)).ty? = some .f32 ∧ (∃ F, floatForm (.fmulLit 0 255 0 0x7F800000) = some F ∧ .f32 ∈ F.types) ∧ regOk (ctx (typed 8 3) shop0) false 0 ∧ regOk (ctx (typed 8 3) shop0) false 255 ∧ srcOk (ctx (typed 8 3) shop0) false (.lit 0x7F800000)) :=
  ⟨⟨issues_dev (by decide +kernel), by decide +kernel, ⟨_, rfl, by decide +kernel⟩, by simp only [regOk]; decide +kernel, by simp only [regOk]; decide +kernel, by simp only [srcOk, regOk]; decide +kernel⟩,
    ⟨issues_dev (by decide +kernel), by decide +kernel, ⟨_, rfl, by decide +kernel⟩, by simp only [regOk]; decide +kernel, by simp only [regOk]; decide +kernel, by simp only [srcOk, regOk]; decide +kernel⟩,
    ⟨issues_dev (by decide +kernel), by decide +kernel, ⟨_, rfl, by decide +kernel⟩, by simp only [regOk]; decide +kernel, by simp only [regOk]; decide +kernel, trivial⟩⟩

theorem witness_RootsAndDotProductRoundOnce :
    (Runs (.fsqrt 255 0 0) (typed 8 5) ∧ (∃ f, rootForm (.fsqrt 255 0 0) = some (255, 0, f)) ∧ ((typed 8 5)).ty? = some .f32 ∧ regOk (ctx (typed 8 5) shop0) false 255 ∧ regOk (ctx (typed 8 5) shop0) false 0) ∧
    (Runs (.fmal 0 255 255) (typed 10 5) ∧ ((typed 10 5)).ty? = some .bf16x2 ∧ regOk (ctx (typed 10 5) shop0) false 0 ∧ regOk (ctx (typed 10 5) shop0) false 255) :=
  ⟨⟨issues_dev (by decide +kernel), ⟨_, rfl⟩, by decide +kernel, by simp only [regOk]; decide +kernel, by simp only [regOk]; decide +kernel⟩,
    ⟨issues_dev (by decide +kernel), by decide +kernel, by simp only [regOk]; decide +kernel, by simp only [regOk]; decide +kernel⟩⟩

/-- The number that a finite value is. -/
def finOf : FVal → Exact
  | .fin x => x
  | _ => ⟨false, 0, 0, false⟩

/-- The value of a binary32 number. -/
def valueOf (u : Nat) : FVal := FloatFmt.b32.decode (FloatFmt.b32.flush true u)

/-- Integers at both ends of FEXP2's exact range, a power of two for FLOG2, a half for FSIN and FCOS, and sources beyond FEXP2's range. -/
theorem witness_exact_special_results :
    valueOf 0xC3150000 = .fin (finOf (valueOf 0xC3150000)) ∧ isInteger (finOf (valueOf 0xC3150000)) (-149) ∧
      valueOf 0x42FE0000 = .fin (finOf (valueOf 0x42FE0000)) ∧ isInteger (finOf (valueOf 0x42FE0000)) 127 ∧
      (finOf (valueOf 0xC3150000)).neg = true ∧ (finOf (valueOf 0xC3150000)).m ≠ 0 ∧
      (128 * 2 ^ (-(finOf (valueOf 0x43000000)).e).toNat ≤ (finOf (valueOf 0x43000000)).m * 2 ^ (finOf (valueOf 0x43000000)).e.toNat) ∧
      (finOf (valueOf 0xC3160001)).neg = true ∧
      (150 * 2 ^ (-(finOf (valueOf 0xC3160001)).e).toNat < (finOf (valueOf 0xC3160001)).m * 2 ^ (finOf (valueOf 0xC3160001)).e.toNat) ∧
      (finOf (valueOf 0x3F000000)).m = 2 ^ 23 ∧
      isInteger { finOf (valueOf 0x3F000000) with e := (finOf (valueOf 0x3F000000)).e + 1 } 1 := by
  refine ⟨?_, ?_, ?_, ?_, ?_, ?_, ?_, ?_, ?_, ?_, ?_⟩ <;> first | decide +kernel | (simp only [isInteger]; decide +kernel)

theorem witness_SpecialFunctionsOfLanes :
    (Runs (.ftanh 255 0 0) (typed 8 0) ∧ (∃ f, faithfulForm (.ftanh 255 0 0) = some (255, 0, f)) ∧ ((typed 8 0)).ty? = some .f32 ∧ regOk (ctx (typed 8 0) shop0) false 255 ∧ regOk (ctx (typed 8 0) shop0) false 0) ∧
    (FloatFmt.b32.isNan 0xFF800001 = true ∧ FloatFmt.b32.isNan 0x7FFFFFFF = true) :=
  ⟨⟨issues_dev (by decide +kernel), ⟨_, rfl⟩, by decide +kernel, by simp only [regOk]; decide +kernel, by simp only [regOk]; decide +kernel⟩,
    ⟨by decide +kernel, by decide +kernel⟩⟩

theorem witness_FloatExtremaSignsClassesAndSeeds :
    (Runs (.fminn 254 0 252) (typed 9 0) ∧ ((typed 9 0)).ty? = some .f64 ∧ regOk (ctx (typed 9 0) shop0) true 254 ∧ regOk (ctx (typed 9 0) shop0) true 0 ∧ regOk (ctx (typed 9 0) shop0) true 252 ∧ minMaxForm (.fminn 254 0 252) = some (254, 0, 252, false, true) ∧ Ty.f64 ∈ fltTypes) ∧
    (Runs (.fabs 255 0 0) (typed 11 0) ∧ ((typed 11 0)).ty? = some .f16x2 ∧ regOk (ctx (typed 11 0) shop0) false 255 ∧ regOk (ctx (typed 11 0) shop0) false 0 ∧ Ty.f16x2 ∈ fltTypes) ∧
    (Runs (.fneg 254 254 0) (typed 9 0) ∧ ((typed 9 0)).ty? = some .f64 ∧ regOk (ctx (typed 9 0) shop0) true 254) ∧
    (Runs (.fclass 255 255 0) (typed 10 0) ∧ ((typed 10 0)).ty? = some .bf16x2 ∧ regOk (ctx (typed 10 0) shop0) false 255) ∧
    (Runs (.seedr 255 15) team0 ∧ regOk (ctx team0 shop0) false 255) :=
  ⟨⟨issues_dev (by decide +kernel), by decide +kernel, by simp only [regOk]; decide +kernel, by simp only [regOk]; decide +kernel, by simp only [regOk]; decide +kernel, by decide +kernel, by decide +kernel⟩,
    ⟨issues_dev (by decide +kernel), by decide +kernel, by simp only [regOk]; decide +kernel, by simp only [regOk]; decide +kernel, by decide +kernel⟩,
    ⟨issues_dev (by decide +kernel), by decide +kernel, by simp only [regOk]; decide +kernel⟩,
    ⟨issues_dev (by decide +kernel), by decide +kernel, by simp only [regOk]; decide +kernel⟩,
    ⟨issues_dev (by decide +kernel), by simp only [regOk]; decide +kernel⟩⟩

theorem witness_ConversionsOfLanes :
    (Runs (.cvt 254 255 9) (typed 8 5) ∧ ((typed 8 5)).ty? = some .f32 ∧ Ty.ofCode 9 = some .f64 ∧ Ty.f64.count = Ty.f32.count ∧ regOk (ctx (typed 8 5) shop0) true 254 ∧ regOk (ctx (typed 8 5) shop0) false 255) ∧
    (Runs (.cvt 255 0 11) (typed 10 5) ∧ ((typed 10 5)).ty? = some .bf16x2 ∧ Ty.ofCode 11 = some .f16x2 ∧ Ty.f16x2.count = Ty.bf16x2.count ∧ regOk (ctx (typed 10 5) shop0) false 255) ∧
    (Runs (.cvtn 255 254 0x33) (typed 9 5) ∧ ((typed 9 5)).ty? = some .f64 ∧ (∃ g, fmtElem 0x33 = some g ∧ g.width ≤ 8) ∧ regOk (ctx (typed 9 5) shop0) false 255 ∧ regOk (ctx (typed 9 5) shop0) true 254) ∧
    (Runs (.packn 255 252 0x33) (typed 8 5) ∧ ((typed 8 5)).ty? = some .f32 ∧ (∃ g, fmtElem 0x33 = some g ∧ g.width = 8 ∧ 252 + 32 / g.width ≤ (typed 8 5).allot) ∧ regOk (ctx (typed 8 5) shop0) false 255) ∧
    (Runs (.unpkn 252 255 0x33) (typed 8 0) ∧ ((typed 8 0)).ty? = some .f32 ∧ (∃ g, fmtElem 0x33 = some g ∧ g.width = 8 ∧ 252 + 32 / g.width ≤ (typed 8 0).allot) ∧ (typed 8 0).allot ≤ 256 ∧ regOk (ctx (typed 8 0) shop0) false 255) :=
  ⟨⟨issues_dev (by decide +kernel), by decide +kernel, by decide +kernel, by decide +kernel, by simp only [regOk]; decide +kernel, by simp only [regOk]; decide +kernel⟩,
    ⟨issues_dev (by decide +kernel), by decide +kernel, by decide +kernel, by decide +kernel, by simp only [regOk]; decide +kernel⟩,
    ⟨issues_dev (by decide +kernel), by decide +kernel, ⟨_, rfl, by decide +kernel⟩, by simp only [regOk]; decide +kernel, by simp only [regOk]; decide +kernel⟩,
    ⟨issues_dev (by decide +kernel), by decide +kernel, ⟨_, rfl, by decide +kernel, by decide +kernel⟩, by simp only [regOk]; decide +kernel⟩,
    ⟨issues_dev (by decide +kernel), by decide +kernel, ⟨_, rfl, by decide +kernel, by decide +kernel⟩, by decide +kernel, by simp only [regOk]; decide +kernel⟩⟩

/-- The last stream quad. -/
theorem witness_BitStreamWords :
    (Runs (.bsini 252 255 0) team0 ∧ 252 + 4 ≤ team0.allot ∧ team0.allot ≤ 256 ∧ regOk (ctx team0 shop0) false 255) ∧
    (Runs (.bsrd 0 252 255) team0 ∧ 252 + 4 ≤ team0.allot ∧ team0.allot ≤ 256 ∧ regOk (ctx team0 shop0) false 0 ∧ regOk (ctx team0 shop0) false 255) ∧
    (Runs (.bspk 255 252 0) team0 ∧ 252 + 4 ≤ team0.allot ∧ team0.allot ≤ 256 ∧ regOk (ctx team0 shop0) false 255 ∧ regOk (ctx team0 shop0) false 0) ∧
    (Runs (.bssk 252 0 15) team0 ∧ 252 + 4 ≤ team0.allot ∧ team0.allot ≤ 256 ∧ regOk (ctx team0 shop0) false 0) ∧
    (Runs (.bspos 255 252 0) team0 ∧ 252 + 4 ≤ team0.allot ∧ team0.allot ≤ 256 ∧ regOk (ctx team0 shop0) false 255) :=
  ⟨⟨issues_dev (by decide +kernel), by decide +kernel, by decide +kernel, by simp only [regOk]; decide +kernel⟩,
    ⟨issues_dev (by decide +kernel), by decide +kernel, by decide +kernel, by simp only [regOk]; decide +kernel, by simp only [regOk]; decide +kernel⟩,
    ⟨issues_dev (by decide +kernel), by decide +kernel, by decide +kernel, by simp only [regOk]; decide +kernel, by simp only [regOk]; decide +kernel⟩,
    ⟨issues_dev (by decide +kernel), by decide +kernel, by decide +kernel, by simp only [regOk]; decide +kernel⟩,
    ⟨issues_dev (by decide +kernel), by decide +kernel, by decide +kernel, by simp only [regOk]; decide +kernel⟩⟩

theorem witness_ShufflesReadTheirSpan :
    (Runs (.shflXor 254 0 255) (typed 9 0) ∧ ((typed 9 0)).ty? = some .f64 ∧ regOk (ctx (typed 9 0) shop0) true 254 ∧ regOk (ctx (typed 9 0) shop0) true 0 ∧ spanOk (ctx (typed 9 0) shop0) ∧ (∃ g, shuffleForm (.shflXor 254 0 255) = some (254, 0, g))) ∧
    (Runs (.shflIdx 255 0 255) (typed 0 0) ∧ ((typed 0 0)).ty? = some .i32 ∧ regOk (ctx (typed 0 0) shop0) false 255 ∧ regOk (ctx (typed 0 0) shop0) false 0 ∧ spanOk (ctx (typed 0 0) shop0)) ∧
    (Runs (.bcast 63 254 63) (typed 3 0) ∧ ((typed 3 0)).ty? = some .n64 ∧ regOk (ctx (typed 3 0) shop0) true 254) :=
  ⟨⟨issues_dev (by decide +kernel), by decide +kernel, by simp only [regOk]; decide +kernel, by simp only [regOk]; decide +kernel, by simp only [spanOk]; decide +kernel, ⟨_, rfl⟩⟩,
    ⟨issues_dev (by decide +kernel), by decide +kernel, by simp only [regOk]; decide +kernel, by simp only [regOk]; decide +kernel, by simp only [spanOk]; decide +kernel⟩,
    ⟨issues_dev (by decide +kernel), by decide +kernel, by simp only [regOk]; decide +kernel⟩⟩

theorem witness_VotesBallotsAndReductions :
    Runs (.voteAny 7 0 7) team0 ∧
    Runs (.voteAll 1 7 0) team0 ∧
    (Runs (.ballot 255 0 0) team0 ∧ spanOk (ctx team0 shop0) ∧ regOk (ctx team0 shop0) ((ctx team0 shop0).sh.span = 64) 255) ∧
    (Runs (.scanAdd 254 0 0) (typed 9 5) ∧ ((typed 9 5)).ty? = some .f64 ∧ regOk (ctx (typed 9 5) shop0) true 254 ∧ regOk (ctx (typed 9 5) shop0) true 0 ∧ spanOk (ctx (typed 9 5) shop0) ∧ foldForm (.scanAdd 254 0 0) = some (.sum, true, 254, 0, 0)) ∧
    (Runs (.rmax 255 0 7) (typed 7 0) ∧ ((typed 7 0)).ty? = some .n8x4 ∧ regOk (ctx (typed 7 0) shop0) false 255 ∧ regOk (ctx (typed 7 0) shop0) false 0 ∧ foldForm (.rmax 255 0 7) = some (.most, false, 255, 0, 7) ∧ Ty.n8x4 ∈ intTypes) ∧
    lowestOfSpan (ctx team0 shop0) 0 :=
  ⟨issues_dev (by decide +kernel),
    issues_dev (by decide +kernel),
    ⟨issues_dev (by decide +kernel), by simp only [spanOk]; decide +kernel, by simp only [regOk]; decide +kernel⟩,
    ⟨issues_dev (by decide +kernel), by decide +kernel, by simp only [regOk]; decide +kernel, by simp only [regOk]; decide +kernel, by simp only [spanOk]; decide +kernel, by decide +kernel⟩,
    ⟨issues_dev (by decide +kernel), by decide +kernel, by simp only [regOk]; decide +kernel, by simp only [regOk]; decide +kernel, by decide +kernel, by decide +kernel⟩,
    by simp only [lowestOfSpan, Ctx.liveLane]; decide +kernel⟩

/-- Taken and not taken, aligned and not, each case of the end of a word; the body ends at 4. -/
theorem witness_ControlTransfersAndLoops :
    Runs (.nop 15) team0 ∧
    (Runs (.brs 63 0x8000) team0 ∧ (∃ c d, branchForm (ctx team0 shop0) (.brs 63 0x8000) = some (c, d))) ∧
    (Runs (.bany 0 1) team0 ∧ (team0.rdK 0).getLsbD 31 = true ∧ (ctx team0 shop0).exec.getLsbD 31 = true) ∧
    (Runs (.jmp 63 0) (team0.wrS 63 (-4)) ∧ ((team0.wrS 63 (-4)).rdS 63).toNat % 4 = 0) ∧
    (Runs (.ret 63 0) (team0.wrS 63 (-1)) ∧ ((team0.wrS 63 (-1)).rdS 63).toNat % 4 ≠ 0) ∧
    Runs (.call 63 0x7FFF) team0 ∧
    ((dev team0 shop0).team? 0 = some team0 ∧ pcAfter team0 (.nop 0) .next = 4 ∧ team0.loop = .none) ∧
    (({ team0 with loop := ⟨some ⟨4, 4, 2, 0⟩, some ⟨0, 4, 7, 0⟩⟩ }).loop = ⟨some ⟨4, 4, 2, 0⟩, some ⟨0, 4, 7, 0⟩⟩ ∧ pcAfter ({ team0 with loop := ⟨some ⟨4, 4, 2, 0⟩, some ⟨0, 4, 7, 0⟩⟩ }) (.nop 0) .next = 4 ∧ ({ team0 with loop := ⟨some ⟨4, 4, 2, 0⟩, some ⟨0, 4, 7, 0⟩⟩ }).rdK 7 = 0) ∧
    (Runs (.rep 63 255) (team0.wrS 63 1) ∧ (team0.wrS 63 1).rdS 63 ≠ 0) ∧
    (Runs (.rep 62 1) team0 ∧ team0.rdS 62 = 0) ∧
    Runs (.loopb 7 64) team0 :=
  ⟨issues_dev (by decide +kernel),
    ⟨issues_dev (by decide +kernel), ⟨_, _, rfl⟩⟩,
    ⟨issues_dev (by decide +kernel), by decide +kernel, by decide +kernel⟩,
    ⟨issues_dev (by decide +kernel), by decide +kernel⟩,
    ⟨issues_dev (by decide +kernel), by decide +kernel⟩,
    issues_dev (by decide +kernel),
    ⟨by decide +kernel, by decide +kernel, by decide +kernel⟩,
    ⟨by decide +kernel, by decide +kernel, by decide +kernel⟩,
    ⟨issues_dev (by decide +kernel), by decide +kernel⟩,
    ⟨issues_dev (by decide +kernel), by decide +kernel⟩,
    issues_dev (by decide +kernel)⟩

theorem witness_ExitEndAndYield :
    (Runs (.exit 0) ({ team0 with kreg := [] }) ∧ (ctx ({ team0 with kreg := [] }) shop0).exec = 0) ∧
    (Runs (.exit 0) ((team0.wrK 32 1 1).wrK 32 1 1) ∧ (ctx team0 shop0).exec ≠ 0 ∧ team0.rdK 0 &&& ~~~(ctx team0 shop0).exec = 0) ∧
    (Runs (.exit 0) ({ team0.wrK 32 1 1 with mode := 1 }) ∧ (ctx { team0.wrK 32 1 1 with mode := 1 } shop0).exec = 1 ∧ (team0.wrK 32 1 1).rdK 0 &&& ~~~1 ≠ 0) ∧
    Runs (.endTeam 15) team0 ∧
    Runs (.yield 0 0) team0 ∧
    Runs (.yield 4095 0) team0 :=
  ⟨⟨issues_dev (by decide +kernel), by decide +kernel⟩,
    ⟨issues_dev (by decide +kernel), by decide +kernel, by decide +kernel⟩,
    ⟨issues_dev (by decide +kernel), by decide +kernel, by decide +kernel⟩,
    issues_dev (by decide +kernel),
    issues_dev (by decide +kernel),
    issues_dev (by decide +kernel)⟩

/-- MODE at the last assigned TYPE and rounding mode, and just beyond; the breakpoint registers at their ends. -/
theorem witness_ModeAndPriority :
    (Runs (.setml 0 0x1F8FB417) team0 ∧ modeForm team0 (.setml 0 0x1F8FB417) = some 0x1F8FB417 ∧ ¬ modeOk 0x1F8FB817 ∧ modeOk 0x1F82B417) ∧
    (Runs (.setm 63 0) team0 ∧ modeForm team0 (.setm 63 0) = some 0 ∧ modeOk 0) ∧
    Runs (.getm 63 15) team0 ∧
    Runs (.setpri 15) team0 ∧
    (Runs (.rdsr 63 0x14) team0 ∧ sysValue (ctx team0 shop0) 0x14 = some 0) ∧
    (Runs (.rdsr 0 0x01) team0 ∧ sysValue (ctx team0 shop0) 1 = some 32) ∧
    Runs (.rdsr 0 0) team0 ∧
    (Runs (.wrsr 0x14 63 0) (team0.wrS 63 31) ∧ ((team0.wrS 63 31).rdS 63).toNat < 32) ∧
    (Runs (.wrsr 0x14 63 0) (team0.wrS 63 32) ∧ ¬ ((team0.wrS 63 32).rdS 63).toNat < 32) ∧
    (Runs (.wrsr 0x13 63 0) (team0.wrS 63 (-3)) ∧ (0x13 : BitVec 8).toNat < 0x14 ∧ ((team0.wrS 63 (-3)).rdS 63).getLsbD 1 = false) ∧
    (Runs (.wrsr 0x10 63 0) (team0.wrS 63 2) ∧ ((team0.wrS 63 2).rdS 63).getLsbD 1 = true) :=
  ⟨⟨issues_dev (by decide +kernel), by decide +kernel, by simp only [modeOk]; decide +kernel, by simp only [modeOk]; decide +kernel⟩,
    ⟨issues_dev (by decide +kernel), by decide +kernel, by simp only [modeOk]; decide +kernel⟩,
    issues_dev (by decide +kernel),
    issues_dev (by decide +kernel),
    ⟨issues_dev (by decide +kernel), by decide +kernel⟩,
    ⟨issues_dev (by decide +kernel), by decide +kernel⟩,
    issues_dev (by decide +kernel),
    ⟨issues_dev (by decide +kernel), by decide +kernel⟩,
    ⟨issues_dev (by decide +kernel), by decide +kernel⟩,
    ⟨issues_dev (by decide +kernel), by decide +kernel, by decide +kernel⟩,
    ⟨issues_dev (by decide +kernel), by decide +kernel⟩⟩

theorem witness_RolesAndCrews :
    (Issues (.role 1) (dev team0 ({ shop0 with roles := [⟨256, 15, 15, 0⟩, ⟨8, 0, 0, 4⟩] })) (ctx team0 ({ shop0 with roles := [⟨256, 15, 15, 0⟩, ⟨8, 0, 0, 4⟩] })) ∧ ({ shop0 with roles := [⟨256, 15, 15, 0⟩, ⟨8, 0, 0, 4⟩] }).roles[1]? = some ⟨8, 0, 0, 4⟩ ∧ 8 ≤ team0.allot) ∧
    (Issues (.role 0) (dev ({ team0 with allot := 8 }) ({ shop0 with roles := [⟨256, 15, 15, 0⟩], parked := [0] })) (ctx ({ team0 with allot := 8 }) ({ shop0 with roles := [⟨256, 15, 15, 0⟩], parked := [0] })) ∧ ({ shop0 with roles := [⟨256, 15, 15, 0⟩], parked := [0] }).roles[0]? = some ⟨256, 15, 15, 0⟩ ∧ ({ team0 with allot := 8 }).allot < 256 ∧ ({ shop0 with roles := [⟨256, 15, 15, 0⟩], parked := [0] }).parked ≠ []) ∧
    (Runs (.role 7) team0 ∧ shop0.roles[7]? = none) ∧
    ((dev ({ team0 with allot := 8, wait := .role 0 }) ({ shop0 with roles := [⟨256, 15, 15, 0⟩], parked := [0] })).shop? 0 = some ({ shop0 with roles := [⟨256, 15, 15, 0⟩], parked := [0] }) ∧ ({ shop0 with roles := [⟨256, 15, 15, 0⟩], parked := [0] }).phase = .running ∧ ({ shop0 with roles := [⟨256, 15, 15, 0⟩], parked := [0] }).parked = [0] ∧ (dev ({ team0 with allot := 8, wait := .role 0 }) ({ shop0 with roles := [⟨256, 15, 15, 0⟩], parked := [0] })).team? 0 = some ({ team0 with allot := 8, wait := .role 0 }) ∧ ({ team0 with allot := 8, wait := .role 0 }).wait = .role 0 ∧ (256 - ({ team0 with allot := 8, wait := .role 0 }).allot) * ({ shop0 with roles := [⟨256, 15, 15, 0⟩], parked := [0] }).lanes * 4 ≤ (dev ({ team0 with allot := 8, wait := .role 0 }) ({ shop0 with roles := [⟨256, 15, 15, 0⟩], parked := [0] })).freeVreg 0) ∧
    Runs (.join 7) team0 ∧
    (Runs (.leave 7) team0 ∧ team0.crews.getLsbD 7 = false) ∧
    (Runs (.leave 1) { team0 with crews := 2 } ∧ ({ team0 with crews := 2 } : Team).crews.getLsbD 1 = true) :=
  ⟨⟨issues_dev (by decide +kernel), by decide +kernel, by decide +kernel⟩,
    ⟨issues_dev (by decide +kernel), by decide +kernel, by decide +kernel, by decide +kernel⟩,
    ⟨issues_dev (by decide +kernel), by decide +kernel⟩,
    ⟨by decide +kernel, by decide +kernel, by decide +kernel, by decide +kernel, by decide +kernel, by decide +kernel⟩,
    issues_dev (by decide +kernel),
    ⟨issues_dev (by decide +kernel), by decide +kernel⟩,
    ⟨issues_dev (by decide +kernel), by decide +kernel⟩⟩

/-- FaultEntersTheHandler, FaultEndsTheNode and IllegalWordsFault. -/
theorem witness_Faults :
    ((dev team0 ({ shop0 with handler := some 64 })).team? 0 = some team0 ∧ (dev team0 ({ shop0 with handler := some 64 })).shop? (shopOf 0) = some ({ shop0 with handler := some 64 }) ∧ team0.ended = false ∧ team0.inHandler = false ∧ ({ shop0 with handler := some 64 }).handler = some 64 ∧ FaultCode.brk ≠ .deadline) ∧
    ((dev team0 shop0).team? 0 = some team0 ∧ (dev team0 shop0).shop? (shopOf 0) = some shop0 ∧ team0.ended = false ∧ shop0.handler = none) ∧
    (isWord (.loopb 1 65) ∧ (dev team0 shop0).cur = some 0 ∧ team0.wait = .none ∧ WellFormed (.loopb 1 65) = false) ∧
    (isWord (.mma 0 0 1 2) ∧ shop0.onV = true ∧ isMatrixOp (encodeNat (.mma 0 0 1 2) / 2 ^ 24) = true) ∧
    (isWord (.rep 1 1) ∧ loopRefuses ⟨some ⟨0, 8, 1, 0⟩, none⟩ 0 (.rep 1 1) = true) :=
  ⟨⟨by decide +kernel, by decide +kernel, by decide +kernel, by decide +kernel, by decide +kernel, by decide +kernel⟩,
    ⟨by decide +kernel, by decide +kernel, by decide +kernel, by decide +kernel⟩,
    ⟨by simp only [isWord]; decide +kernel, by decide +kernel, by decide +kernel, by decide +kernel⟩,
    ⟨by simp only [isWord]; decide +kernel, by decide +kernel, by decide +kernel⟩,
    ⟨by simp only [isWord]; decide +kernel, by decide +kernel⟩⟩

theorem witness_ErrorRecordIsWrittenOnce :
    0 = localOf (((dev team0 shop0).root 0 0).addr + ((Sparse.look ((dev team0 shop0).func 0).queues 0).getD LQueue.zero).err.toNat) ∧
    0 + 64 ≤ hbmTop ∧
    2 ^ 512 - 1 < 2 ^ 512 ∧
    (dev team0 shop0).mem.byte 0 % 2 = 0 ∧
    ({ dev team0 shop0 with mem := (Mem.empty.write 0 [1]) } : State).mem.byte 0 % 2 = 1 :=
  ⟨by decide +kernel, by decide +kernel, by decide +kernel, by decide +kernel, by decide +kernel⟩

theorem witness_TrapsBreakpointsAndReturn :
    (Runs (.trap 0xFFFF) team0 ∧ team0.inHandler = false) ∧
    (Runs (.trap 0) ({ team0 with inHandler := true }) ∧ ({ team0 with inHandler := true }).inHandler = true) ∧
    Runs (.bkpt 0xFFFF) team0 ∧
    (Runs (.eret 0) ({ team0 with inHandler := true }) ∧ ({ team0 with inHandler := true }).inHandler = true ∧ modeOk ((({ team0 with inHandler := true }).rdS 62).setWidth 32)) ∧
    (Runs (.eret 15) team0 ∧ ¬ team0.inHandler = true) ∧
    ((dev ({ team0 with dlleft := 0 }) shop0).cur = some 0 ∧ (dev ({ team0 with dlleft := 0 }) shop0).team? 0 = some ({ team0 with dlleft := 0 }) ∧ (dev ({ team0 with dlleft := 0 }) shop0).shop? (shopOf 0) = some shop0 ∧ ({ team0 with dlleft := 0 }).ended = false ∧ ({ team0 with dlleft := 0 }).wait = .none ∧ ({ team0 with dlleft := 0 }).dlleft = 0) :=
  ⟨⟨issues_dev (by decide +kernel), by decide +kernel⟩,
    ⟨issues_dev (by decide +kernel), by decide +kernel⟩,
    issues_dev (by decide +kernel),
    ⟨issues_dev (by decide +kernel), by decide +kernel, by simp only [modeOk]; decide +kernel⟩,
    ⟨issues_dev (by decide +kernel), by decide +kernel⟩,
    ⟨by decide +kernel, by decide +kernel, by decide +kernel, by decide +kernel, by decide +kernel, by decide +kernel⟩⟩

/-! ### Memory words -/

/-- The access that a check gives. -/
def got (r : Except Trap Access) : Access :=
  match r with
  | .ok a => a
  | .error _ => ⟨0, .nowhere, 0, .read, .null, 0, 0, 0, 0⟩

/-- The fault that a check gives. -/
def refused (r : Except Trap Access) : Option Trap :=
  match r with
  | .ok _ => none
  | .error e => some e

/-- A check passes and its access can be performed now. -/
def accessible (s : State) (r : Except Trap Access) : Bool :=
  (refused r).isNone && !(got r).unsent && s.accessReady (got r) && decide (s.returnFault (got r) = none)

theorem of_accessible {s : State} {r : Except Trap Access} (h : accessible s r = true) : r = .ok (got r) ∧ readyNow s (got r) := by
  cases r with
  | error e => simp [accessible, refused] at h
  | ok a =>
    simp only [accessible, refused, got, Option.isNone_none, Bool.true_and, Bool.and_eq_true, Bool.not_eq_true', decide_eq_true_eq] at h
    exact ⟨rfl, h.1.1, h.1.2, of_decide_eq_true h.2⟩

theorem of_refused {r : Except Trap Access} {e : Trap} (h : refused r = some e) : r = .error e := by
  cases r with
  | error f => simpa [refused] using h
  | ok a => simp [refused] at h

/-- The check passes. -/
def passes (r : Except Trap Access) : Bool := (refused r).isNone

theorem of_passes {r : Except Trap Access} (h : passes r = true) : r = .ok (got r) := by
  cases r with
  | error e => simp [passes, refused] at h
  | ok a => rfl

/-- A word whose operands pass and whose lanes, one at least, all have an access that can be performed now. -/
def canAccess (i : Instr) (ty : Ty) (t : Team) : Prop :=
  Runs i t ∧ (dev t shop0).late = false ∧ ∃ F, memForm (ctx t shop0) (dev t shop0) ty i = some F ∧ F.ok ∧ F.lanes ≠ [] ∧
    (∀ l ∈ F.lanes, F.access l = .ok (got (F.access l)) ∧ readyNow (dev t shop0) (got (F.access l))) ∧ ∀ accs, ¬ heldBack shop0.rev2 t.outStores i accs

/-- No unacknowledged store holds anything back. -/
theorem not_held (r : Bool) (i : Instr) (accs : List Access) : ¬ heldBack r [] i accs := by simp [heldBack]

/-- The boot team with lane 0 alone live, under a TYPE; c3 is the whole memory of the device. -/
def lone (ty : Nat) : Team := (typed ty 0).wrK 32 0 1

theorem can {i : Instr} {ty : Ty} {t : Team} {F : MemForm} (hF : memForm (ctx t shop0) (dev t shop0) ty i = some F) (hok : F.ok)
    (hi : (!t.ended && decide (t.wait = .none) && clean i t shop0) = true) (hl : F.lanes ≠ [])
    (ha : F.lanes.all (fun l => accessible (dev t shop0) (F.access l)) = true) (ho : t.outStores = []) : canAccess i ty t :=
  ⟨issues_dev hi, rfl, F, hF, hok, hl, fun l h => of_accessible (List.all_eq_true.1 ha l h), fun _ => ho ▸ not_held _ _ _⟩

/-- Every memory word: its highest operands, a lane whose access passes. -/
theorem witness_MemoryWordsPerformTheirAccesses :
    canAccess (.ld 255 (.c 3) 0) .i32 (lone 0) ∧ canAccess (.ldAcq 254 (.c 3) 255) .f64 (lone 9) ∧ canAccess (.ldv 0 3 63) .i32 (typed 0 0) ∧
      canAccess (.ldu 63 3 0) .i32 (typed 0 0) ∧ canAccess (.st 0 (.c 3) 0) .b64 (lone 13) ∧ canAccess (.stRel 0 (.c 3) 0) .i32 (lone 0) ∧
      canAccess (.stv 254 3 0) .n64 (typed 3 0) ∧ canAccess (.stu 0 3 0) .i32 (typed 0 0) := by
  refine ⟨can rfl ?_ ?_ ?_ ?_ ?_, can rfl ?_ ?_ ?_ ?_ ?_, can rfl ?_ ?_ ?_ ?_ ?_, can rfl ?_ ?_ ?_ ?_ ?_, can rfl ?_ ?_ ?_ ?_ ?_, can rfl ?_ ?_ ?_ ?_ ?_,
    can rfl ?_ ?_ ?_ ?_ ?_, can rfl ?_ ?_ ?_ ?_ ?_⟩ <;>
    first | decide +kernel | (simp only [loadForm, storeForm, regOk, capOk, scopeOk]; decide +kernel)

theorem witness_capability_and_atomic_words :
    canAccess (.ldq (.c 31) (.c 3) 63) .i32 (lone 0) ∧ canAccess (.ldq (.quad 63) (.c 3) 0) .i32 (lone 0) ∧
      canAccess (.stq (.c 0) (.c 3) 0) .i32 (lone 0) ∧ canAccess (.stq (.quad 63) (.c 3) 0) .i32 (lone 0) ∧
      canAccess (.bsld 252 3 0) .i32 (lone 0) ∧ canAccess (.atom 9 15 3 3 255) .n32 (lone 1) ∧
      canAccess (.red 1 0 0 3 0) .f32 (lone 8) ∧ canAccess (.atomu 8 15 0 3 63) .i64 (typed 2 0) := by
  refine ⟨can rfl ?_ ?_ ?_ ?_ ?_, can rfl ?_ ?_ ?_ ?_ ?_, can rfl ?_ ?_ ?_ ?_ ?_, can rfl ?_ ?_ ?_ ?_ ?_, can rfl ?_ ?_ ?_ ?_ ?_, can rfl ?_ ?_ ?_ ?_ ?_,
    can rfl ?_ ?_ ?_ ?_ ?_, can rfl ?_ ?_ ?_ ?_ ?_⟩ <;>
    first | decide +kernel | (simp only [loadForm, storeForm, regOk, capOk, scopeOk]; decide +kernel)

/-- The boot team over memory with poison in its first granule. -/
def poisoned (t : Team) : State := { dev t shop0 with mem := ⟨[], [], [(0, true)]⟩, live := [(0, true)] }

/-- Its second and third clauses: the null capability faults, and so does poison. -/
theorem witness_memory_words_that_fault :
    (∃ F, memForm (ctx (lone 0) shop0) (dev (lone 0) shop0) .i32 (.ld 255 (.c 0) 0) = some F ∧ F.lanes = [0] ∧
        F.access 0 = .error ⟨.tag, 0, 1, 1, 0, false, 0, 0, 0⟩) ∧
      (∃ F, memForm (ctx (lone 0) shop0) (poisoned (lone 0)) .i32 (.ld 255 (.c 3) 0) = some F ∧ F.lanes = [0] ∧
        F.access 0 = .ok (got (F.access 0)) ∧ (poisoned (lone 0)).returnFault (got (F.access 0)) = some ⟨.poison, 0, 0, 0, 0, false, 0, 0, 0⟩) ∧
      ∀ i accs, ¬ heldBack shop0.rev2 (lone 0).outStores i accs := by
  refine ⟨⟨_, rfl, ?_, of_refused ?_⟩, ⟨_, rfl, ?_, of_passes ?_, ?_⟩, not_held _⟩ <;> decide +kernel

/-- An access of the last bytes of the HBM, of two words of a private region, and of a scratchpad. -/
theorem witness_AccessesOfMemory :
    inMemory (dev team0 shop0) ⟨0, .home (hbmTop - 1), 8, .read, .null, 1, 0, 0, 0⟩ ∧
      inMemory (dev team0 shop0) ⟨31, .split 0 4, 8, .write (List.replicate 8 0), .null, 1, 0, 0, 0⟩ ∧
      inMemory (dev team0 shop0) ⟨0, .spad 0 1048560, 16, .writeCap .null, .null, 1, 0, 0, 0⟩ ∧
      (∃ k, cellOf ⟨0, .spad 0 1048560, 16, .writeCap .null, .null, 1, 0, 0, 0⟩ 0 = .hbm (16 * k) ∨
        ∃ n, cellOf ⟨0, .spad 0 1048560, 16, .writeCap .null, .null, 1, 0, 0, 0⟩ 0 = .pad n (16 * k)) ∧
      atomicTable .n32 7 7 9 8 = some 9 ∧ atomicTable .n32 7 6 9 8 = none := by
  refine ⟨?_, ?_, ?_, ⟨65535, .inr ⟨0, rfl⟩⟩, ?_, ?_⟩ <;> first | decide +kernel | (simp only [inMemory]; decide +kernel)

/-- c4 names peer 5. -/
def peerCap : Cap := { resetRoot with kind := kSealed, base := BitVec.ofNat 53 (5 * 2 ^ 39), aux := (kData ++ (0 : BitVec 14) ++ (0 : BitVec 7)) }

/-- A private region of 64 lanes × 16 bytes at address 0. -/
def privRoot : Cap := { resetRoot with kind := kPrivate, lexp := 0, lman := 32 }

/-- A load and a store of a data capability in a function's band. -/
def ldUse : Use := ⟨[kData], true, pLD, true, false⟩
/-- The store. -/
def stUse : Use := ⟨[kData, kPrivate, kLocal], true, pST, false, true⟩

/-- The check's answer for the boot shop in a band. -/
def checked (band : BitVec 8) (u : Use) (c : Cap) (off size align : Nat) : Option (Place × Nat) × Option (FaultCode × Nat) :=
  match (ctx team0 { shop0 with band := band }).place (dev team0 shop0) u c 1 1 3 off size align with
  | .ok p => (some p, none)
  | .error e => (none, some (e.code, e.step))

/-- Where R65's check passes, and every check that can fail, at the boundary of its range (R65, R70, R144). -/
theorem witness_CapabilityCheckIsExact :
    checked 0 ldUse resetRoot (hbmTop - 8) 8 8 = (some (.home (hbmTop - 8), hbmTop - 8), none) ∧
      checked 0 ldUse Cap.null 0 8 8 = (none, some (.tag, 1)) ∧ checked 0 ldUse { resetRoot with kind := kCode } 0 8 8 = (none, some (.kind, 2)) ∧
      checked 0 ldUse { peerCap with kind := kData } 0 8 8 = (none, some (.sealed, 3)) ∧ checked 7 ldUse resetRoot 0 8 8 = (none, some (.band, 4)) ∧
      checked 7 stUse { resetRoot with band := 255 } 0 8 8 = (none, some (.perm, 4)) ∧
      checked 0 ldUse { resetRoot with perm := pST } 0 8 8 = (none, some (.perm, 5)) ∧
      checked 7 ldUse { resetRoot with band := 7 } mmioBase 8 8 = (none, some (.perm, 5)) ∧
      checked 0 ldUse resetRoot (resetRoot.len - 4) 8 4 = (none, some (.bounds, 7)) ∧ checked 0 ldUse resetRoot 4 8 8 = (none, some (.align, 8)) ∧
      checked 0 ldUse resetRoot mmioBase 16 16 = (none, some (.align, 8)) ∧
      checked 0 stUse { resetRoot with perm := 0xFFF } 0 8 8 = (none, some (.cow, 9)) ∧
      checked 0 ldUse peerCap 16 8 8 = (some (.remote 0, 5 * 2 ^ 43 + 16), none) := by
  refine ⟨?_, ?_, ?_, ?_, ?_, ?_, ?_, ?_, ?_, ?_, ?_, ?_, ?_⟩ <;> decide +kernel

/-- A private region of 4 registers of 32 lanes: lane 1 in the word and the quad view, and past the limit (R144). -/
theorem witness_private_views :
    checked 0 stUse privRoot 12 4 4 = (some (.home 388, 388), none) ∧ checked 0 stUse privRoot 0 16 16 = (some (.home 16, 16), none) ∧
      checked 0 stUse privRoot 8 8 8 = (some (.split 260 388, 260), none) ∧ checked 0 stUse privRoot 16 4 4 = (none, some (.stackLimit, 7)) ∧
      checked 0 stUse privRoot 16 16 16 = (none, some (.stackLimit, 7)) ∧ checked 0 stUse privRoot 1 4 4 = (none, some (.align, 8)) := by
  refine ⟨?_, ?_, ?_, ?_, ?_, ?_⟩ <;> decide +kernel

/-- The boot team with a sealed capability of a peer in c4. -/
def withPeer : Team := (lone 0).wrC 4 peerCap

/-- Accesses of the peer and of this device. -/
def peerLoad : Access := ⟨0, .remote 0, 4, .read, peerCap, 1, 4, 0, 0⟩
/-- A store at the peer. -/
def peerStore : Access := ⟨0, .remote 0, 4, .write [0, 0, 0, 0], peerCap, 1, 4, 0, 0⟩
/-- A store here through an RC capability. -/
def rcStore : Access := ⟨0, .home 0, 4, .write [0, 0, 0, 0], { resetRoot with ord := 1 }, 1, 3, 0, 0⟩

/-- A load of a peer waits for its answer; a load asked to return late waits; what stores hold back, and the waits that end. -/
theorem witness_MemoryWordsThatWait :
    heldBack false [.store true false true] (.ld 0 (.c 4) 0) [peerLoad] ∧ heldBack false [.dead 0 16 true] (.ld 0 (.c 4) 0) [peerLoad] ∧
      heldBack false [.store false false false] (.stRel 0 (.c 4) 0) [peerStore] ∧ heldBack true [.store true false false] (.st 0 (.c 3) 0) [rcStore] ∧
      ¬ heldBack false [.store true false false] (.st 0 (.c 3) 0) [rcStore] ∧ ¬ heldBack false [.dead 0 16 false] (.ld 0 (.c 4) 0) [peerLoad] ∧
    (∃ F, memForm (ctx withPeer shop0) (dev withPeer shop0) .i32 (.ld 0 (.c 4) 0) = some F ∧ F.ok ∧ F.lanes = [0] ∧
        F.access 0 = .ok (got (F.access 0)) ∧ (got (F.access 0)).unsent = true ∧ ∀ i accs, ¬ heldBack shop0.rev2 withPeer.outStores i accs) ∧
      (∃ F, memForm (ctx (lone 0) shop0) { dev (lone 0) shop0 with late := true } .i32 (.ld 0 (.c 3) 0) = some F ∧ F.ok ∧ F.lanes = [0] ∧
        F.access 0 = .ok (got (F.access 0)) ∧ (got (F.access 0)).unsent = false ∧ (got (F.access 0)).isHomeLoad = true) ∧
      acknowledges 0 [.dead 0 16 false] (.store true false true) (.storeAck 0) ∧
      acknowledges 0 [.store false true false] (.dead 0 16 true) (.deadComplete 0) := by
  refine ⟨.inl ⟨⟨_, List.mem_cons_self, by decide +kernel⟩, _, List.mem_cons_self, by decide +kernel⟩,
    .inr (.inl ⟨⟨_, List.mem_cons_self, by decide +kernel⟩, _, List.mem_cons_self, by decide +kernel⟩),
    .inr (.inr ⟨.inl (by decide +kernel), .inr ⟨⟨_, List.mem_cons_self, by decide +kernel⟩, by simp⟩⟩),
    .inr (.inr ⟨.inr ⟨rfl, _, List.mem_cons_self, by decide +kernel⟩, .inl ⟨_, List.mem_cons_self, by decide +kernel⟩⟩), ?_, ?_,
    ⟨_, rfl, ?_, ?_, of_passes ?_, ?_, not_held _⟩, ⟨_, rfl, ?_, ?_, of_passes ?_, ?_, ?_⟩, .inl ⟨rfl, by simp [OutStore.isStore], rfl⟩,
    .inr ⟨rfl, by simp [OutStore.isStore], rfl⟩⟩ <;>
    first | decide +kernel | (simp only [loadForm, regOk, capOk]; decide +kernel) | (simp [heldBack, isRelease, OutStore.isSo, OutStore.isPeer])

/-- A release here waits for the team's store at a peer, and not for another once that one is acknowledged (R166). -/
theorem witness_held_words_go_on :
    heldBack false [.store true false false, .store false false false] (.stRel 0 (.c 3) 0) [rcStore] ∧
      ¬ heldBack false [.store false false false] (.stRel 0 (.c 3) 0) [rcStore] ∧ rcStore.unsent = false ∧
      (dev (lone 0) shop0).accessReady rcStore = true ∧ (dev (lone 0) shop0).returnFault rcStore = none := by
  refine ⟨.inr (.inr ⟨.inl (by decide +kernel), .inl ⟨_, List.mem_cons_self, by decide +kernel⟩⟩), ?_, ?_, ?_, ?_⟩ <;>
    first | decide +kernel | (simp [heldBack, isRelease, OutStore.isSo, OutStore.isPeer]; decide +kernel)

/-- The boot team waiting for the data of a load. -/
def loading : Team := { lone 0 with wait := .access (.ld 0 (.c 3) 0) [⟨0, .home 0, 4, .read, resetRoot, 1, 3, 0, 0⟩] }

theorem witness_LoadDataReturn :
    (dev loading shop0).team? 0 = some loading ∧ (∃ F, memForm (ctx loading shop0) (dev loading shop0) .i32 (.ld 0 (.c 3) 0) = some F) ∧
      loading.ty? = some .i32 ∧ (dev loading shop0).accessReady ⟨0, .home 0, 4, .read, resetRoot, 1, 3, 0, 0⟩ = true ∧
      (dev loading shop0).returnFault ⟨0, .home 0, 4, .read, resetRoot, 1, 3, 0, 0⟩ = none ∧ ∀ i accs, ¬ heldBack shop0.rev2 loading.outStores i accs := by
  refine ⟨?_, ⟨_, rfl⟩, ?_, ?_, ?_, not_held _⟩ <;> decide +kernel

/-- c5 is memory of binary8 with 3 bits of precision, plain; c6 the same, block-scaled. -/
def narrow (geo : BitVec 2) : Team := ((lone 8).wrC 5 { resetRoot with fmt := 0x33, geo := geo })

/-- What lane 0 does at LDW or STN, through c5 with v0 as the offset. -/
def wideLane (store blk : Bool) (t : Team) : Wide :=
  let x := ctx t shop0
  let f : ElemFmt := (fmtElem 0x33).getD (.int true 8)
  let n := wideBytes f .f32
  let kinds : List (BitVec 4) := if store then [kData, kLocal] else [kData, kLocal, kCode, kLayout]
  ⟨f, blk, got (x.access (dev t shop0) (if store then ⟨kinds, true, if blk then pLD ||| pST else pST, false, true⟩ else ⟨kinds, true, pLD, true, false⟩)
      (.c 5) 0 (x.t.rdV 0 0).toNat n n (if store then .write [] else .read)),
    got (x.access (dev t shop0) ⟨kinds, true, pLD, true, false⟩ (.c 5) 0 (blockScaleByte f.width (blockElemAt f.width (x.t.rdV 0 0).toNat)) 1 1 .read)⟩

theorem inMemory_home {s : State} {a : Access} {p : Nat} (h : a.place = .home p) (hp : p < hbmTop) : inMemory s a := by
  unfold inMemory; rw [h]; exact hp

/-- Plain and block-scaled storage, loaded and stored. -/
theorem witness_WideLoadsAndNarrowStores :
    (narrow 1).ty? = some .f32 ∧ Runs (.ldw 0 (.c 5) 0) (narrow 1) ∧ Runs (.stn 0 (.c 5) 0) (narrow 0) ∧ (ctx (narrow 1) shop0).lanes = [0] ∧
      (ctx (narrow 1) shop0).wideCheck .f32 0 ((narrow 1).rdC 5) 0 1 5 = .ok () ∧
      wideOk (ctx (narrow 0) shop0) (dev (narrow 0) shop0) false .f32 0 (.c 5) 0 0 (wideLane false false (narrow 0)) ∧
      wideOk (ctx (narrow 1) shop0) (dev (narrow 1) shop0) true .f32 0 (.c 5) 0 0 (wideLane true true (narrow 1)) ∧
      (narrow 0).outStores = [] ∧ (narrow 1).outStores = [] := by
  refine ⟨?_, issues_dev ?_, issues_dev ?_, ?_, rfl, ⟨?_, ?_, ?_, of_passes ?_, ⟨?_, ?_, ?_⟩, ?_, ?_⟩,
    ⟨?_, ?_, ?_, of_passes ?_, ⟨?_, ?_, ?_⟩, ?_, fun _ => ⟨?_, of_passes ?_, ⟨?_, ?_, ?_⟩, ?_⟩⟩, ?_, ?_⟩ <;>
    first | decide +kernel | exact inMemory_home (p := 0) (by decide +kernel) (by decide +kernel) |
      exact inMemory_home (p := 1024) (by decide +kernel) (by decide +kernel) | (intro h; exact absurd h (by decide +kernel))

/-- The boot shop with an MCAS block of one entry at the start of its scratchpad: 4 bytes at address 0. -/
def shopMcas : Shop := { shop0 with spad := ((Mem.empty.write 0 [1]).writeCap 16 resetRoot).write 40 [4] }

/-- Its entry. -/
def entry0 : McasEntry := ⟨0, 4, 0, false, 0, false, false⟩

theorem witness_McasChecksThenEvent :
    Issues (.mcas 63 2 15) (dev team0 shopMcas) (ctx team0 shopMcas) ∧
      (let x := ctx team0 shopMcas
       let s := dev team0 shopMcas
       let head := bytesNat (shopMcas.spad.read 0 16)
       localOf (team0.rdC 2).addr = 0 ∧ head % 2 ^ 5 = 1 ∧ head / 2 ^ 5 % 2 ^ 3 = 0 ∧ head / 2 ^ 14 = 0 ∧ 16 + 64 ≤ (team0.rdC 2).len ∧
       (∀ g, g ∈ granules 0 80 → Sparse.get false shopMcas.spad.poison g = false) ∧
       ([s.mcasRaw shopMcas.spad 0 0 (team0.rdC 2).loadsTags].all fun r => r.clean) = true ∧
       (match x.mcasEntries s 0 [s.mcasRaw shopMcas.spad 0 0 (team0.rdC 2).loadsTags] with
        | .ok es => es.map (fun e => (e.addr, e.width))
        | .error _ => []) = [(0, 4)] ∧
       passes (x.access s ⟨[kLocal], false, pLD ||| pST, false, true⟩ (.c 2) 0 0 16 16 .read) = true) ∧
      entryIn entry0 ∧ heldAt (dev team0 shopMcas) entry0 = (entry0.exp, entry0.expTag) ∧
      heldAt (dev team0 shopMcas) { entry0 with exp := 1 } ≠ (1, false) ∧ (∀ o ∈ team0.outStores, o.isPeer = false) ∧ entryIn ⟨hbmTop - 16, 16, 0, true, 0, false, false⟩ := by
  refine ⟨⟨rfl, ?_, ?_, ?_, ?_, ?_, ?_, ?_⟩, ?_, ?_, ?_, ?_, ?_⟩ <;> first | decide +kernel | (simp only [entryIn]; decide +kernel)

/-- DEAD of one granule, of none, and of a length that is no multiple of 16. -/
theorem witness_DeadAndPrefetch :
    Runs (.dead 63 3 0) (team0.wrS 63 16) ∧ ((team0.wrS 63 16).rdS 63).toNat % 16 = 0 ∧ Runs (.dead 0 3 0) team0 ∧ (team0.rdS 0).toNat % 16 = 0 ∧
      Runs (.dead 63 3 0) (team0.wrS 63 17) ∧ ((team0.wrS 63 17).rdS 63).toNat % 16 ≠ 0 ∧
      (ctx team0 shop0).place (dev team0 shop0) ⟨[kData], false, pST, false, true⟩ (team0.rdC 3) 0 1 3 0 16 16 = .ok (.home 0, 0) ∧
      (let so : Bool := (team0.rdC 3).isSo; so = true ∧ ¬ (so = true ∧ ∃ o ∈ team0.outStores, o.isSo = true ∧ o.isPeer = true) ∧
        (so = true ∧ ∃ o ∈ [OutStore.store true false true, .dead 0 16 true], o.isSo = true ∧ o.isPeer = true)) ∧
      Runs (.prf 1 (.quad 63) 255) team0 ∧ capOk (ctx team0 shop0) (.quad 63) ∧ regOk (ctx team0 shop0) false 255 := by
  refine ⟨issues_dev ?_, ?_, issues_dev ?_, ?_, issues_dev ?_, ?_, ?_, ⟨?_, ?_, ?_⟩, issues_dev ?_, ?_, ?_⟩ <;>
    first | decide +kernel | (simp only [capOk]; decide +kernel) | trivial | (simp only [regOk]; decide +kernel)

/-! ### Capability words -/

theorem witness_CapabilityDerivations :
    derivable (ctx (team0.wrS 1 16) shop0) (dev (team0.wrS 1 16) shop0) resetRoot ∧ Runs (.pbound 31 3 0) (team0.wrS 1 16) ∧
      boundable 32 resetRoot 0 16 ∧ resetRoot.len < resetRoot.len + 1 ∧ ¬ boundable 32 resetRoot 8 16 ∧
      Runs (.pboundv 252 3 254) team0 ∧ boundable 32 resetRoot 0 0 ∧
      Runs (.pperm 31 3 63) (team0.wrS 63 0x1FFF) ∧ ((team0.wrS 63 0x1FFF).rdS 63).getLsbD 13 = false ∧
      Runs (.pperm 31 3 63) (team0.wrS 63 0x2000) ∧ ((team0.wrS 63 0x2000).rdS 63).getLsbD 13 = true ∧
      derivable (ctx team0 { shop0 with band := 7 }) (dev team0 { shop0 with band := 7 }) { resetRoot with band := 7 } ∧
      ({ resetRoot with band := 7 } : Cap).band ≠ 0 ∧
      Runs (.pform 31 3 63) (team0.wrS 63 0x7FFC00) ∧ (3 : BitVec 4).toNat < 6 := by
  refine ⟨?_, issues_dev ?_, ?_, ?_, ?_, issues_dev ?_, ?_, issues_dev ?_, ?_, issues_dev ?_, ?_, ?_, ?_, issues_dev ?_, ?_⟩ <;>
    first | decide +kernel | (simp only [derivable]; decide +kernel) | (simp only [boundable]; decide +kernel)

/-- c5 is a sealed capability of this device for itself. -/
def sealedTeam : Team := team0.wrC 5 { resetRoot with kind := kSealed, perm := 0xFFE, aux := kData ++ (0 : BitVec 14) ++ (0 : BitVec 7) }

/-- The boot team before DEVID is written, with a target on another device in s63. -/
theorem witness_SealingBeforeDevid :
    (let t := team0.wrS 63 1
     let s : State := { dev t shop0 with devSet := false }
     Issues (.plock 31 3 63) s (ctx t shop0) ∧ derivable (ctx t shop0) s (t.rdC 3) ∧ sealable (t.rdC 3).kind ∧
      (t.rdC 3).perm &&& pSEAL = pSEAL ∧ (t.rdC 3).perm &&& pEXPORT = pEXPORT ∧ (t.rdS 63).toNat % 2 ^ 14 ≠ s.devId.toNat ∧ s.devSet = false) := by
  refine ⟨@issues_dev (.plock 31 3 63) (team0.wrS 63 1) shop0 ?_, ?_, ?_, ?_, ?_, ?_, rfl⟩ <;>
    first | decide +kernel | (simp only [derivable]; decide +kernel) | (simp only [sealable]; decide +kernel)

theorem witness_SealingAndInspection :
    Runs (.plock 31 3 63) team0 ∧ derivable (ctx team0 shop0) (dev team0 shop0) (team0.rdC 3) ∧ sealable (team0.rdC 3).kind ∧
      (team0.rdC 3).perm &&& pSEAL = pSEAL ∧ (team0.rdS 63).toNat % 2 ^ 14 = (dev team0 shop0).devId.toNat ∧
      ((team0.wrS 63 16383).rdS 63).toNat % 2 ^ 14 ≠ (dev team0 shop0).devId.toNat ∧ (team0.rdC 3).perm &&& pEXPORT = pEXPORT ∧
      Runs (.punlock 31 5 0) sealedTeam ∧ (sealedTeam.rdC 5).target = 0 ∧ (sealedTeam.rdC 5).dev = 0 ∧ (sealedTeam.rdC 5).perm &&& pUNSEAL = pUNSEAL ∧
      Runs (.pinfo 63 3 10) team0 ∧ infoOf (team0.rdC 3) 10 = some (BitVec.ofNat 64 (2 ^ 43)) ∧ Runs (.pwithin 63 31 3) team0 ∧ Runs (.psame 63 0 31) team0 ∧
      Runs (.pmov (.c 31) (.c 3) 15) team0 ∧ Runs (.pmov (.quad 63) (.quad 0) 0) team0 ∧ capOk (ctx team0 shop0) (.quad 0) ∧
      Runs (.deleg 3 3 62) team0 ∧ accessible (dev team0 shop0) ((ctx team0 shop0).access (dev team0 shop0)
        ⟨[kData, kLocal, kPrivate], true, pST ||| pSTC, false, true⟩ (.c 3) 0 (team0.rdS 63).toNat 16 16 (.writeCap Cap.null)) = true ∧
      (∀ i accs, ¬ heldBack shop0.rev2 team0.outStores i accs) ∧ (dev team0 shop0).struck resetRoot = false ∧
      ({ dev team0 shop0 with quar := [⟨0, 2 ^ 43, 0, 1⟩] } : State).struck resetRoot = true ∧ (team0.wrC 3 resetRoot).capPoison 3 = false := by
  refine ⟨issues_dev ?_, ?_, ?_, ?_, ?_, ?_, ?_, issues_dev ?_, ?_, ?_, ?_, issues_dev ?_, ?_, issues_dev ?_, issues_dev ?_, issues_dev ?_,
    issues_dev ?_, ?_, issues_dev ?_, ?_, not_held _, ?_, ?_, ?_⟩ <;>
    first | decide +kernel | (simp only [derivable]; decide +kernel) | (simp only [sealable]; decide +kernel) | (simp only [capOk]; decide +kernel)

/-- A team that waits at a blocking word. -/
def blocked (i : Instr) (t : Team) : Team := { t with wait := .blocked i false }

/-- Every blocking word of the group runs and runs again; the filter has room, and is full; a remote store is outstanding, and is not. -/
theorem witness_RevocationFencesAndCounts :
    Runs (.revoke 63 3 0) team0 ∧ Reissues (.revoke 63 3 0) (dev (blocked (.revoke 63 3 0) team0) shop0) (ctx (blocked (.revoke 63 3 0) team0) shop0) false ∧
      (dev team0 shop0).filterTakes 0 0 = true ∧ (dev team0 shop0).filterTakes 7 0 = false ∧
      ({ dev team0 shop0 with quar := List.replicate 32 ⟨0, 16, 0, 1⟩ } : State).filterTakes 0 0 = false ∧
      Runs (.sweepq 63 15) team0 ∧ scopeOk (ctx team0 shop0) (dev team0 shop0) 63 ∧ Runs (.fence 1 0) team0 ∧ Runs (.fence 0 63) team0 ∧
      Runs (.fence 0 3) { team0 with outStores := [.store false true false] } ∧
      Runs (.fence 0 1) { team0 with outStores := [.dead 0 16 true] } ∧ Runs (.fence 0 2) { team0 with outStores := [.store false false true] } ∧
      Reissues (.fence 1 0) (dev (blocked (.fence 1 0) team0) shop0) (ctx (blocked (.fence 1 0) team0) shop0) false ∧
      ¬ scopeOk (ctx team0 { shop0 with band := 1 }) (dev team0 { shop0 with band := 1 }) 3 ∧
      Runs (.waitc 63 63 0 62) team0 ∧ waitCounts (dev { team0 with outStores := [.store false false false, .store true false true] } shop0)
        (ctx { team0 with outStores := [.store false false false, .store true false true] } shop0) = (2, 0, 0) ∧
      Runs (.qfence 63) team0 := by
  refine ⟨issues_dev ?_, reissues_dev ?_, ?_, ?_, ?_, issues_dev ?_, ?_, issues_dev ?_, issues_dev ?_, issues_dev ?_,
    issues_dev ?_, issues_dev ?_, reissues_dev ?_, ?_, issues_dev ?_, ?_, issues_dev ?_⟩ <;>
    first | decide +kernel | (simp only [scopeOk]; decide +kernel)

/-! ### Barriers, queues, waits -/

/-- The boot shop with a scratchpad. -/
def withPad (m : Mem) : Shop := { shop0 with spad := m }

theorem syncOk_of {x : Ctx} {s : State} {c : BitVec 5} {off n o : Nat}
    (h : passes (x.access s ⟨[kLocal], false, pLD ||| pST, false, true⟩ (.c c) 0 off n n .read) = true)
    (ho : o = localOf (x.t.rdC c.toNat).addr + off) : syncOk x s c off n o := ⟨⟨_, of_passes h⟩, ho⟩

/-- A barrier word in crew mode, frozen, of crew 0. -/
def crewBar : Bar := ⟨true, true, true, 0, -2 ^ 27, 2 ^ 8 - 1, 0xFFFFFFFF, true, 2 ^ 16 - 1⟩

theorem witness_BarrierUpdatesAndWords :
    barFits crewBar ∧ crewBar.err = true ∧ barFits ⟨false, false, false, 7, 2 ^ 27 - 1, 2 ^ 16 - 1, 0, false, 2 ^ 16 - 1⟩ ∧
      ({ crewBar with err := false } : Bar).pending + -1 < -2 ^ 27 ∧
      Runs (.bari 2 62) (team0.wrS 63 0xFFFFF) ∧ syncOk (ctx team0 shop0) (dev team0 shop0) 2 0 16 0 ∧ ((team0.wrS 63 0xFFFFF).rdS 63).toNat < 2 ^ 20 ∧
      2 ^ 20 ≤ ((team0.wrS 63 0x100000).rdS 63).toNat ∧ Runs (.bara 63 2 0) team0 ∧ barOk (ctx team0 shop0) (dev team0 shop0) 2 0 0 ∧
      mayArrive (ctx team0 shop0) (shop0.bar 0) ∧ ¬ mayArrive (ctx team0 shop0) { (shop0.bar 0) with crewmode := true, crew := 7 } ∧
      scopeOk (ctx team0 shop0) (dev team0 shop0) team0.scope ∧ Runs (.barx 2 62) (team0.wrS 63 0x7FFFFFF) ∧ ((team0.wrS 63 0x7FFFFFF).rdS 63).toNat < 2 ^ 27 ∧
      Runs (.barw 63 2 62) team0 ∧ Runs (.bary 63 2 0) team0 ∧ (∀ w ∈ shop0.barWait, w.team ≠ 0) ∧
      Reissues (.bary 0 2 0) (dev (blocked (.bary 0 2 0) team0) { shop0 with barWait := [⟨0, 0, false, none⟩] })
        (ctx (blocked (.bary 0 2 0) team0) { shop0 with barWait := [⟨0, 0, false, none⟩] }) false ∧
      ([(⟨0, 0, false, none⟩ : BarWait)].find? fun w => w.team = 0) = some ⟨0, 0, false, none⟩ := by
  refine ⟨?_, ?_, ?_, ?_, issues_dev ?_, syncOk_of ?_ ?_, ?_, ?_, issues_dev ?_, ⟨syncOk_of ?_ ?_, ?_⟩, ?_, ?_, ?_, issues_dev ?_, ?_, issues_dev ?_,
    issues_dev ?_, ?_, reissues_dev ?_, ?_⟩ <;>
    first | decide +kernel | (simp only [barFits]; decide +kernel) | (simp only [mayArrive]; decide +kernel) | (simp only [scopeOk]; decide +kernel)

/-- A queue at offset 0 with a ring of one slot at offset 64, with `head` and `tail`. -/
def queueAt (head tail : W64) : QDesc := ⟨head, tail, false, 1, 64, List.replicate 32 0⟩

/-- The boot shop with such a queue. -/
def queueShop (head tail : W64) : Shop := withPad (Mem.empty.write 0 (queueAt head tail).bytes)

theorem queueOk_of {t : Team} {head tail : W64} (h : passes ((ctx t (queueShop head tail)).access (dev t (queueShop head tail))
      ⟨[kLocal], false, pLD ||| pST, false, true⟩ (.c 2) 0 0 64 64 .read) = true)
    (h0 : localOf (t.rdC 2).addr = 0) (hl : 72 ≤ (t.rdC 2).len)
    (hq : queueAt head tail = QDesc.read (queueShop head tail).spad 0) (hc : qClean (queueShop head tail).spad 0 = true) :
    queueOk (ctx t (queueShop head tail)) (dev t (queueShop head tail)) 2 0 0 64 (queueAt head tail) := by
  refine ⟨syncOk_of h ?_, hq, hc, hl, ?_⟩
  · exact h0.symm
  · refine ⟨(by decide : 1 ≤ 1), (by decide : 1 ≤ 4096), (by decide : 64 % 8 = 0), ?_⟩
    show 64 = localOf (t.rdC 2).addr + 64
    rw [h0]

/-- A full, an empty, and a wrapped queue of capacity 1; blocked teams before this one, and none. -/
theorem witness_QueueWords :
    Runs (.qdef 2 62) (team0.wrS 63 (0x1000 * 2 ^ 32)) ∧ 8 * 0x1000 ≤ (team0.rdC 2).len ∧ ((team0.wrS 63 (0x1000 * 2 ^ 32)).rdS 63).toNat < 2 ^ 48 ∧
      Issues (.qgrant 31 2 62) (dev (team0.wrS 63 255) (queueShop 0 0)) (ctx (team0.wrS 63 255) (queueShop 0 0)) ∧
      queueOk (ctx team0 (queueShop 0 0)) (dev team0 (queueShop 0 0)) 2 0 0 64 (queueAt 0 0) ∧
      queueOk (ctx team0 (queueShop (-1) 0)) (dev team0 (queueShop (-1) 0)) 2 0 0 64 (queueAt (-1) 0) ∧
      (queueAt (-1) 0).tail - (queueAt (-1) 0).head = BitVec.ofNat 64 (queueAt (-1) 0).cap ∧
      Issues (.qpush 63 2 0) (dev team0 (queueShop 0 0)) (ctx team0 (queueShop 0 0)) ∧ Issues (.qpop 63 2 0) (dev team0 (queueShop (-1) 0)) (ctx team0 (queueShop (-1) 0)) ∧
      Issues (.qtry 62 2 0) (dev team0 (queueShop 0 0)) (ctx team0 (queueShop 0 0)) ∧ firstInLine (ctx team0 (queueShop 0 0)) (queueAt 0 0) 0 true ∧
      firstInLine (ctx team0 { queueShop 0 0 with qwait := [(0, true, 1)] }) { queueAt 0 0 with granted := true } 0 true ∧
      ¬ firstInLine (ctx team0 { queueShop 0 0 with qwait := [(0, true, 1)] }) (queueAt 0 0) 0 true ∧
      ¬ firstInLine (ctx team0 { queueShop 0 0 with qwait := [(0, false, 1)] }) (queueAt 0 1) 0 false ∧ ¬ pushBlocked (queueAt 0 0) 31 ∧
      pushBlocked { queueAt 0 0 with granted := true } 31 ∧ pushBlocked (queueAt 0 1) 0 := by
  refine ⟨issues_dev ?_, ?_, ?_, issues_dev ?_, queueOk_of ?_ ?_ ?_ ?_ ?_, queueOk_of ?_ ?_ ?_ ?_ ?_, ?_, issues_dev ?_, issues_dev ?_, issues_dev ?_,
    ?_, ?_, ?_, ?_, ?_, ?_, ?_⟩ <;> first | decide +kernel | (simp only [firstInLine, pushBlocked]; decide +kernel) | (simp only [pushBlocked]; decide +kernel)

/-- The boot team with its monitor at a peer. -/
def waitingPeer0 : Team := { team0 with monitor := some (peerCap, 0) }

/-- The boot team with its monitor on address 0, and waiting for it. -/
def monitoring : Team := { team0 with monitor := some (resetRoot, 0) }

theorem witness_MonitorsAndYieldc :
    Runs (.monarm 3 63) team0 ∧ passes ((ctx team0 shop0).access (dev team0 shop0) ⟨[kData, kLocal], true, pLD, true, false⟩ (.c 3) 0 (team0.rdS 63).toNat 8 8 .read) = true ∧
      Runs (.monwait 63 62 0) team0 ∧ team0.monitor = none ∧ Runs (.monwait 63 62 15) monitoring ∧
      accessible (dev monitoring shop0) ((ctx monitoring shop0).monitorAccess (dev monitoring shop0) (resetRoot, 0)) = true ∧
      inMemory (dev monitoring shop0) (got ((ctx monitoring shop0).monitorAccess (dev monitoring shop0) (resetRoot, 0))) ∧
      BitVec.ofNat 64 (bytesOf (dev monitoring shop0) (got ((ctx monitoring shop0).monitorAccess (dev monitoring shop0) (resetRoot, 0)))) = monitoring.rdS 62 ∧
      (dev (blocked (.monwait 63 62 0) monitoring) shop0).team? 0 = some (blocked (.monwait 63 62 0) monitoring) ∧ shop0.phase = .running ∧
      (got ((ctx team0 shop0).monitorAccess (dev team0 shop0) (peerCap, 0))).isRemote = true ∧
      Runs (.yieldc 0 2 62 60) team0 ∧ (team0.rdS 60).toNat % 4 = 0 ∧
      accessible (dev team0 shop0) ((ctx team0 shop0).access (dev team0 shop0) ⟨[kLocal], false, pLD, true, false⟩ (.c 2) 0 0 16 16 .read) = true ∧
      (shop0.bar 0).err = false ∧ ((withPad (Mem.empty.write 0 (natBytes 16 crewBar.toNat))).bar 0).err = true ∧
      Runs (.yieldc 1 3 62 60) team0 ∧ accessible (dev team0 shop0) ((ctx team0 shop0).access (dev team0 shop0) ⟨[kData, kLocal], true, pLD, true, false⟩ (.c 3) 0 0 8 8 .read) = true ∧
      readyNow (dev team0 shop0) ((ctx team0 shop0).stampAccess resetRoot 0) ∧ inMemory (dev team0 shop0) ((ctx team0 shop0).stampAccess resetRoot 0) ∧
      ({ shop0 with barWait := [⟨0, 0, false, some true⟩] } : Shop).barEnded 0 = some true ∧
      (∀ i accs, ¬ heldBack shop0.rev2 monitoring.outStores i accs) ∧ (∀ i accs, ¬ heldBack shop0.rev2 team0.outStores i accs) := by
  refine ⟨issues_dev ?_, ?_, issues_dev ?_, ?_, issues_dev ?_, ?_, inMemory_home (p := 0) ?_ ?_, ?_, ?_, ?_, ?_, issues_dev ?_, ?_, ?_, ?_, ?_, issues_dev ?_, ?_, ?_,
    inMemory_home (p := 0) ?_ ?_, ?_, not_held _, not_held _⟩ <;>
    first | decide +kernel | (simp only [readyNow]; decide +kernel)

/-- An SO monitor, and an SO stamp, at a peer with an SO store there unacknowledged. -/
theorem witness_MonitorsAndYieldc_held :
    (let t := { waitingPeer0 with outStores := [.store true false true] }
     passes ((ctx t shop0).monitorAccess (dev t shop0) (peerCap, 0)) = true ∧
       heldBack shop0.rev2 t.outStores (.monwait 63 62 0) [got ((ctx t shop0).monitorAccess (dev t shop0) (peerCap, 0))]) ∧
      heldBack shop0.rev2 [.store true false true] (.yieldc 1 4 62 60) [peerLoad] := by
  refine ⟨⟨?_, .inl ⟨⟨_, List.mem_cons_self, ?_⟩, _, List.mem_cons_self, ?_⟩⟩, .inl ⟨⟨_, List.mem_cons_self, ?_⟩, _, List.mem_cons_self, ?_⟩⟩ <;> decide +kernel


/-- The boot team, waiting at a QPUSH whose capability holds no tag. -/
def strayQueue : Team := blocked (.qpush 63 2 0) (team0.wrC 2 Cap.null)

theorem witness_QueueWords_blocked :
    Reissues (.qpush 63 2 0) (dev strayQueue shop0) (ctx strayQueue shop0) false ∧
      ∀ o ring q, ¬ queueOk (ctx strayQueue shop0) (dev strayQueue shop0) 2 ((ctx strayQueue shop0).t.rdS 0).toNat o ring q := by
  refine ⟨reissues_dev (by decide +kernel), ?_⟩
  rintro o ring q ⟨⟨⟨acc, h⟩, -⟩, -⟩
  exact absurd (show passes (Except.ok acc : Except Trap Access) = true from rfl) (by rw [← h]; decide +kernel)

/-- A team that waits at a MONWAIT for the word at address 0 to differ from 0 (s62) or from 1. -/
def waiting (v : W64) : Team := blocked (.monwait 63 62 0) (monitoring.wrS 62 v)

/-- The same at the first word of a peer. -/
def waitingPeer : Team := blocked (.monwait 63 62 0) { team0 with monitor := some (peerCap, 0) }

theorem witness_MonitorsAndYieldc_wakes :
    Reissues (.monwait 63 62 0) { dev (waiting 0) shop0 with cur := some 0 } (ctx (waiting 0) shop0) false ∧ shop0.phase = .running ∧
      Reissues (.monwait 63 62 0) { dev (waiting 1) shop0 with cur := some 0 } (ctx (waiting 1) shop0) false ∧
      accessible (dev (waiting 1) shop0) ((ctx (waiting 1) shop0).monitorAccess (dev (waiting 1) shop0) (resetRoot, 0)) = true ∧
      (got ((ctx (waiting 1) shop0).monitorAccess (dev (waiting 1) shop0) (resetRoot, 0))).size = 8 ∧
      BitVec.ofNat 64 (bytesOf (dev (waiting 1) shop0) (got ((ctx (waiting 1) shop0).monitorAccess (dev (waiting 1) shop0) (resetRoot, 0)))) ≠ (waiting 1).rdS 62 ∧
      Reissues (.monwait 63 62 0) { dev waitingPeer shop0 with cur := some 0 } (ctx waitingPeer shop0) false ∧
      passes ((ctx waitingPeer shop0).monitorAccess (dev waitingPeer shop0) (peerCap, 0)) = true ∧ (dev waitingPeer shop0).portsOpen = true ∧
      (∀ i accs, ¬ heldBack shop0.rev2 (waiting 1).outStores i accs) ∧ ∀ i accs, ¬ heldBack shop0.rev2 waitingPeer.outStores i accs := by
  refine ⟨reissues_dev ?_, ?_, reissues_dev ?_, ?_, ?_, ?_, reissues_dev ?_, ?_, ?_, not_held _, not_held _⟩ <;> decide +kernel
/-! ### Engine words -/

/-- A device in which team `t` of shop `x` issues, over memory `m`. -/
def devM (t : Team) (x : Shop) (m : Mem) : State := { dev t x with mem := m }

/-- The boot team, copying 16 bytes. -/
def copying : Team := team0.wrS 2 16

theorem witness_EngineCheckIsExact :
    resetRoot.kind ≠ kSealed ∧ ((dev team0 shop0).engineCheck 0 ⟨[kData, kLocal], true, pLD, true, false⟩ resetRoot 1 3 [(hbmTop - 16, 16)]).isOk = true ∧
      ((dev team0 shop0).engineCheck 0 ⟨[kData, kLocal], true, pLD, true, false⟩ resetRoot 1 3 [(2 ^ 43 - 16, 17)]).isOk = false ∧
      Runs (.cpy 3 3 0) copying ∧ (∃ F, rawForm (ctx copying shop0) (.cpy 3 3 0) = some F ∧ controlOk (groupReg (ctx copying shop0) 0 3) F.used ∧ F.ok ∧
        moved F.moves = 16 ∧ ((dev copying shop0).engineCheck 0 ⟨[kData, kLocal], true, pST, false, true⟩ resetRoot 1 3 (F.moves.map fun m => (m.dst, m.len))).isOk = true ∧
        ((ctx copying shop0).completion (dev copying shop0) ((ctx copying shop0).group8 0) 16).isOk = true) ∧
      Runs (.cpyt 3 3 7) (team0.wrS 59 (2 ^ 48)) ∧ (∃ F, rawForm (ctx (team0.wrS 59 (2 ^ 48)) shop0) (.cpyt 3 3 7) = some F ∧
        controlOk (groupReg (ctx (team0.wrS 59 (2 ^ 48)) shop0) 7 3) F.used ∧ F.ok ∧ moved F.moves = 0) ∧
      Runs (.cpyg 3 3 7) (team0.wrS 59 (255 * 2 ^ 24)) ∧ (∃ F, rawForm (ctx (team0.wrS 59 (255 * 2 ^ 24)) shop0) (.cpyg 3 3 7) = some F ∧
        controlOk (groupReg (ctx (team0.wrS 59 (255 * 2 ^ 24)) shop0) 7 3) F.used ∧ F.ok ∧ F.moves.length = 32) ∧
      Runs (.cpys 3 3 0) (team0.wrS 3 (3 * 2 ^ 12)) ∧ ¬ controlOk (groupReg (ctx (team0.wrS 3 (3 * 2 ^ 12)) shop0) 0 3) (fun _ => False) ∧
      Runs (.cmdmk 31 3 15) team0 ∧ Runs (.cmdmkL 31 3 0) team0 ∧ derivable (ctx team0 shop0) (dev team0 shop0) resetRoot ∧
      resetRoot.perm &&& (pLD ||| pLDC ||| pGO) = pLD ||| pLDC ||| pGO ∧ resetRoot.addr % 64 = 0 ∧ 256 ≤ resetRoot.len := by
  refine ⟨?_, ?_, ?_, issues_dev ?_, ⟨_, rfl, ?_, ?_, ?_, ?_, ?_⟩, issues_dev ?_, ⟨_, rfl, ?_, ?_, ?_⟩, issues_dev ?_, ⟨_, rfl, ?_, ?_, ?_⟩, issues_dev ?_, ?_,
    issues_dev ?_, issues_dev ?_, ?_, ?_, ?_, ?_⟩ <;>
    first | decide +kernel | trivial | (show bitsOf (groupReg (ctx (team0.wrS 59 (2 ^ 48)) shop0) 7 3) 48 16 ≠ 0; decide +kernel) | (simp only [controlOk]; decide +kernel)

theorem controlOk_mono {ctl : Nat} {u v : Nat → Prop} (h : controlOk ctl u) (hv : ∀ j, u j → v j) : controlOk ctl v :=
  ⟨h.1, h.2.1, fun j h1 h2 h3 h4 => h.2.2 j h1 h2 h3 fun h5 => h4 (hv j h5)⟩

/-- A table of one block at address 0: memory of 8-bit elements. -/
def tableMem : Mem := Mem.empty.writeCap 0 { resetRoot with fmt := 0x0D }

/-- The boot team, with a gather of one row of 65,535 elements into the scratchpad in group 0. -/
def gathering : Team := (team0.wrS 2 65535).wrS 3 (2 ^ 32)

/-- A gather, and a copy to no core (N below 1 is read as a mask: bit 0 names the base core). -/
theorem witness_BlockTableAndMultiCopies :
    Issues (.cpyb 2 3 0) (devM gathering shop0 tableMem) (ctx gathering shop0) ∧
      (let x := ctx gathering shop0
       let s := devM gathering shop0 tableMem
       let r := groupReg x 0
       let b := s.moved ((s.readRow 0 resetRoot 0 16 []).1.capAt 0)
       controlOk (r 3) (fun j => (32 ≤ j ∧ j < 48) ∨ j = 8 ∨ (¬ bitsOf (r 3) 8 1 = 1 ∧ (j = 9 ∨ j = 10))) ∧ ¬ bitsOf (r 3) 8 1 = 1 ∧ bitsOf (r 3) 32 16 = 1 ∧ r 2 = 65535 ∧
       s.rowReady 0 resetRoot (r 1) 16 false = true ∧ (s.engineCheck 0 ⟨[kData, kLocal], false, pLD ||| pLDC, true, false⟩ resetRoot 1 3 [(r 1, 16)]).isOk = true ∧
       b.tag = true ∧ b.fmt = 0x0D ∧ (∃ f, fmtElem b.fmt = some f ∧ f.width = 8) ∧
       (s.engineCheck 0 ⟨[kData, kLocal], true, pLD, true, false⟩ b 3 0 (elemRows b 8 (r 7) (r 2))).isOk = true ∧
       (s.engineCheck 0 ⟨[kLocal], false, pST, false, true⟩ (gathering.rdC 2) 1 2 [(r 0, 2 * r 2)]).isOk = true ∧
       (x.completion s (x.group8 0) (2 * r 2)).isOk = true) ∧
      Runs (.cpym 2 3 0) (copying.wrS 3 (2 ^ 12 + 2 * 2 ^ 14)) ∧
      (let t := copying.wrS 3 (2 ^ 12 + 2 * 2 ^ 14)
       let x := ctx t shop0
       let s := dev t shop0
       controlOk (groupReg x 0 3) (fun _ => False) ∧ bitsOf (groupReg x 0 3) 12 2 = 1 ∧ ({ s with disten := 0 } : State).disten.getLsbD (dieOf 192) = false ∧
       (x.place s ⟨[kLocal], false, pST, false, true⟩ (t.rdC 2) 0 1 2 (groupReg x 0 4) 16 16).isOk = true ∧ (x.completion s (x.group8 0) 16).isOk = true) := by
  refine ⟨⟨rfl, ?_, ?_, ?_, ?_, ?_, ?_, ?_⟩, ⟨controlOk_mono (u := fun j => 32 ≤ j ∧ j < 48) ?_ fun j h => .inl h, ?_, ?_, ?_, ?_, ?_, ?_, ?_, ⟨_, rfl, ?_⟩, ?_, ?_, ?_⟩, issues_dev ?_, ⟨?_, ?_, ?_, ?_, ?_⟩⟩ <;>
    first | decide +kernel | rfl | (simp only [controlOk]; decide +kernel)

/-- The boot team with a command capability of the whole memory in c4. -/
def commanding : Team := team0.wrC 4 { resetRoot with kind := kCommand }

/-- A copy block: 16 bytes from the start of memory, through two capabilities for all of it, to offset 256. -/
def copyBlockMem : Mem := (((Mem.empty.write 0 [1]).writeCap 16 resetRoot).writeCap 32 resetRoot).write 48 (natBytes 8 0 ++ natBytes 8 256 ++ natBytes 8 16)

/-- A gateway block of 16 bytes. -/
def gatewayMem : Mem := ((Mem.empty.write 0 [4]).writeCap 16 resetRoot).write 32 (natBytes 8 0 ++ natBytes 8 16)

/-- A group block that stores 128 bytes through a group capability for the record at address 1024. -/
def groupMem : Mem := (((Mem.empty.write 0 [2, 1]).writeCap 16 { resetRoot with kind := kGroup, base := 64 }).writeCap 32 resetRoot).write 64 (natBytes 8 128)

theorem goOk_of {t : Team} {m : Mem} {k : Nat} (h1 : bitsOf (groupReg (ctx t shop0) 0 3) 12 2 = 0) (h2 : bitsOf (groupReg (ctx t shop0) 0 3) 14 5 = 0)
    (h3 : ((devM t shop0 m).capFails 0 goUse (t.rdC 4) false).isNone = true) (h4 : (t.rdC 4).kind = kCommand) (h4m : inMmio (t.rdC 4).addr = false)
    (h5 : (devM t shop0 m).rowReady 0 (t.rdC 4) 0 16 false = true) (h6 : (devM t shop0 m).rowReady 0 (t.rdC 4) 0 (if k = 4 then 64 else 128) false = true)
    (h7 : ((devM t shop0 m).readRow 0 (t.rdC 4) 0 16 []).1.poison.any id = false)
    (h8 : ((devM t shop0 m).readRow 0 (t.rdC 4) 0 (if k = 4 then 64 else 128) []).1.poison.any id = false) (h9 : (if k = 4 then 64 else 128) ≤ (t.rdC 4).len)
    (h10 : headerOk ((devM t shop0 m).readRow 0 (t.rdC 4) 0 16 []).1 = true ∧ ((devM t shop0 m).readRow 0 (t.rdC 4) 0 16 []).1.num 0 1 = k)
    (h11 : ((devM t shop0 m).readRow 0 (t.rdC 4) 0 (if k = 4 then 64 else 128) []).1.num 0 1 = k) :
    goOk (devM t shop0 m) (ctx t shop0) 4 0 k ((devM t shop0 m).readRow 0 (t.rdC 4) 0 (if k = 4 then 64 else 128) []).1 := by
  have e : shopOf (ctx t shop0).n = 0 := (by decide : shopOf 0 = 0)
  have e2 : (ctx t shop0).t.rdC (4 : BitVec 5).toNat = t.rdC 4 := rfl
  simp only [goOk, blockReadable, e, e2]
  refine ⟨by rw [h1]; decide, fun _ => h2, Option.isNone_iff_eq_none.1 h3, h4, h4m, ⟨h5, h6, h7, h8⟩, h9, trivial, h10.1, h10.2, h11⟩

theorem witness_GoEntersItsBlock :
    Issues (.go 4 0) (devM commanding shop0 copyBlockMem) (ctx commanding shop0) ∧
      goOk (devM commanding shop0 copyBlockMem) (ctx commanding shop0) 4 0 1 ((devM commanding shop0 copyBlockMem).readRow 0 (commanding.rdC 4) 0 128 []).1 ∧
      ((devM commanding shop0 copyBlockMem).copyBlock 0 (commanding.rdC 4) ((devM commanding shop0 copyBlockMem).readRow 0 (commanding.rdC 4) 0 128 []).1).isOk = true ∧
      goOk (devM commanding shop0 groupMem) (ctx commanding shop0) 4 0 2 ((devM commanding shop0 groupMem).readRow 0 (commanding.rdC 4) 0 128 []).1 ∧
      ((ctx commanding shop0).groupBlock (devM commanding shop0 groupMem) (commanding.rdC 4) ((devM commanding shop0 groupMem).readRow 0 (commanding.rdC 4) 0 128 []).1).isOk = true ∧
      goOk (devM commanding shop0 gatewayMem) (ctx commanding shop0) 4 0 4 ((devM commanding shop0 gatewayMem).readRow 0 (commanding.rdC 4) 0 64 []).1 ∧
      ((devM commanding shop0 gatewayMem).gatewayBlock 0 (commanding.rdC 4) ((devM commanding shop0 gatewayMem).readRow 0 (commanding.rdC 4) 0 64 []).1).isOk = true ∧
      ((ctx commanding shop0).completion (dev commanding shop0) ((ctx commanding shop0).group8 0) 16).isOk = true ∧
      (let p : Cap := { resetRoot with kind := kSealed, base := BitVec.ofNat 53 (5 * 2 ^ 39), aux := kCommand ++ (0 : BitVec 14) ++ (0 : BitVec 7) }
       ((dev commanding shop0).capFails 0 goUse p false).isNone = true ∧ p.kind = kSealed ∧ (dev commanding shop0).devSet = true) := by
  refine ⟨⟨rfl, ?_, ?_, ?_, ?_, ?_, ?_, ?_⟩, goOk_of ?_ ?_ ?_ ?_ ?_ ?_ ?_ ?_ ?_ ?_ ?_ ?_, ?_, goOk_of ?_ ?_ ?_ ?_ ?_ ?_ ?_ ?_ ?_ ?_ ?_ ?_, ?_, goOk_of ?_ ?_ ?_ ?_ ?_ ?_ ?_ ?_ ?_ ?_ ?_ ?_, ?_, ?_, ?_⟩ <;>
    decide +kernel


/-- An empty execution mask, and a CPYT of no planes. -/
theorem witness_EngineCheckIsExact_empty :
    (let t : Team := { team0 with kreg := [] }
     Runs (.cpyg 3 3 0) t ∧ (ctx t shop0).exec = 0 ∧ ∃ F, rawForm (ctx t shop0) (.cpyg 3 3 0) = some F ∧ F.masked = true) ∧
      (ctx team0 shop0).exec ≠ 0 ∧ Runs (.cpyt 3 3 0) team0 ∧ ∃ F, rawForm (ctx team0 shop0) (.cpyt 3 3 0) = some F ∧ ¬ F.ok := by
  refine ⟨⟨issues_dev ?_, ?_, _, rfl, ?_⟩, ?_, issues_dev ?_, _, rfl, ?_⟩ <;>
    first | decide +kernel | rfl | (show ¬ bitsOf (groupReg (ctx team0 shop0) 0 3) 48 16 ≠ 0; decide +kernel)

/-- A GO with COMPK 3, with a CREG and no COMPK, without room for a header, and with a header that holds poison or that no rule assigns. -/
theorem witness_GoEntersItsBlock_faults :
    bitsOf (groupReg (ctx (commanding.wrS 3 (3 * 2 ^ 12)) shop0) 0 3) 12 2 = 3 ∧
      (let x := ctx (commanding.wrS 3 (5 * 2 ^ 14)) shop0; bitsOf (groupReg x 0 3) 12 2 = 0 ∧ bitsOf (groupReg x 0 3) 14 5 ≠ 0) ∧
      (let t := team0.wrC 4 { resetRoot with kind := kCommand, lexp := 0, lman := 0 }
       Runs (.go 4 0) t ∧ ((dev t shop0).capFails 0 goUse (t.rdC 4) false).isNone = true ∧ (t.rdC 4).kind = kCommand ∧ (t.rdC 4).len < 16) ∧
      (let s := devM commanding shop0 { copyBlockMem with poison := [(0, true)] }
       let h := (s.readRow 0 (commanding.rdC 4) 0 16 []).1
       16 ≤ (commanding.rdC 4).len ∧ s.rowReady 0 (commanding.rdC 4) 0 16 false = true ∧ h.poison.any id = true) ∧
      (let s := devM commanding shop0 Mem.empty
       let h := (s.readRow 0 (commanding.rdC 4) 0 16 []).1
       Issues (.go 4 0) s (ctx commanding shop0) ∧ h.poison.any id = false ∧ headerOk h = false) := by
  refine ⟨?_, ?_, ⟨issues_dev ?_, ?_, ?_, ?_⟩, ⟨?_, ?_, ?_⟩, ⟨rfl, ?_, ?_, ?_, ?_, ?_, ?_, ?_⟩, ?_, ?_⟩ <;> decide +kernel

/-- The group capability of the group block can be checked without waiting. -/
theorem witness_GoEntersItsBlock_group :
    (let s := devM commanding shop0 groupMem
     s.groupReady 0 (s.blockCap (commanding.rdC 4) ((s.readRow 0 (commanding.rdC 4) 0 128 []).1) 16) = true) := by decide +kernel
/-- A group record at address 1024: two members, each memory of this device sealed for itself. -/
def recordMem : Mem := ((Mem.empty.write 1024 [2, 0, 1]).writeCap 2240 (sealedTeam.rdC 5)).writeCap 2256 (sealedTeam.rdC 5)

/-- The boot team with a group capability for the record in c4, its memory in c6, and 4,096 bytes to reduce. -/
def grouping (ty len : Nat) : Team :=
  (((typed ty 0).wrC 4 { resetRoot with kind := kGroup, base := 64 }).wrC 6 { resetRoot with base := 64 }).wrS 2 (BitVec.ofNat 64 len)

theorem witness_GroupSpawnAndProgressWords :
    Issues (.mlred 3 4 0) (devM (grouping 8 4096) shop0 recordMem) (ctx (grouping 8 4096) shop0) ∧ (grouping 8 4096).ty? = some .f32 ∧
      (let s := devM (grouping 8 4096) shop0 recordMem
       let x := ctx (grouping 8 4096) shop0
       controlOk (groupReg x 0 3) (fun _ => False) ∧ s.groupReady 0 (x.t.rdC 4) = true ∧
       (x.place s ⟨[kGroup], false, pLD ||| pGO, false, false⟩ (x.t.rdC 4) 0 1 4 0 8 8).isOk = true ∧
       (s.engineCheck 0 ⟨[kData, kLocal], false, pST, false, true⟩ (x.t.rdC 3) 1 3 [(0, 8192)]).isOk = true ∧ (x.completion s (x.group8 0) 8192).isOk = true) ∧
      Issues (.mstm 4 3 0) (devM (grouping 0 65536) shop0 recordMem) (ctx (grouping 0 65536) shop0) ∧
      ((devM (grouping 0 65536) shop0 recordMem).engineCheck 0 ⟨[kData, kLocal], false, pLD, true, false⟩ resetRoot 1 3 [(0, 65536)]).isOk = true ∧
      Issues (.grpmk 31 6 0) (devM (grouping 0 0) shop0 recordMem) (ctx (grouping 0 0) shop0) ∧
      (let s := devM (grouping 0 0) shop0 recordMem
       let x := ctx (grouping 0 0) shop0
       let c := x.t.rdC 6
       (x.place s ⟨[kData], false, pLD ||| pST ||| pLDC ||| pDERIVE, false, true⟩ c 0 1 6 0 16 16).isOk = true ∧ c.addr % 64 = 0 ∧ s.groupCount 0 c = 2 ∧
       1216 + 16 * 2 ≤ c.len ∧ s.groupReady 0 c = true ∧
       ∀ i, i < 2 → let m := s.groupMember 0 c i; (s.groupRow 0 c (1216 + 16 * i) 16).poison.any id = false ∧ m.tag = true ∧ m.kind = kSealed ∧ m.inner = kData ∧ m.target = 0 ∧ m.band = 0) ∧
      Issues (.grpq 63 4 0x90) (devM (grouping 0 0) shop0 recordMem) (ctx (grouping 0 0) shop0) ∧
      ((ctx (grouping 0 0) shop0).place (devM (grouping 0 0) shop0 recordMem) ⟨[kGroup], false, pLD, true, false⟩ ((grouping 0 0).rdC 4) 0 1 4 (64 + 8 * 143) 8 8).isOk = true ∧
      Issues (.grpq 63 4 0xFF) (devM (grouping 0 0) shop0 recordMem) (ctx (grouping 0 0) shop0) ∧ (devM (grouping 0 0) shop0 recordMem).fabricBusy 0 = false ∧
      Runs (.nspawn 3 3 3) team0 ∧ ((ctx team0 shop0).place (dev team0 shop0) ⟨[kData], false, pLD, true, false⟩ resetRoot 0 1 3 0 64 1).isOk = true ∧
      Runs (.rsq 63 3 63) team0 ∧ (match (ctx team0 shop0).recordReads (dev team0 shop0) resetRoot 1 3 0 with
        | .ok l => l.all fun a => !a.unsent && (dev team0 shop0).accessReady a && decide ((dev team0 shop0).returnFault a = none)
        | .error _ => false) = true := by
  refine ⟨⟨rfl, ?_, ?_, ?_, ?_, ?_, ?_, ?_⟩, ?_, ⟨?_, ?_, ?_, ?_, ?_⟩, ⟨rfl, ?_, ?_, ?_, ?_, ?_, ?_, ?_⟩, ?_, ⟨rfl, ?_, ?_, ?_, ?_, ?_, ?_, ?_⟩, ⟨?_, ?_, ?_, ?_, ?_, ?_⟩,
    ⟨rfl, ?_, ?_, ?_, ?_, ?_, ?_, ?_⟩, ?_, ⟨rfl, ?_, ?_, ?_, ?_, ?_, ?_, ?_⟩, ?_, issues_dev ?_, ?_, issues_dev ?_, ?_⟩ <;>
    first | decide +kernel | rfl | (simp only [controlOk]; decide +kernel)

/-- A tensor layout record of 16 bytes on one device; its table at address 2048 names the memory from 4096 on; a re-shard block at 0. -/
def layoutBytes : List Byte :=
  [1, 1, 0, 1] ++ natBytes 4 1 ++ natBytes 8 16 ++ List.replicate 40 0 ++ [0, 255, 255, 255, 255, 255] ++ [0, 0] ++ natBytes 8 16 ++ List.replicate 40 0 ++ natBytes 2 1

/-- The memory of that re-shard. -/
def reshardMem : Mem :=
  let lay : Cap := { resetRoot with kind := kLayout, base := 64 }
  let m1 := ((Mem.empty.write 1024 layoutBytes).writeCap 1152 { resetRoot with base := 128, lexp := 0, lman := 2 }).writeCap 2048 { resetRoot with base := 256 }
  ((((m1.write 0 [3]).writeCap 16 lay).writeCap 32 lay).writeCap 48 resetRoot).writeCap 64 resetRoot |>.write 80 (natBytes 8 8192 ++ natBytes 8 8448 ++ natBytes 8 1)

theorem witness_GoEntersAReshard :
    goOk (devM commanding shop0 reshardMem) (ctx commanding shop0) 4 0 3 ((devM commanding shop0 reshardMem).readRow 0 (commanding.rdC 4) 0 128 []).1 ∧
      (let s := devM commanding shop0 reshardMem
       let x := ctx commanding shop0
       let r := (s.readRow 0 (commanding.rdC 4) 0 128 []).1
       (x.planCaps s (commanding.rdC 4) r).isOk = true ∧ s.planReady 0 (commanding.rdC 4) r = true ∧
       (match x.planOf s (commanding.rdC 4) r with
        | .ok p => decide (p.count = 1) && (x.recordReads s p.prog 3 0 p.progOff).isOk
        | .error _ => false) = true) := by
  refine ⟨goOk_of ?_ ?_ ?_ ?_ ?_ ?_ ?_ ?_ ?_ ?_ ?_ ?_, ?_, ?_, ?_⟩ <;> decide +kernel

/-! ### Matrix words -/

/-- The boot shop on an M-core with 63 units of accumulator. -/
def shopM : Shop := { shop0 with core := 0, ppw := BitVec.ofNat 32 (64 * 2 ^ 16 + 63 * 2 ^ 10), nkind := 0 }

/-- The boot team with a descriptor in s0 and s1: 8-bit elements (0x0D), K, PITCH, EXT. -/
def described (k pitch ext : Nat) : Team := (team0.wrS 0 (BitVec.ofNat 64 (0x0D * 2 ^ 58 + k * 2 ^ 48 + pitch * 2 ^ 32))).wrS 1 (BitVec.ofNat 64 (ext * 2 ^ 11))

/-- The checks of an operand through c3. -/
def operandCheck (t : Team) (d : Desc) (rows : Bool) : Bool :=
  ((dev t shopM).engineCheck 0 ⟨[kData, kLocal], false, pLD, true, false⟩ resetRoot 1 3 [(d.off, d.size)]).isOk && decide (d.geo = 0) && isNarrow d.fmt &&
    (!rows || decide (2 ≤ planes d.fmt d.margin ∧ planes d.fmt d.margin ≤ 16)) && decide ((if d.kfast then d.k else d.ext) ≤ d.pitch) &&
    decide (d.off % max 1 (d.width / 8) = 0)

/-- B operands, A operands and published tiles at the ends of K and EXT. -/
theorem witness_MatrixOperandWords :
    Issues (.mloadb 1 3 0) (dev (described 256 256 256) shopM) (ctx (described 256 256 256) shopM) ∧
      (let x := ctx (described 256 256 256) shopM; descClean x 0 ∧ bFields (descAt x 0) ∧ operandCheck x.t (descAt x 0) false = true) ∧
      ¬ bFields (descAt (ctx (described 257 256 256) shopM) 0) ∧
      Issues (.mpub 63 3 0) (dev ((described 512 16 16).wrS 2 65535) shopM) (ctx ((described 512 16 16).wrS 2 65535) shopM) ∧
      (let x := ctx ((described 512 16 16).wrS 2 65535) shopM; descClean x 0 ∧ pubFields (descAt x 0) ∧ operandCheck x.t (descAt x 0) false = true) ∧
      Issues (.mma 1 14 3 0) (dev (described 512 16 16) shopM) (ctx (described 512 16 16) shopM) ∧
      (let x := ctx (described 512 16 16) shopM; tileOk x 14 ∧ ¬ tileOk x 15 ∧ (x.sh.tile 14).state ≠ .error ∧ descClean x 0 ∧ aFields (descAt x 0) false ∧
        aFields (descAt x 0) true ∧ operandCheck x.t (descAt x 0) true = true) ∧
      Issues (.mmas 0 0 3 0) (dev team0 shopM) (ctx team0 shopM) ∧ ¬ aFields (descAt (ctx team0 shopM) 0) true ∧
      (let t : Team := ((team0.wrC 5 { resetRoot with fmt := 0x09 }).wrS 0 0).wrS 1 (BitVec.ofNat 64 (256 + 16 * 2 ^ 16 + 256 * 2 ^ 21))
       let w := t.rdS 1
       Issues (.mepi 1 14 5 0) (dev t shopM) (ctx t shopM) ∧ w.toNat < 2 ^ 30 ∧ (w.extractLsb' 16 5).toNat = 16 ∧ (w.extractLsb' 21 9).toNat = 256 ∧ (w.extractLsb' 0 16).toNat = 256 ∧
       (∃ f, fmtElem (t.rdC 5).fmt = some f ∧ ((dev t shopM).engineCheck 0 ⟨[kData, kLocal], true, pST, false, true⟩ (t.rdC 5) 1 5 [(0, storeSize 0 f.width (opIndex 0 256 15 255))]).isOk = true)) := by
  refine ⟨issues_dev ?_, ⟨?_, ?_, ?_⟩, ?_, issues_dev ?_, ⟨?_, ?_, ?_⟩, issues_dev ?_, ⟨?_, ?_, ?_, ?_, ?_, ?_, ?_⟩, issues_dev ?_, ?_, issues_dev ?_, ?_, ?_, ?_, ?_, ⟨_, rfl, ?_⟩⟩ <;>
    first | decide +kernel | (simp only [descClean]; decide +kernel) | (simp only [bFields, sized]; decide +kernel) | (simp only [pubFields, sized]; decide +kernel) |
      (simp only [aFields, sized]; decide +kernel) | (simp only [tileOk]; decide +kernel)

/-- The last closed batch, one beyond it, and none. -/
theorem witness_MatrixQueueWords :
    Issues (.msub 7 63 8) (dev team0 shopM) (ctx team0 shopM) ∧ Issues (.munsub 7 0) (dev team0 shopM) (ctx team0 shopM) ∧ Issues (.mrel 7 15) (dev team0 shopM) (ctx team0 shopM) ∧
      Issues (.mclr 14 0) (dev team0 shopM) (ctx team0 shopM) ∧ tileOk (ctx team0 shopM) 14 ∧ ¬ tileOk (ctx team0 shopM) 15 ∧
      Issues (.mfence 63 0) (dev team0 shopM) (ctx team0 shopM) ∧ Issues (.mwait 63 62 0) (dev team0 shopM) (ctx team0 shopM) ∧ team0.mclosed.toNat < 1 ∧
      (let t : Team := { team0.wrS 62 5 with mclosed := 5, merr := 5 }
       Issues (.mwait 63 62 0) (dev t shopM) (ctx t shopM) ∧ (t.rdS 62).toNat = t.mclosed.toNat ∧ (t.merr ≠ 0 ∧ t.merr.toNat ≤ 5)) ∧
      (∀ n, ¬ batchLeft (dev team0 shopM) (ctx team0 shopM) n) ∧
      batchLeft { dev team0 shopM with cmds := [⟨1, some 0, 0, 4, 0, .mrel 0, .none, 1, false, 0, []⟩] } (ctx team0 shopM) 1 ∧
      Issues (.mstat 63 14) (dev team0 shopM) (ctx team0 shopM) ∧ Issues (.mstat 63 0x80) (dev team0 shopM) (ctx team0 shopM) ∧ (0x80 : BitVec 8).getLsbD 7 = true := by
  refine ⟨issues_dev ?_, issues_dev ?_, issues_dev ?_, issues_dev ?_, ?_, ?_, issues_dev ?_, issues_dev ?_, ?_, ⟨issues_dev ?_, ?_, ?_⟩, ?_, ?_, issues_dev ?_, issues_dev ?_, ?_⟩ <;>
    first | decide +kernel | (simp only [tileOk]; decide +kernel) | (rintro n ⟨c, hc, -⟩; exact nomatch hc) | exact ⟨_, List.mem_singleton_self _, by decide⟩


/-- A command up to batch 1 is left, and batch 1 is complete by a context image (R194), or is not; the wait issues again. -/
theorem witness_MatrixQueueWords_restored :
    (let t : Team := { team0.wrS 62 1 with mclosed := 1 }
     let left : List Cmd := [⟨1, some 0, 0, 4, 0, .mrel 0, .none, 1, false, 0, []⟩]
     t.mdone.toNat < 1 ∧ batchLeft { dev t shopM with cmds := left } (ctx t shopM) 1 ∧ 1 ≤ ({ t with mdone := 1 } : Team).mdone.toNat ∧ ({ t with mdone := 1 } : Team).mclosed = 1 ∧
       Reissues (.mwait 63 62 0) (dev (blocked (.mwait 63 62 0) t) shopM) (ctx (blocked (.mwait 63 62 0) t) shopM) false) := by
  refine ⟨?_, ⟨_, List.mem_singleton_self _, by decide⟩, ?_, ?_, reissues_dev ?_⟩ <;> decide +kernel
/-! ### Launches, dispatch, pre-emption -/

/-- The state that an outcome goes on in; the given one where it stops. -/
def after (o : Host.Outcome State Fault Refusal) (s : State) : State :=
  match o with
  | .next s' => s'
  | _ => s

/-- The outcome is a next state. -/
def goesOn : Host.Outcome State Fault Refusal → Bool
  | .next _ => true
  | _ => false

/-- A record of 64 bytes from fields (place of the low bit, value). -/
def record (fs : List (Nat × Nat)) : List Byte := natBytes 64 (fs.map fun f => f.2 * 2 ^ f.1).sum

/-- The launch record in the ring: SEQ 9, the stamp at 0x3000, the argument of 16 bytes at 0x3100, the graph at 0x4000, root 0. -/
def launchRecord : List Byte := record [(448, 9), (384, 0x3000), (320, 0x3100), (288, 16), (224, 0x4000), (208, 1)]

/-- Function 0 of band 1 with one queue of size 1, and root 0 for the whole memory. -/
def func1 : Func := { Func.zero with
  band := 1, part := BitVec.ofNat 64 (255 * 2 ^ 56 + 255 * 2 ^ 48 + 255 * 2 ^ 40 + 63 * 2 ^ 34 + 15 * 2 ^ 26 + 63 * 2 ^ 20)
  limit := BitVec.ofNat 32 (7 * 2 ^ 24 + 8 * 2 ^ 16 + 8), rootTab := 0x1000, ctxWin := 0x100000, ctxLen := 0x1000000
  queues := [(0, { LQueue.zero with ring := 0x2000, size := 1, tail := 1, err := 0x2100, enable := true, posted := [bytesNat launchRecord] })] }

/-- A launch of one node with one instance on a V-core (R117, R120 to R122). -/
def launchMem (inst : Nat) : Mem :=
  let m1 := (Mem.empty.writeCap 0x1000 { resetRoot with band := 1 }).write 0x2000 launchRecord
  let m2 := m1.write 0x4000 (record [(480, 0x4E475248), (472, 1), (448, 1), (320, 64), (256, 128), (192, 128)])
  (m2.write 0x4040 (record [(432, inst), (352, 2 * 2 ^ 24 + 2 ^ 16 + 4 * 2 ^ 6), (279, 1), (277, 1), (254, 1)])).write 0x5000 (natBytes 8 8)

/-- The device with that launch in its queue and its code in slot 0 of the band. -/
def launching : State := { State.reset with
  boot := .started, devSet := true, nextShop := 1, mem := launchMem 1, funcs := [(0, func1)], codes := [(256, ⟨codeCap 1 0 0x5000 64, [], 0⟩)] }

/-- After the launch was accepted, dispatched on core 200, and started. -/
def accepted : State := after (exec (.launchAccept 0 0) launching) launching
/-- Dispatched. -/
def dispatched : State := after (exec (.dispatch (some 0) 0 200 [0]) accepted) accepted
/-- Started. -/
def started : State := after (exec (.teamStart 1) dispatched) dispatched

/-- The launch runs step by step, and its record was accepted with no code. -/
theorem witness_AgingAndLaunches :
    (dev { team0 with aging := 4096 } shop0).team? 0 = some { team0 with aging := 4096 } ∧ team0.aged = false ∧ (0 : Nat) < 64 ∧
      (launching.func 0).band ≠ 0 ∧ ((launching.func 0).queue 0).enable = true ∧ ((launching.func 0).queue 0).stopped = false ∧
      (((launching.func 0).queue 0).tail - ((launching.func 0).queue 0).head).toNat = 1 ∧ ((launching.func 0).queue 0).size.toNat = 1 ∧
      (let r : LaunchIn := ⟨launching.gread (launching.root 0 0) 0x2000 64⟩
       let g := launching.readGraph 0 1 (launching.root 0 (r.bits 204 4)) (r.bits 224 64) false
       r.bits 195 1 = 0 ∧ launching.acceptReady 0 0 r = true ∧ launching.recordCodes 0 r = [] ∧ g.codes = [] ∧ (launching.root 0 0).tag = true ∧
       launching.nodesUsed none + g.nodes.length ≤ 65535 ∧ g.code.isSome = true ∧ (boundCap 32 (launching.root 0 0) (r.bits 320 64) (r.bits 288 32)).isOk = true) ∧
      (let s : State := { launching with codes := [] }
       let r : LaunchIn := ⟨s.gread (s.root 0 0) 0x2000 64⟩
       s.acceptReady 0 0 r = true ∧ (s.readGraph 0 1 (s.root 0 0) (r.bits 224 64) false).codes = [5]) ∧
      (let p : Spawn := ⟨0, 1, { resetRoot with band := 1, base := 0x400 }, .null, { resetRoot with band := 1, base := 0x300 }⟩
       [p] = [] ++ p :: [] ∧ launching.rowReady 0 p.stamp 0 8 true = true ∧ launching.graphReady p.graph 0 = true ∧
       (launching.readGraph 0 1 p.graph 0 true).codes = [] ∧ (launching.readGraph 0 1 p.graph 0 true).code.isSome = true) := by
  decide +kernel

theorem witness_DispatchAndTeamStart :
    (accepted.poolOrder.find? fun r => r.launch = some 0 && r.node = 0 && !r.pressing) = some ⟨some 0, 0, 0, none, false, false⟩ ∧
      accepted.firstEntry (some 0) 0 200 = some ⟨some 0, 0, 0, none, false, false⟩ ∧ accepted.mayDispatch ⟨some 0, 0, 0, none, false, false⟩ 200 = true ∧
      accepted.entryFits ⟨some 0, 0, 0, none, false, false⟩ 200 = true ∧
      (match accepted.entryNode ⟨some 0, 0, 0, none, false, false⟩ with
       | some (l, nd) => decide (nd.teams = 1) && accepted.privPlaced l (privBytes nd.ppw nd.lanes) [0] accepted.privRegions && accepted.operandsReady l nd &&
           (accepted.ctxPlace accepted.nextShop l (ctxBound nd.ppw nd.lanes nd.teams (isVCore 200))).isSome &&
           (accepted.operandEntries l nd nd.dispatched nd.opn 0).isOk
       | none => false) = true ∧
      goesOn (exec (.dispatch (some 0) 0 200 [0]) accepted) = true ∧ (dispatched.shop? 1).map Shop.phase = some .staging ∧ dispatched.cmds = [] ∧
      ((dispatched.shop? 1).bind fun x => x.roles[0]?).isSome = true ∧ ((dispatched.shop? 1).map Shop.lanes) = some 32 ∧
      (started.shop? 1).map Shop.phase = some .running ∧ (started.team? 32).map Team.pc = some 8 := by
  decide +kernel

/-- The device in which the team of the launch has ended. -/
def finished : State := started.updTeam 32 fun t => { t with ended := true, crews := 0 }

/-- The device in which it waits in a YIELDC while another entry is ready, and is then pre-empted. -/
def starved : State :=
  { started.updTeam 32 fun t => { t with wait := .yieldc (.yieldc 1 3 2 4) true .null 0 0 false 0 } with ready := [⟨some 0, 0, 0, none, false, false⟩] }

/-- Marked. -/
def preempting : State := after (exec (.starvationPreempt 1) starved) starved

theorem witness_EndOfInstancesAndPreemption :
    (finished.shop? 1).map Shop.phase = some .running ∧ finished.shopQuiet 1 = true ∧ ((finished.shop? 1).map finished.launchStampReady) = some true ∧
      finished.teamsOf 1 = [32] ∧ (∀ t ∈ finished.team? 32, t.ended = true) ∧ goesOn (exec (.instanceComplete 1) finished) = true ∧
      (∀ l ∈ finished.launches, l.2.stamp.kind = kData ∧ l.2.stamp.localAt l.2.stampOff < hbmTop) ∧
      (starved.shop? 1).map Shop.phase = some .running ∧ (starved.shop? 1).bind Shop.launch = some 0 ∧ starved.liveTeams 1 ≠ [] ∧ starved.ready ≠ [] ∧
      (∀ t ∈ starved.liveTeams 1, t.inYieldWait = true) ∧ (preempting.shop? 1).map Shop.phase = some .preempting ∧
      ((preempting.shop? 1).map fun x => !preempting.poolBusy 1 x) = some true ∧ (Sparse.look preempting.launches 0).isSome = true ∧
      ((preempting.shop? 1).map fun x => decide (x.ctx = 0x100000) && preempting.ctxFree 1 x 0x100000 && decide (x.lanes % 4 = 0)) = some true ∧
      (let s : State := { State.reset with boot := .started, funcs := [(0, { func1 with band := 0 })], shops := [(0, shop0)], nextShop := 1 }
       shop0.launch = none ∧ (s.ctxPlace 0 s.bootLaunch (ctxBound shop0.ppw shop0.lanes shop0.nteams shop0.onV)).isSome = true) ∧
      (let s : State := { started with draining := [200] }
       (s.shop? 1).map (fun x => s.movesTo x 201) = some true ∧ (s.forwards.filter fun f => f.die = dieOf 200).length < 64) ∧
      (∀ t ∈ ({ starved with draining := [200] } : State).liveTeams 1, t.atPoint = true) := by
  decide +kernel


/-- The device with the launch, function 0's queue after an edit. -/
def relaunching (f : LQueue → LQueue) : State :=
  { launching with funcs := [(0, { func1 with queues := func1.queues.map fun e => (e.1, f e.2) })], lastQueue := some 7 }

/-- The queue whose turn it is; its record as the tail passed it; a record changed since; a queue that is overrun; teams that issue beside others. -/
theorem witness_AgingAndLaunches_queues :
    (relaunching id).servedNext = some 0 ∧ servable (relaunching id) 0 ∧ (relaunching id).lastQueue = some 7 ∧ State.reset.servedNext = none ∧
      (let qu := ((relaunching id).func 0).queue 0
       taken (relaunching id) 0 qu ⟨recordNow (relaunching id) 0 qu⟩ (relaunching id).fresh ∧ recordNow (relaunching id) 0 qu < 2 ^ 512) ∧
      (let s := relaunching fun q => { q with posted := [0] }
       let qu := (s.func 0).queue 0
       qu.posted.head? = some 0 ∧ 0 ≠ recordNow s 0 qu ∧ s.region ((s.root 0 0).localAt (qu.ring.toNat + 64 * (qu.head.toNat % qu.size.toNat))) = .hbm) ∧
      (let s := relaunching fun q => { q with tail := 2 }
       s.servedNext = some 0 ∧ ((s.func 0).queue 0).size.toNat < (((s.func 0).queue 0).tail - ((s.func 0).queue 0).head).toNat) ∧
      (let s : State := { dev team0 shop0 with teams := [(0, team0), (1, team0)] }
       s.team? 1 = some team0 ∧ s.readyTeam 1 = true ∧ ∃ y, s.ctx? 1 = some y ∧ s.slotOf (ctx team0 shop0) ∈ s.slotsOf y) ∧
      ((launching.func 0).queue 0).posted.length = (((launching.func 0).queue 0).tail - ((launching.func 0).queue 0).head).toNat := by
  refine ⟨?_, ?_, ?_, ?_, ⟨.inl ⟨?_, rfl, rfl⟩, ?_⟩, ?_, ?_, ⟨?_, ?_, _, rfl, ?_⟩, ?_⟩ <;> first | decide +kernel | (simp only [servable]; decide +kernel)

/-- The device in which the shop is saved in the area at 0x100000, which holds its header and the allotment of its one team (R192). -/
def saved : State :=
  match preempting.shop? 1 with
  | none => preempting
  | some x =>
    { preempting.setShop 1 { x with phase := .saved } with
      ready := [⟨some 0, 0, 0, some 1, false, false⟩]
      mem := (preempting.mem.write 0x100000 (natBytes 4 0 ++ natBytes 4 0 ++ natBytes 4 x.ppw.toNat ++ [1, natBytes 1 x.nkind.toNat |>.headD 0, 0, 1] ++ natBytes 8 9)).write 0x100112
        (natBytes 2 ((x.roles[0]?.map RoleEntry.allot).getD 0)) }

/-- The saved shop is restored on core 200: its image passes, and holds the record of its one team; an image of another instance does not pass. -/
theorem witness_DispatchAndTeamStart_restore :
    saved.firstEntry (some 0) 0 200 = some ⟨some 0, 0, 0, some 1, false, false⟩ ∧
      saved.mayDispatch ⟨some 0, 0, 0, some 1, false, false⟩ 200 = true ∧ ((saved.shop? 1).map fun x => saved.restoreOk 1 x) = some true ∧
      ((saved.shop? 1).map fun x => (saved.savedRecords 1 x).1) = some [(32, 0x100100)] ∧
      (let s : State := { saved with mem := saved.mem.write 0x100000 [7] }
       ((s.shop? 1).map fun x => !s.restoreOk 1 x && !x.resident && decide (x.launch = some 0)) = some true) := by
  decide +kernel
/-! ### Commands that complete -/

/-- Command 1 of queue `q`, from team 0 or the gaffer. -/
def cmd1 (q : Nat) (team : Option Nat) (b : CmdBody) (d : Completion) (performed : Bool) : Cmd := ⟨1, team, 0, q, 0, b, d, 1, performed, 0, []⟩

/-- A device on whose M-core team 0 has issued one command, over memory `m`. -/
def busy (c : Cmd) (x : Shop) (m : Mem) : State := { dev team0 x with cmds := [c], mem := m }

theorem witness_CopyCommandsComplete :
    resetRoot.kind = kData ∧ resetRoot.localAt (hbmTop - 16) + 16 ≤ hbmTop ∧ 0 < 16 ∧
      (let c := cmd1 0 (some 0) (.copy resetRoot resetRoot [⟨0, 256, 16⟩] true) (.barrier 0 0) false
       let s := busy c shop0 .empty
       s.turn? 1 = some c ∧ s.reportReady c = true ∧ s.movesReady 0 resetRoot resetRoot [⟨0, 256, 16⟩] [] = true ∧
       s.copyErrorAllowed c 0x80 = true ∧ s.copyErrorAllowed c 0x85 = false) ∧
      (let c := cmd1 0 (some 0) (.gather [{ resetRoot with fmt := 0x0D }] 0 1 resetRoot 512 2 false 0 false) .none false
       (busy c shop0 tableMem).turn? 1 = some c ∧ ((busy c shop0 tableMem).gatherRead 0 0 1 [{ resetRoot with fmt := 0x0D }] []).isSome = true) ∧
      (let c := cmd1 0 (some 0) (.publishRows [{ resetRoot with fmt := 0x0D }] 0 1 63 false 0 false) .none false
       (busy c shop0 tableMem).turn? 1 = some c) ∧
      (let c := cmd1 0 (some 0) (.multi resetRoot 0 0 16 32 [192]) .none false
       (busy c shop0 .empty).turn? 1 = some c ∧ answersFor resetRoot 0 16 = 0 ∧ (busy c shop0 .empty).rowReserved 0 resetRoot 0 16 = false ∧
       (busy c shop0 .empty).rowReady 0 resetRoot 0 16 false = true ∧ (∀ t ∈ (busy c shop0 .empty).multiTargets 0 1 [192], t.isSome = true)) ∧
      (let c := cmd1 5 (some 0) (.gateway resetRoot 0 16 31 0x3FFF 0xFFFF) (.stamp resetRoot 0 7) false
       (busy c shop0 .empty).turn? 1 = some c ∧ (busy c shop0 .empty).reportReady c = true ∧ (busy c shop0 .empty).copyErrorAllowed c 0x87 = true) ∧
      (let c := cmd1 3 (some 0) (.remoteGo peerCap true) .none false; (busy c shop0 .empty).turn? 1 = some c) ∧
      (let c := cmd1 0 none (.ownerGo resetRoot resetRoot [⟨0, 256, 16⟩] true 5 9) .none false; (busy c shop0 .empty).turn? 1 = some c) := by
  decide +kernel

/-- A B operand of one element, and its descriptor. -/
def desc1 : Desc := ⟨false, 0, 1, 0, false, 8, false, 0, 0x0D, 1, 1, 0⟩

theorem witness_MatrixCommandsPerform :
    (let c := cmd1 4 (some 0) (.mloadb 0 resetRoot { desc1 with margin := 0 }) .none false
     (busy c shopM .empty).matrixTurn 0 = some c ∧ (busy c shopM .empty).shop? 0 = some shopM ∧ (busy c shopM .empty).operandReady 0 resetRoot { desc1 with margin := 0 } = true) ∧
      (let c := cmd1 4 (some 0) (.msub 7 63 8) .none false; (busy c shopM .empty).matrixTurn 0 = some c ∧ (shopM.sub 7).on = false) ∧
      (let c := cmd1 4 (some 0) (.munsub 0) .none false; (busy c shopM .empty).matrixTurn 0 = some c) ∧
      (let c := cmd1 4 (some 0) (.mma 0 0 resetRoot desc1 false) .none false
       (busy c shopM .empty).matrixTurn 0 = some c ∧ (shopM.tile 0).state ≠ .error ∧ (shopM.tile 0).state ≠ .drain ∧
       ((busy c shopM .empty).productA shopM 0 resetRoot desc1).isSome = true) ∧
      (let x : Shop := shopM.setTile 0 { Tile.cleared with state := .error }
       (x.tile 0).state = .error) ∧
      (let c := cmd1 4 (some 0) (.mepi 0 true { resetRoot with fmt := 0x09 } 0 1 1 1 0 false []) .none false
       let bytes := shopM.epiBytes 0 { resetRoot with fmt := 0x09 } 0 1 1 1 0 false []
       (busy c shopM .empty).matrixTurn 0 = some c ∧ (busy c shopM .empty).epiReady 0 { resetRoot with fmt := 0x09 } bytes = true ∧
       (busy c shopM .empty).epiBad 0 { resetRoot with fmt := 0x09 } bytes = false ∧
       (busy { c with performed := true } (shopM.setTile 0 { Tile.cleared with state := .drain }) .empty).draining? 0 = some { c with performed := true }) ∧
      (let c := cmd1 4 (some 0) (.mclr 14) .none false; (busy c shopM .empty).matrixTurn 0 = some c ∧ (shopM.tile 14).state ≠ .drain) ∧
      (let c := cmd1 4 (some 0) (.mrel 0) .none false
       let x := shopM.setSub 0 ⟨true, 5, 8, [⟨0, 0x0D, 0, [0], false⟩], true⟩
       (busy c x .empty).matrixTurn 0 = some c ∧ (x.sub 0).on = true ∧ (x.sub 0).tiles = [⟨0, 0x0D, 0, [0], false⟩]) ∧
      (let c := cmd1 4 (some 0) (.mpub 5 resetRoot desc1 1 0) .none true
       let t : Delivered := ⟨0, 0x0D, 0, [0], false⟩
       let p : Pub := ⟨1, 0, dieOf 0, 0, 5, resetRoot, [desc1, desc1], [t, t], none, []⟩
       let s : State := { busy c (shopM.setSub 0 ⟨true, 5, 8, [], false⟩) .empty with pubs := [p] }
       firstOfStream 1 s.pubs = some p ∧ s.cmd? 1 = some c ∧ s.reportReady c = true ∧ receivers s p = [0] ∧ receivers { s with shops := [(0, shopM)] } p = [] ∧
       (let q : Pub := { p with subs := some [0], owed := [0] }
        (q.owed.filter fun k => s.subLive k && (q.subs.getD []).contains k) = [0] ∧ [0].filter s.subTakes = [0] ∧ ([0].filter fun k => !s.subTakes k) = [] ∧
        receivers s q = [0]) ∧
       (let q : Pub := { p with subs := some [0], owed := [0], formed := [t] }
        receivers s q = [0] ∧ q.formed = [t])) := by
  decide +kernel

theorem witness_FabricCommandsComplete :
    (let g : Cap := { resetRoot with kind := kGroup, base := 64 }
     let c := cmd1 5 (some 0) (.groupSetup g) .none false
     let m := cmd1 5 (some 0) (.mlred g resetRoot 0 0 4096 false 0 false) .none false
     let w := cmd1 5 (some 0) (.mstm g resetRoot 0 0 128) .none false
     (busy c shop0 recordMem).turn? 1 = some c ∧ (busy c shop0 recordMem).rowReady 0 g 0 1216 true = true ∧
     (busy m shop0 recordMem).turn? 1 = some m ∧ (busy m shop0 recordMem).groupCanEnd m g = true ∧ (busy m shop0 recordMem).groupRefused m g = none ∧
     (busy m shop0 recordMem).groupCount 0 g = 2 ∧ (busy m shop0 (recordMem.write 1026 [3])).groupRefused m g = some 0x86 ∧
     (busy m shop0 recordMem).rowReady 0 resetRoot 0 8192 true = true ∧ (busy m shop0 recordMem).rowReserved 0 resetRoot 0 8192 = false ∧
     (busy w shop0 recordMem).turn? 1 = some w ∧ (busy w shop0 recordMem).rowReady 0 resetRoot 0 128 false = true) ∧
      (let s : State := { dev team0 shop0 with rings := [(0, BitVec.ofNat 64 (2 ^ 63 + 1 * 2 ^ 16 + 7))] }
       s.ring? 0 = some (0, 1, 7) ∧ s.ring? 256 = none ∧ (s.word64 0 - s.word64 8).toNat < 1 ∧ ({ s with mem := Mem.empty.write 0 [1] } : State).word64 0 = 1) ∧
      (match (ctx commanding shop0).planOf (devM commanding shop0 reshardMem) (commanding.rdC 4)
          ((devM commanding shop0 reshardMem).readRow 0 (commanding.rdC 4) 0 128 []).1 with
       | .ok p =>
         let c := cmd1 5 (some 0) (.reshard p) .none false
         let s : State := { busy c shop0 reshardMem with rse := [] }
         let r : RsePlan := ⟨1, (List.range p.src.devn).map (s.srcEntry 0 p.src.devtab), 0, 0, 1, 0, 0, 0, 0, 0, 0⟩
         let s : State := { s with rseQueue := [1] }
         s.nextPlan (dieOf 192) == some (c, p) && decide (p.prog.kind ≠ kSealed) && s.recordOk c p && decide (Sparse.look s.rse (dieOf 192) = none) && s.portsOpen && s.planWritable c p && s.rowReady 0 p.src.devtab 0 p.src.devtab.len false &&
           !((s.readRow 0 p.prog p.progOff 32 []).1.poison.any id) && decide ((s.readRow 0 p.prog p.progOff 32 []).1.num 0 8 < p.count) &&
           (match s.planRows c p none (p.fuel 0) r [] with
            | (s1, r1, [], how) => (s1.planStretch (dieOf 192) c p r1 false how).isSome && s1.recordOk c p
            | _ => false)
       | .error _ => false) = true := by
  decide +kernel

/-! ### The lehr, the fabric, the host -/

theorem witness_LehrPassesClearAffectedTags :
    ({ dev team0 shop0 with lehr := .waiting } : State).lehr = .waiting ∧
      (let c := cmd1 0 (some 0) (.copy resetRoot resetRoot [⟨0, 256, 16⟩] true) .none false
       c ∈ (busy c shop0 .empty).cmds ∧ c.before ≤ (busy c shop0 .empty).lehrDone) ∧
      ({ dev team0 shop0 with expset := [(5, true)] } : State).passPeers = [5] ∧ ({ dev team0 shop0 with expset := [(5, true)], excluded := [5] } : State).passPeers = [] ∧
      (5 : BitVec 14).toNat ∈ [5, 6] ∧ (dev team0 shop0).devSet = true ∧ (5 : BitVec 14) ≠ (dev team0 shop0).devId ∧
      (dev team0 shop0).remoteRanges = [] ∧ (dev team0 shop0).remoteRanges.length + (List.replicate 256 (0, 16)).length ≤ 256 := by
  decide +kernel

/-- A request of device 5 through a capability of this device that is sealed for it, for one byte at the end of a line. -/
def request (op : FlitOp) (mask : BitVec 128) : Flit :=
  { src := 5, band := 0, op := op, cap := BitVec.ofNat 128 (Cap.toNat { resetRoot with kind := kSealed, aux := (match op with
      | .go _ => kCommand
      | _ => kData) ++ (5 : BitVec 14) ++ (0 : BitVec 7) })
    capTag := true, off := 0, mask := mask, payload := 0, tags := 0, poison := 0, lane := 3, seq := 1 }

theorem witness_PortsJudgeAndPerformRequests :
    portOk (dev team0 shop0) (request .load (2 ^ 127)) ∧ (Cap.ofNat (request .load 1).cap.toNat true).dev = (dev team0 shop0).devId.toNat ∧
      (dev team0 shop0).portsOpen = true ∧ (Cap.ofNat (request .load 1).cap.toNat true).isSo = true ∧
      flitInHbm (request .load (2 ^ 127)) ∧ portOk (dev team0 shop0) (request .storeCap 0xFFFF) ∧
      portOk (dev team0 shop0) (request (.atomic 0 0 1 0) 0xF) ∧ maskRuns (request (.atomic 0 0 1 0) 0xF).mask = [(0, 4)] ∧
      ¬ portOk { dev team0 shop0 with excluded := [5] } (request .load 1) ∧ portOk (dev team0 shop0) (request (.go false) 0) ∧
      (let s : State := { dev team0 shop0 with portSeen := [(5 * 2 ^ 24 + 3, 1)] }
       (request .load 1).seq.toNat ≤ Sparse.get 0 s.portSeen ((request .load 1).src.toNat * 2 ^ 24 + (request .load 1).lane.toNat) ∧
       ¬ (request .load 1).seq.toNat ≤ Sparse.get 0 (dev team0 shop0).portSeen (5 * 2 ^ 24 + 3)) ∧
      (devM team0 shop0 copyBlockMem).rowReady 0 { Cap.ofNat (request (.go false) 0).cap.toNat true with kind := kCommand } 0 128 false = true ∧
      ((devM team0 shop0 copyBlockMem).ownerGo (request (.go false) 0) (Cap.ofNat (request (.go false) 0).cap.toNat true) false).isOk = true ∧
      ((dev team0 shop0).ownerGo (request (.go false) 0) (Cap.ofNat (request (.go false) 0).cap.toNat true) false).isOk = false := by
  refine ⟨?_, ?_, ?_, ?_, ?_, ?_, ?_, ?_, fun h => h _ List.mem_cons_self (by decide +kernel), ?_, ?_, ?_, ?_, ?_⟩ <;>
    first | decide +kernel | (simp only [flitInHbm]; decide +kernel) | (simp only [portOk, portChecks, List.forall_mem_cons, List.not_mem_nil, false_implies, implies_true, and_true]; decide +kernel)

/-- A team that waits for a peer's answer to a load. -/
def asking : Team := { withPeer with wait := .access (.ld 0 (.c 4) 0) [⟨0, .remote 1, 4, .read, peerCap, 1, 4, 0, 5 * 2 ^ 43⟩] }

/-- The device with that request under way. -/
def asked (a : Option Answer) : State := { dev asking shop0 with reqs := [(1, ⟨some 0, request .load 0xF, 5, a⟩)], nextId := 1 }

theorem witness_AnswersAndPortEvents :
    (Sparse.look (asked none).reqs 1).isSome = true ∧ (asked none).team? 0 = some asking ∧ (asked none).shop? (shopOf 0) = some shop0 ∧
      (let b : Access := ⟨0, .remote 1, 4, .read, peerCap, 1, 4, 0, 5 * 2 ^ 43⟩
       let heard (a : Answer) : State := asked (some a)
       (asked none).accessReady b = false ∧ (heard ⟨0, 0, false, List.replicate 128 0, [], [], 0⟩).accessReady b = true ∧
       (heard ⟨0, 0, false, List.replicate 128 0, [], [], 0⟩).returnFaults [b] = none ∧ readsFirst (.ld 0 (.c 4) 0) [b] = false ∧
       ((heard ⟨0, 0, true, [], [], [], 0⟩).returnFaults [b]).map Trap.code = some .remoteAbsent ∧
       ((heard ⟨8, 1, false, [], [], [], 0⟩).returnFaults [b]).map Trap.port = some true ∧
       ((heard ⟨0, 0, false, List.replicate 128 0, [], [true], 0⟩).returnFaults [b]).map Trap.code = some .poison ∧ b.op.mayWrite = false) ∧
      Sparse.look (dev team0 shop0).reqs 1 = none ∧ (17 : Nat) < 18 ∧ (dev team0 shop0).portdn.getLsbD 17 = false ∧
      ({ dev team0 shop0 with portdn := 0x20000 } : State).portdn.getLsbD 17 = true := by
  decide +kernel

/-- A device whose first host window is on and that holds half 0 as `h`. -/
def hosting (h : Half) : State := { dev team0 shop0 with hwin := [(0, 1)], halves := [(0, h)] }

theorem witness_HostLinesAndAperture :
    Sparse.look (hosting ⟨.owned, List.replicate 64 0, true, 0⟩).halves 0 = some ⟨.owned, List.replicate 64 0, true, 0⟩ ∧
      Sparse.look (hosting ⟨.owned, [], true, 0⟩).halves (2 ^ 30 - 1) = none ∧ (Sparse.get (0 : W64) (hosting ⟨.shared, [], false, 0⟩).hwin (0 / 2 ^ 24)).getLsbD 0 = true ∧
      (hosting ⟨.shared, [], false, 0⟩).region (128 * (hostBase / 128)) = .host 0 ∧ 128 * (hbmTop / 128 - 1) < hbmTop ∧
      (63 : Nat) < 64 ∧ (0xFFFFFFFF : BitVec 32).toNat + 1 ≤ 2 ^ 32 ∧
      (let c := launching.root 0 0
       c.tag = true ∧ c.kind = kData ∧ c.dev = 0 ∧ c.band = 1 ∧ c.has pST = true ∧ touchesMmio (c.localAt 0) 8 = false ∧ (0 : Nat) + 8 ≤ c.len) ∧
      (dev team0 shop0).root 0 0 = Cap.null ∧ (poisoned team0).mem.poisoned 0 16 = true := by
  decide +kernel

theorem witness_QueueControlAndInstallation :
    (let qu := (launching.func 0).queue 0
     qu.size.toNat = 2 ^ 0 ∧ qu.ring.toNat % 64 = 0 ∧ qu.err.toNat % 64 = 0 ∧ qu.enable = true ∧ 64 * qu.size.toNat ≤ (launching.root 0 0).len) ∧
      (let s := launching.updFunc 0 fun f => { f with instBusy := true, instLen := 64, instCmd := 2 ^ 63 + 1 }
       (s.func 0).instBusy = true ∧ (launching.func 0).instBusy = false ∧ s.rowReady 0 (s.root 0 0) 0 64 false = true ∧
       ((s.readRow 0 (s.root 0 0) 0 64 []).1.poison.any id) = false ∧ (buildObject (s.readRow 0 (s.root 0 0) 0 64 []).1.data 0).isOk = false ∧
       Sparse.look s.codes 257 = none ∧ (Sparse.look s.codes 256).isSome = true ∧ s.quar.length < 32) := by
  decide +kernel

theorem witness_RegisterWrites :
    State.reset.devSet = false ∧ (∀ e ∈ State.reset.funcs, e.2.band = 0) ∧ (dev team0 shop0).devSet = true ∧ (∃ e ∈ launching.funcs, e.2.band ≠ 0) ∧
      (255 : BitVec 8) = 255 ∧ (∃ e ∈ accepted.launches, e.2.fn = 0 ∧ e.2.done = false) ∧ (1200 : W64).toNat % 2 ^ 12 = 1200 ∧ (2601 : W64).toNat % 2 ^ 12 > 2600 ∧
      ¬ (1 = 255 ∨ (∃ e ∈ launching.launches, e.2.fn = 0 ∧ e.2.done = false) ∨ ((1 : BitVec 8) ≠ 0 ∧ ∃ e ∈ launching.funcs, e.1 ≠ 0 ∧ e.2.band = 1)) := by
  decide +kernel

theorem witness_BringUpAndReliability :
    State.reset.boot = .loading ∧ (dev team0 shop0).boot ≠ .loading ∧ 128 * (hbmTop / 128 - 1) + 128 ≤ hbmTop ∧ (dev team0 shop0).shop? 0 = some shop0 ∧
      16 * (1024 * shop0.spadUnits - 1) + 16 ≤ 16384 * shop0.spadUnits ∧ 32 * 7 + 31 ∉ State.reset.retired ∧ 2 * 7 + 31 / 16 ∉ State.reset.rebuilding ∧
      State.reset.hbmunp.getLsbD 15 = false ∧ 15 ∈ ({ State.reset with rebuilding := [15] } : State).rebuilding := by
  decide +kernel

/-! ### The step -/

/-- The boot shop whose image is the word. -/
def placed (w : Nat) : Shop := { shop0 with image := (Mem.empty.write 0 (natBytes 8 w)).bytes }

/-- The next step issues the word at the PC of the boot team. -/
def fetching (t : Team) (w : Nat) : State := { dev t (placed w) with cur := none, agenda := [.issue 0 false], mem := Mem.empty.write 0 (natBytes 8 w) }

theorem witness_StepRunsDecodedWord :
    asksFor (fetching team0 0x01000000) (ctx team0 (placed 0x01000000)) false [] ∧ noBreakNow team0 ∧ team0.dlleft ≠ 0 ∧ fetchable (fetching team0 0x01000000) (ctx team0 (placed 0x01000000)) 8 ∧
      (match decodeBytes (codeBytes (fetching team0 0x01000000) (ctx team0 (placed 0x01000000))) with
       | .ok (i, more) => i == .nop 0 && more == [0, 0, 0, 0]
       | .error _ => false) = true ∧
      (match decodeBytes (codeBytes (fetching team0 0xFF000000) (ctx team0 (placed 0xFF000000))) with
       | .ok _ => false
       | .error e => e == .opcode) = true ∧
      asksFor (fetching { team0 with dlleft := 0 } 0) (ctx { team0 with dlleft := 0 } (placed 0)) false [] ∧
      breaksAt { team0 with bkpc := [(3, 1)] } 3 ∧ ¬ breaksAt { team0 with bkpc := [(3, 1)] } 0 ∧ ({ team0 with bkctl := 16 } : Team).bkctl.getLsbD 4 = true ∧
      asLoaded (fetching team0 0x01000000) (ctx team0 (placed 0x01000000)) ∧ asLoaded (fetching team0 0xFF000000) (ctx team0 (placed 0xFF000000)) ∧
      ¬ asLoaded (fetching team0 0x01000000) (ctx team0 (placed 0)) ∧ asksFor (fetching team0 0xFF000000) (ctx team0 (placed 0xFF000000)) false [] ∧
      State.reset.agenda = [] := by
  simp only [asksFor, noBreakNow, fetchable, breaksAt, asLoaded]
  decide +kernel

theorem witness_StepKeepsMemoryCanonical : State.reset.memWf ∧ ∃ s', step (State.reset.withFetchWord 32 0x01000000) = .next s' :=
  ⟨by unfold State.memWf; decide +kernel, _, rfl⟩

theorem witness_EncodingRoundTrip : hasWord (.bra (-1)) = true ∧ (match decodeBytes (encodeBytes (.movl 255 15 0xFFFFFFFF) ++ [7]) with
    | .ok r => r == (.movl 255 15 0xFFFFFFFF, [7])
    | .error _ => false) = true := by decide +kernel

/-! ### One step; the values are worked out by hand from the rules -/

/-- The team after one word. -/
def run (i : Instr) (t : Team) : Option Team :=
  match exec i (dev t shop0) with
  | .next s => s.team? 0
  | _ => none

/-- A team with v1 and v2 of lane 0 set, under a TYPE and a rounding mode. -/
def two (ty r : Nat) (a b : W32) : Team := ((typed ty r).wrV 0 1 a).wrV 0 2 b

/-- v0 of lane 0 after one word. -/
def v0 (i : Instr) (t : Team) : Option W32 := (run i t).map fun u => u.rdV 0 0

/-- A word placed by withFetchWord is the first that runs: SMOVL s5, -2. -/
theorem test_first_word : (match step (State.reset.withFetchWord 64 0xFFFFFFFE_D1050000) with
    | .next s => s.team? 0 |>.map fun t => (t.rdS 5, t.pc)
    | _ => none) = some (-2, 8) := by decide +kernel

/-- R227: i8x4 elements wrap, each by itself; n32 MULH takes the high half. -/
theorem test_add_wraps_by_element : v0 (.add 0 1 2) (two 6 0 0x7FFF80FF 0x01018001) = some 0x80000000 := by decide +kernel
theorem test_mulh_unsigned : v0 (.mulh 0 1 2) (two 1 0 0xFFFFFFFF 0xFFFFFFFF) = some 0xFFFFFFFE := by decide +kernel

/-- R228: counts are taken modulo the width. -/
theorem test_shift_count_modulo : v0 (.shl 0 1 2) (two 0 0 1 33) = some 2 ∧ v0 (.sha 0 1 2) (two 0 0 0x80000000 31) = some 0xFFFFFFFF := by decide +kernel

/-- R36, R232: 1 + 2^-24 rounds to even, up under RUP. -/
theorem test_fadd_rounds : v0 (.fadd 0 1 2) (two 8 0 0x3F800000 0x33800000) = some 0x3F800000 ∧
    v0 (.fadd 0 1 2) (two 8 3 0x3F800000 0x33800000) = some 0x3F800001 := by decide +kernel

/-- R236: FMINN prefers the number to a NaN; FMIN does not. -/
theorem test_min_of_nan : v0 (.fminn 0 1 2) (two 8 0 0x7FC00001 0x40000000) = some 0x40000000 ∧
    v0 (.fmin 0 1 2) (two 8 0 0x7FC00001 0x40000000) = some 0x7FC00000 := by decide +kernel

/-- R249: BFX of 4 bits at 4, signed by TYPE. -/
theorem test_bfx_sign : v0 (.bfx 0 1 2) (two 0 0 0x80 0x404) = some 0xFFFFFFF8 ∧ v0 (.bfx 0 1 2) (two 1 0 0x80 0x404) = some 8 := by decide +kernel

/-- R260: LTU and LT differ on the sign. -/
theorem test_scmp_signs : (run (.scmp 1 5 2 0 1) (team0.wrS 0 (-1))).map (fun t => t.rdS 5) = some 0 ∧
    (run (.scmp 0 5 2 0 1) (team0.wrS 0 (-1))).map (fun t => t.rdS 5) = some 1 := by decide +kernel

/-- R263: a branch is relative to its own PC; R264: CALL links the next word. -/
theorem test_branch_and_call : (run (.bra 0xFFFFFF) { team0 with pc := 8 }).map Team.pc = some 4 ∧
    (run (.call 7 2) { team0 with pc := 8 }).map (fun t => (t.rdS 7, t.pc)) = some (12, 16) := by decide +kernel

/-- R277, R62: a store clears the tag of its granule, and a load gives the bytes back. -/
theorem test_store_clears_tag :
    (match exec (.st 1 (.c 3) 0) { dev ((lone 0).wrV 0 1 0x04030201) shop0 with mem := Mem.empty.writeCap 0 resetRoot } with
     | .next s => some (s.mem.tagAt 0, s.mem.read 0 4, (match exec (.ld 2 (.c 3) 0) { s with cur := some 0 } with
        | .next u => (u.team? 0).map fun t => t.rdV 0 2
        | _ => none))
     | _ => none) = some (false, [1, 2, 3, 4], some 0x04030201) := by decide +kernel

/-- R181: a load through the null capability faults TAG with its record, and PC at the handler. -/
theorem test_fault_record :
    (match exec (.ld 0 (.c 0) 0) (dev { lone 0 with pc := 24 } { shop0 with handler := some 64 }) with
     | .next s => (s.team? 0).map fun t => ((t.rdS 56).extractLsb' 56 8, t.rdS 57, t.pc, t.inHandler, t.mode)
     | _ => none) = some (0x03, 24, 64, true, 0) := by decide +kernel

/-- R297: an ADD returns the old value and stores the sum. -/
theorem test_atomic_adds :
    (match exec (.atom 0 1 0 3 0) { dev ((lone 0).wrV 0 4 5) shop0 with mem := Mem.empty.write 0 [7] } with
     | .next s => some ((s.team? 0).map fun t => t.rdV 0 4, s.mem.read 0 4)
     | _ => none) = some (some 7, [12, 0, 0, 0]) := by decide +kernel

/-- R287: PBOUND outside its source faults BOUNDS. -/
theorem test_pbound_outside :
    (match exec (.pbound 5 3 0) (dev ((team0.wrS 0 (2 ^ 43)).wrS 1 16) { shop0 with handler := some 64 }) with
     | .next s => (s.team? 0).map fun t => (t.rdS 56).extractLsb' 56 8
     | _ => none) = some 0x01 := by decide +kernel

/-- R328: an arrival at a barrier that expects one completes its phase. -/
theorem test_barrier_phase : ((Bar.init 1 0 false).arrive 1 0).phase = true ∧ ((Bar.init 2 0 false).arrive 1 0).phase = false := by decide +kernel

/-- R399: a write of QTAIL reaches its queue. -/
theorem test_qtail : (match exec (.qtailWrite 63 15 0xFFFFFFFF) State.reset with
    | .next s => ((s.func 63).queue 15).tail
    | _ => 0) = 0xFFFFFFFF := by decide +kernel


/-! ### Further witnesses of the steps that complete commands -/

/-- A block of 8-bit elements, and a command that waits at a barrier. -/
def block8 : Cap := { resetRoot with fmt := 0x0D, lexp := 0, lman := 64 }

/-- The answers of a command that asks a peer; a gather's element; a barrier word with a field that should be zero; a stamp. -/
theorem witness_CopyCommandsComplete_more :
    (let s := busy (cmd1 0 (some 0) (.gather [block8] 0 1 resetRoot 512 2 false 0 false) .none false) shop0 tableMem
     (∃ f, gatherFmt block8 = some f ∧ ∀ q ∈ elemRows block8 f.width 0 1, q.1 + q.2 ≤ block8.len) ∧ localOf block8.addr + block8.len ≤ hbmTop ∧ block8.addr + block8.len ≤ 2 ^ 57 ∧
     (match s.gatherRead 0 0 1 [block8] [] with
      | some [r] => r.1 == block8
      | _ => false) = true ∧ s.copyErrorAllowed (cmd1 0 (some 0) (.gather [block8] 0 1 resetRoot 512 2 false 0 false) .none false) 0x80 = true) ∧
      (let s := busy (cmd1 5 (some 0) (.gateway resetRoot 0 16 31 0x3FFF 0xFFFF) (.stamp resetRoot 0 7) false) shop0 .empty
       s.answersOk [⟨0, 0, false, [], [], [], 0⟩] = true ∧ answersFor resetRoot 0 16 = 0 ∧ s.rowReserved 0 resetRoot 0 16 = false ∧
       s.rowReady 0 resetRoot 0 16 false = true ∧ s.answersOk [] = true ∧ s.portsOpen = true) ∧
      (dev team0 shop0).shop? 0 = some shop0 ∧ shop0.phase ≠ .saved ∧ barClean (bytesNat (shop0.spad.read 0 16)) = true ∧
      barClean (bytesNat ((withPad (Mem.empty.write 12 [1])).spad.read 0 16)) = false ∧ resetRoot.kind = kData ∧ resetRoot.localAt (hbmTop - 8) + 8 ≤ hbmTop := by
  refine ⟨⟨⟨_, rfl, ?_⟩, ?_, ?_, ?_, ?_⟩, ?_, ?_, ?_, ?_, ?_, ?_, ?_⟩ <;> decide +kernel

/-- A tile with one element, which a contribution shifts; a stored element. -/
def tile1 : Tile := { Tile.cleared with state := .opened, elems := [(0, ⟨-(2 ^ 95), true, false⟩)], lam := 0, empty := false }

theorem witness_MatrixCommandsPerform_arithmetic :
    (tile1.elems.map Prod.fst).Pairwise (· < ·) ∧ (5 : Int) ≠ 0 ∧ (5 : Int).natAbs < 2 ^ 64 ∧ -(2 ^ 95) ≤ (tile1.at 0).v ∧ (tile1.at 0).v < 2 ^ 95 ∧
      (tile1.contribute 0 (-5) 3 false).lam = 3 ∧ ((tile1.contribute 0 (-5) 3 false).at 0).v = -(2 ^ 92) - 5 * 2 ^ 40 ∧
      Tile.cleared.elems = [] ∧ ((Tile.cleared.contribute 7 5 3 false).at 7).v = 5 * 2 ^ 40 ∧
      resetRoot.geo = 0 ∧ (fmtElem 0x0D).isSome = true ∧ (0 : Nat) < 16 ∧ (255 : Nat) < 256 := by
  decide +kernel

/-- An epilogue over a soiled tile, one whose destination holds poison, and slots and subscriptions at their ends. -/
theorem witness_MatrixCommandsPerform_faults :
    ({ tile1 with poison := [(0, true)] } : Tile).soiled 1 1 = true ∧ tile1.soiled 16 256 = false ∧
      (let c := cmd1 4 (some 0) (.mepi 0 true block8 0 1 1 1 0 false []) .none false
       let bytes := shopM.epiBytes 0 block8 0 1 1 1 0 false []
       (busy c shopM { Mem.empty with poison := [(0, true)] }).epiBad 0 block8 bytes = true ∧ (busy c shopM { Mem.empty with poison := [(0, true)] }).epiReady 0 block8 bytes = true) ∧
      (let c := cmd1 4 (some 0) (.mpub 5 resetRoot desc1 1 0) .none false
       (busy c shopM .empty).matrixTurn 0 = some c ∧ (busy c shopM .empty).operandReady 0 resetRoot desc1 = true) ∧
      (let x := shopM.setSub 0 ⟨true, 5, 8, [⟨0, 0x0D, 0, [0], false⟩], false⟩
       (x.sub 0).on = true ∧ (x.sub 0).tiles ≠ [] ∧ ((shopM.setSub 0 ⟨true, 5, 8, [], false⟩).sub 0).tiles = [] ∧
       8 < ((List.range 8).map fun j => if (x.sub j).on then (x.sub j).window else 0).sum + 1) := by
  decide +kernel

/-- Two members that answer; one that is absent by a timeout or a rejection; a sum of two leaves. -/
theorem witness_FabricCommandsComplete_more :
    (let g : Cap := { resetRoot with kind := kGroup, base := 64 }
     let m := cmd1 5 (some 0) (.mlred g resetRoot 0 0 4096 false 0 false) .none false
     let s := busy m shop0 recordMem
     let a : Answer := ⟨0, 0, false, List.replicate 128 0, [], [], 0⟩
     s.portsOpen = true ∧ (s.groupMembers 0 g).length = 2 ∧ s.membersReady 0 0 4096 .groupLoad (s.groupMembers 0 g) [a, a] = true ∧
     s.membersReady 0 0 128 .groupStore (s.groupMembers 0 g) [a, a] = true ∧ absentOf [a, a] = [] ∧
     absentOf [a, { a with timeout := true }] = [({ a with timeout := true }, 1)] ∧ absentOf [{ a with step := 9, code := 1 }, a] = [({ a with step := 9, code := 1 }, 0)] ∧
     g.kind = kGroup ∧ localOf g.addr + 1216 ≤ hbmTop ∧ g.addr + 1216 ≤ 2 ^ 57 ∧ s.rowReserved 0 resetRoot 0 8192 = false) ∧
      (spineSum [(3, .fin ⟨false, 1, 0, false⟩), (5, .fin ⟨false, 1, 1, false⟩)] 5).isSome = true ∧
      ((dev team0 shop0).ring? 0 = none ∧ (16 : Nat) % 16 = 0) := by
  decide +kernel

theorem witness_LehrPasses_ports : (dev team0 shop0).portsOpen = true ∧ ({ dev team0 shop0 with lehr := .remote [] } : State).lehr = .remote [] ∧
    ([] : List Nat) ≠ [5] ∧ ({ dev team0 shop0 with portdn := 0x3FFFF } : State).portsOpen = false := by decide +kernel

/-- A request that is rejected at its first failing check, with the step and the code of the check. -/
theorem witness_PortsJudge_rejections :
    (let f := request .store (2 ^ 128 - 1)
     let low (p : BitVec 12) : Flit := { f with cap := BitVec.ofNat 128 (Cap.toNat { resetRoot with kind := kSealed, perm := p, aux := kData ++ (5 : BitVec 14) ++ (0 : BitVec 7) }) }
     (dev team0 shop0).portFails { f with capTag := false } = some (2, .tag) ∧ (dev team0 shop0).portFails { f with src := 6 } = some (4, .sealed) ∧
     (dev team0 shop0).portFails { f with band := 1 } = some (5, .band) ∧ (dev team0 shop0).portFails (low pLD) = some (7, .perm) ∧
     (dev team0 shop0).portFails (low (pST ||| pCW)) = some (10, .cow) ∧ (dev team0 shop0).portFails { f with off := 2 ^ 43 } = some (9, .bounds)) := by
  decide +kernel

/-- A port after 15 and after 16 replays; the only request with a number; a command without requests. -/
theorem witness_AnswersAndPortEvents_replays :
    Sparse.get 0 ({ dev team0 shop0 with replays := [(17, 16)] } : State).replays 17 = 16 ∧ Sparse.get 0 ({ dev team0 shop0 with replays := [(17, 15)] } : State).replays 17 < 16 ∧
      (dev team0 shop0).devSet = true ∧ (∀ e ∈ (asked none).reqs, e.2.flit.lane.toNat * 2 ^ 40 + e.2.flit.seq.toNat = 3 * 2 ^ 40 + 1 → e.1 = 1) ∧
      (∀ e ∈ (dev team0 shop0).reqs, e.2.flit.lane.toNat * 2 ^ 40 + e.2.flit.seq.toNat ≠ 1) ∧ ((asked none).teams.map Prod.fst).Pairwise (· < ·) ∧ (asked none).portsOpen = true := by
  decide +kernel

/-- A write of BAR2 within a half, one that crosses into the next, and the rest of it on the agenda. -/
theorem witness_HostLinesAndAperture_halves :
    (let c := launching.root 0 0
     c.has (pLD ||| pST) = true ∧ min 8 (64 - c.localAt 56 % 64) = 8 ∧ min 9 (64 - c.localAt 56 % 64) < 9 ∧ (launching.func 0).aper = 0 ∧ c.localAt 56 + 9 ≤ hbmTop) ∧
      ({ launching with agenda := [.hostRest 0 64 [1]] } : State).agenda = .hostRest 0 64 [1] :: [] := by decide +kernel

theorem witness_RegisterWrites_enabled :
    State.reset.everEnabled = false ∧ ({ State.reset with everEnabled := true } : State).everEnabled = true ∧ ({ State.reset with boot := .failed 1 } : State).boot = .failed 1 := by
  decide +kernel

/-- The last granules of a line, of a team's registers and of a tile, live and dead. -/
theorem witness_BringUpAndReliability_granules :
    (16 * (hbmTop / 16 - 1) + 16 ≤ hbmTop) ∧ (dev team0 shop0).team? 0 = some team0 ∧ (31 : Nat) < shop0.lanes ∧ 4 * 63 + 3 < team0.allot ∧ 14 < shopM.tileCount ∧ (4095 : Nat) < 4096 ∧
      Sparse.get false (dev team0 shop0).live 0 = false ∧ Sparse.get false ({ dev team0 shop0 with live := [(0, true)] } : State).live 0 = true := by decide +kernel

/-! ### mras (R213 to R219): the worked example of the encoding chapter, the words of its commentary and of other chapters -/

/-- The word and literal of a line. -/
def asmLine (x : String) : Option (Nat × Option AsmVal) :=
  match tokens [] x.toList with
  | .word w :: ts => (asmInstr w (operandsOf ts)).map fun c => (c.word, c.lit)
  | _ => none

theorem test_mras_words :
    (["LANEID  v0", "LD      v2, [c3 + v1] ; load", "ST      v3, [c3 + v1]", "END", "LD v6, [v8q + v5]", "LANEID v0, hint #2", "YIELD #24, hint #4",
      "ATOM.CAS.ACQ v8, [c3 + v1]", "SCMP.LTU s1, s2, s3", "CMDMK.L c6, c5", "PMOV v12q, c3", "STQ v12q, [c5 + v1]", "FENCE"].map asmLine) =
    [0x7C000000, 0x90020301, 0x94030301, 0x0D000000, 0x90068205, 0x7C000020, 0x0E001840,
      0x9E822301, 0x88418203, 0xAE060501, 0xAD830300, 0x99830501, 0xA2000040].map fun w => some (w, none) := by decide +kernel

theorem test_mras_literals :
    (["SETML   #0x0000_2000", "SHL v1, v0, #2", "FMUL v3, v2, #0x4000_0000 // times 2.0", "ADD v5, v2, #-1"].map asmLine) =
    [some (0xD2000000, some (.num 0x2000)), some (0xD9010000, some (.num 2)), some (0xE0030200, some (.num 0x40000000)),
      some (0xD3050200, some (.num (-1)))] := by decide +kernel

/-- R210, R214: an unknown modifier, a register that does not fit and a literal without a literal form are refused. -/
theorem test_mras_refuses : (["ADD.X v1, v2, v3", "ADD v256, v2, v3", "MULH v1, v2, #3"].map asmLine) = [none, none, none] := by decide +kernel

/-- R216: the descriptions of the example. -/
theorem test_mras_directives :
    (asmLines ([".team scale2, #64, #1, V", ".span #32", ".regs #8", ".pool #1, #0, #0, #1, #1", ".deadline #256", ".entry start", ".end", ".text",
      "start: .word #0x7C00_0000"].map String.toList)) =
    some { Asm.start with done := [⟨"scale2".toList, 64, 1, 1, some 32, some 8, some 0x01000041, some 256, some "start".toList, [], none, []⟩]
                          text := [.word (.num 0x7C000000), .label "start".toList] } := by decide +kernel

/-- R217, R219: the constants and the note of the example, with a text of 0x28 bytes. -/
theorem test_mras_sections :
    ({ Asm.start with done := [⟨"scale2".toList, 64, 1, 1, some 32, some 8, some 0x01000041, some 256, some "start".toList, [], none, []⟩]
                      text := [.align 8, .word (.num 0), .align 32, .word (.num 0), .label "start".toList] } : Asm).sections.map
      (fun s => (s.1.length, s.2.1, fieldAt s.2.2 0 6, fieldAt s.2.2 16 16, fieldAt s.2.2 32 16)) =
    some (0x28, natBytes 8 0x0078000000000000 ++ natBytes 7 0x0032656C616373, 0x000100030303,
      0x01000041000000000000010000000108, 0x010100010010) := by decide +kernel

/-! ### Witnesses of the clauses about tags, poison, parts, groups, halves and ends of launches -/

/-- No unacknowledged store holds back a word of the team that waits for an answer, and one does. -/
theorem witness_AnswersAndPortEvents_held :
    (∀ i accs, ¬ heldBack shop0.rev2 asking.outStores i accs) ∧
      heldBack shop0.rev2 ({ asking with outStores := [.store true false true] } : Team).outStores (.ld 0 (.c 4) 0) [⟨0, .remote 1, 4, .read, peerCap, 1, 4, 0, 5 * 2 ^ 43⟩] := by
  refine ⟨not_held _, .inl ⟨⟨_, List.mem_cons_self, ?_⟩, _, List.mem_cons_self, ?_⟩⟩ <;> decide +kernel

/-- An answer of a whole line with a tag that a quarantined region affects, one that no region affects, and poison in the second of two granules. -/
theorem witness_AnswersAndPortEvents_lines :
    (let a : Answer := ⟨0, 0, false, natBytes 16 resetRoot.toNat ++ List.replicate 112 0, true :: List.replicate 7 false, [false, true], 0⟩
     let b : Access := ⟨0, .remote 1, 32, .read, peerCap, 1, 4, 0, 5 * 2 ^ 43⟩
     let s : State := { asked (some a) with quar := [⟨0, 2 ^ 43, 0, 1⟩] }
     a.data.length = 128 ∧ a.tags.length = 8 ∧ (s.atIngress a).tags.getD 0 true = false ∧ ((dev team0 shop0).atIngress a).tags.getD 0 false = true ∧
       granules (b.addr % 128) b.size = [0, 1] ∧ b.op.reads = true ∧ (a.poison.getD 1 false = true ∧ a.poison.getD 0 false = false) ∧
       (s.returnFault b).map (fun e => (e.code, e.aux)) = some (.poison, 5 * 2 ^ 43 + 16) ∧
       (s.returnFault { b with size := 16 }) = none) ∧
      ({ dev team0 shop0 with cmds := [cmd1 3 (some 0) (.remoteGo peerCap false) .none false], portdn := 0x20000 } : State).portdn.getLsbD 17 = true := by
  decide +kernel

/-- Requests of a lane's order by ORD, in the MMIO and in the host window; one that is none; capability accesses of whole granules and of parts. -/
theorem witness_PortsJudge_order :
    (let weak (op : FlitOp) (off mask : Nat) : Flit := { request op (BitVec.ofNat 128 mask) with
       off := BitVec.ofNat 64 off, cap := BitVec.ofNat 128 (Cap.toNat { resetRoot with kind := kSealed, ord := 1, lexp := 35, aux := kData ++ (5 : BitVec 14) ++ (0 : BitVec 7) }) }
     ofLaneOrder (request .load 1) ∧ ofLaneOrder (weak .store mmioBase 0xFF) ∧ ofLaneOrder (weak .store (hostBase + 0xFFFFFFF80) (2 ^ 127)) ∧ ¬ ofLaneOrder (weak .load 0 1) ∧
       ¬ ofLaneOrder (request .groupLoad 1) ∧ ¬ ofLaneOrder (request (.go true) 1)) ∧
      wholeGranule (request .loadCap 0xFFFF) 0 ∧ ¬ wholeGranule (request .storeCap 0xFFFE) 0 ∧ (request .storeCap 0xFFFF).off.toNat % 16 = 0 ∧
      (let v := copyBlockMem.readCap (flitByte (request .loadCap 0xFFFF0000) 16)
       let c := Cap.ofNat (request .loadCap 1).cap.toNat true
       c.has pLDC = true ∧ c.has pSTC = true ∧ v.tag = true ∧ (dev team0 shop0).struck v = false ∧
         ({ dev team0 shop0 with quar := [⟨0, 2 ^ 43, 0, 1⟩] } : State).struck v = true) ∧
      (dev team0 shop0).struck (flitCap { request .storeCap 0xFFFF with payload := BitVec.ofNat 1024 resetRoot.toNat, tags := 1 } 0) = false ∧
      0 < (1 : BitVec 40).toNat ∧ (request .load 1).seq.toNat < Sparse.get 0 [(5 * 2 ^ 24 + 3, 2)] (5 * 2 ^ 24 + 3) := by
  refine ⟨⟨⟨?_, ?_, ?_, .inl ?_⟩, ⟨?_, ?_, ?_, .inr (.inr ⟨(0, 8), ?_, .inl ?_⟩)⟩, ⟨?_, ?_, ?_, .inr (.inr ⟨(127, 1), ?_, .inr ?_⟩)⟩, ?_, fun h => h.2.1 rfl,
    fun h => h.1 true rfl⟩, ?_, fun h => ?_, ?_, ?_, ?_, ?_, ?_⟩ <;>
    first | decide +kernel | (intro b h; exact absurd h (by intro h; injection h)) | (simp only [ofLaneOrder]; decide +kernel) | (unfold wholeGranule; decide +kernel) | exact absurd (h 0 (by decide)) (by decide +kernel)

/-- A copy that keeps a tag, one without LDC, one that a quarantined region strikes; a granule that a copy covers in part; poison at the source. -/
theorem witness_CopyCommandsComplete_tags :
    tagKept (dev team0 shop0) 0 resetRoot resetRoot (copyBlockMem.readCap 16) true ∧
      ¬ tagKept (dev team0 shop0) 0 { resetRoot with perm := pLD } resetRoot (copyBlockMem.readCap 16) true ∧
      ¬ tagKept { dev team0 shop0 with quar := [⟨0, 2 ^ 43, 0, 1⟩] } 0 resetRoot resetRoot (copyBlockMem.readCap 16) true ∧
      tagKept (dev team0 shop0) 1 { resetRoot with band := 1 } { resetRoot with band := 1 } { resetRoot with band := 1 } true ∧
      ¬ tagKept (dev team0 shop0) 1 { resetRoot with band := 1 } { resetRoot with band := 1 } { resetRoot with band := 2 } true ∧
      apart (resetRoot.localAt 8) (resetRoot.localAt 264) 24 ∧ (264 + 0) / 16 * 16 < 264 ∧ 264 + 8 + 16 ≤ 264 + 24 ∧
      (poisoned team0).mem.poisoned 0 1 = true := by
  unfold tagKept
  refine ⟨?_, ?_, ?_, ?_, ?_, ?_, ?_, ?_, ?_⟩ <;> first | (unfold apart; decide +kernel) | decide +kernel

/-- A command that has written granule 1 of memory and granule 0 of shop 0's scratchpad; one performed at a peer that answers; a gather whose peer rejects. -/
theorem witness_CopyCommandsComplete_parts :
    (let c : Cmd := { cmd1 0 (some 0) (.copy resetRoot resetRoot [⟨0, 256, 16⟩] true) .none false with wrote := [(0, 1), (2, 0)] }
     let s := busy c shop0 .empty
     (0, 16 / 16) ∈ c.wrote ∧ (0, 32 / 16) ∉ c.wrote ∧ (0 + 2, 15 / 16) ∈ c.wrote ∧ s.shop? 0 = some shop0 ∧ s.cmd? c.id = some c ∧ (0, 16) ∈ chosen 1 ([(0, 16)] : List (Nat × Nat)).eraseDups ∧ !c.wrote.contains (0, 16)) ∧
      (let c := cmd1 3 (some 0) (.remoteGo peerCap true) .none false
       (busy c shop0 .empty).portsOpen = true ∧ (busy c shop0 .empty).reportReady c = true) ∧
      (let b : Cap := { peerCap with fmt := 0x0D }
       let c := cmd1 0 (some 0) (.gather [b] 0 1 resetRoot 512 2 false 0 false) .none false
       (busy c shop0 .empty).turn? 1 = some c ∧ (busy c shop0 .empty).reportReady c = true ∧
         (busy c shop0 .empty).answersOk [⟨8, 1, false, [], [], [], 0⟩] = false ∧ (busy c shop0 .empty).answersOk [⟨0, 0, false, [], [], [], 0⟩] = true) := by
  decide +kernel

/-- The kept positions of both patterns, and one that is not kept. -/
theorem witness_MatrixCommandsPerform_sparse :
    hash347 0 0 0 = 0 ∧ kept false 0 0 0 = [0, 1] ∧ kept true 0 0 0 = [0, 1, 2, 3] ∧ (3 : Nat) < 4 ∧ 3 ∉ kept false 0 0 0 ∧ (7 : Nat) < 8 ∧ 7 ∉ kept true 0 0 0 ∧
      sparseRow false 0 0 1 = some 1 ∧ sparseRow false 0 0 3 = none ∧ hash347 0xFFFF 255 127 ≠ 0 := by
  decide +kernel

/-- A product of one row and column at both ends of K; epilogues in block-scaled storage of a NaN, of zeros and of a value; a failed epilogue. -/
theorem witness_MatrixCommandsPerform_epilogues :
    (let a : Opnd := ⟨0x0D, 0, true, 64, 1, 64, .plain []⟩
     a.ext = 1 ∧ 1 ≤ a.k ∧ a.k ≤ (if a.geo = 3 ∨ (0 : BitVec 2) = 3 then 8 else 64)) ∧
      (∃ f, fmtElem 0x0D = some f ∧ (FVal.nan ∈ [tileValue { tile1 with elems := [(0, ⟨0, false, true⟩)] } 0]) ∧ (∀ v ∈ [tileValue Tile.cleared 0], v.expo = none) ∧
        (tileValue tile1 0).expo = some 55 ∧ f.refusesSign (tileValue Tile.cleared 0) = false) ∧
      (let b : Cap := { peerCap with fmt := 0x09 }
       let c := cmd1 4 (some 0) (.mepi 0 true b 0 1 1 1 0 false []) .none true
       let s : State := { busy c (shopM.setTile 0 { Tile.cleared with state := .drain }) .empty with portdn := 0x3FFFF }
       s.draining? 0 = some c ∧ b.kind = kSealed ∧ s.portsOpen = false ∧ s.team? 0 = some team0 ∧ team0.merr = 0 ∧ ({ team0 with merr := 2 } : Team).merr.toNat > c.batch) := by
  refine ⟨?_, ⟨_, rfl, ?_, ?_, ?_, ?_⟩, ?_⟩ <;> decide +kernel

/-- Answers of members of which one is absent; a member on this device that accepts, over whole lines. -/
theorem witness_FabricCommandsComplete_members :
    (let a : Answer := ⟨0, 0, false, List.replicate 128 0, [], [], 0⟩
     let late : Answer := { a with timeout := true }
     ([a, late] : List Answer).length ≤ 9216 ∧ ([a, late] : List Answer)[1]? = some late ∧ (absentOf [a, late]).all (fun p => p.1.timeout) = true ∧
       ([a, late] : List Answer).length ≤ 9215 ∧ (9215 : Nat) < 9216 ∧ (0xFF : Nat) < 256) ∧
      (let m := sealedTeam.rdC 5
       let s := dev team0 shop0
       let r : Row := .plain (List.replicate 128 7)
       s.isHere m = true ∧ m.kind = kSealed ∧ r.data.length = 128 * 1 ∧ m.addr + 1024 + 128 * 1 ≤ 2 ^ 57 ∧ localOf (m.addr + 1024) + 128 * 1 ≤ hbmTop ∧ 1024 % 128 = 0 ∧
         (s.memberFlits 0 m 1024 (128 * 1) .groupStore r).all (fun f => (s.portFails f).isNone) = true ∧
         (s.memberFlits 0 m 1024 (128 * 1) .groupLoad (Row.plain [])).all (fun f => (s.portFails f).isNone) = true ∧
         (s.engineCheck 0 ⟨[kData, kLocal], true, pST, false, true⟩ resetRoot 3 0 [(8, 8)]).isOk = true) := by
  decide +kernel

/-- A launch whose two nodes are free; one with a join in front of a node. -/
def twoNodes (k0 : Nat) (p1 : Nat) : Launch :=
  match accepted.launches.head? with
  | some (_, l) => { l with nodes := (l.nodes.map fun nd => { nd with nkind := k0, succ := [1], dispatched := 0 }) ++ l.nodes.map fun nd => { nd with preds := p1, succ := [] } }
  | none => ⟨0, none, 0, 0, .null, 0, none, .null, .null, 0, .null, false, 0, 0, 0, 0, 0, 0, 0, [], false, false⟩

/-- A node's fate after a predecessor, computed. -/
def readyNext (l : Launch) (succ : List Nat) (j : Nat) : Bool :=
  match l.nodes[j]? with
  | some m => decide (j ∈ succ ∧ m.preds ≠ 0 ∧ (lessPreds succ j m).preds = 0)
  | none => false

theorem comesReady_iff {l : Launch} {succ : List Nat} {j : Nat} : comesReady l succ j ↔ readyNext l succ j = true := by
  unfold comesReady readyNext
  cases l.nodes[j]? <;> simp

theorem witness_AgingAndLaunches_nodes :
    (∀ p ∈ (twoNodes 1 1).nodes, p.preds = 0 → p.nkind ≠ 3) ∧ (twoNodes 1 1).nodes.length = 2 ∧
      ((launching.enterLaunch (twoNodes 1 1)).ready.map fun r => (r.launch, r.node)) = [(some 0, 0)] ∧
      ((launching.enterLaunch (twoNodes 1 0)).ready.map fun r => (r.launch, r.node)) = [(some 0, 0), (some 0, 1)] ∧
      ((launching.enterLaunch (twoNodes 3 1)).ready.map fun r => (r.launch, r.node)) = [(some 0, 1)] ∧
      (let s : State := { launching with launches := [(0, twoNodes 3 1)] }
       Sparse.look s.launches 0 = some (twoNodes 3 1) ∧ (twoNodes 3 1).nodes[0]?.map Node.nkind = some 3 ∧ comesReady (twoNodes 3 1) [1] 1 ∧ ¬ comesReady (twoNodes 3 2) [1] 1) ∧
      launching.recordReady 0 0 = true := by
  simp only [comesReady_iff]
  decide +kernel

/-- The device with the finished shop after an edit of its launch, and of the shop. -/
def ending (f : Launch → Launch) (g : Shop → Shop) : State :=
  let s : State := { finished with launches := finished.launches.map fun e => (e.1, f e.2) }
  s.updShop 1 g

/-- The last instance, and one of two; result capabilities that pass and that do not; a launch of which nothing is left, with and without a vector; a drained shop. -/
theorem witness_EndOfInstancesAndPreemption_ends :
    (let two := fun l : Launch => { l with nodes := l.nodes.map fun nd => { nd with inst := 2 } }
     let s1 := ending id id
     let s2 := ending two id
     let s3 := ending id fun x => { x with results := [(resetRoot, [⟨0, 16, 16⟩], none)] }
     let s4 := ending id fun x => { x with results := [(Cap.null, [⟨0, 16, 16⟩], none)] }
     ([s1, s2, s3, s4].all fun s => decide ((s.shop? 1).map Shop.phase = some .running ∧ s.shopQuiet 1 = true ∧ ((s.shop? 1).map s.launchStampReady) = some true ∧
       s.teamsOf 1 = [32] ∧ (∀ t ∈ s.team? 32, t.ended = true) ∧ (s.shop? 1).bind Shop.launch = some 0 ∧ goesOn (exec (.instanceComplete 1) s) = true)) = true ∧
       ((Sparse.look s1.launches 0).bind fun l => l.nodes[0]?.map fun nd => decide (nd.finished + 1 = nd.inst) && decide (nd.succ = [])) = some true ∧
       ((Sparse.look s2.launches 0).bind fun l => l.nodes[0]?.map fun nd => decide (nd.finished + 1 ≠ nd.inst)) = some true ∧
       (s1.shop? 1).map Shop.results = some [] ∧ (s2.shop? 1).map Shop.results = some [] ∧
       (s3.engineCheck 0 ⟨[kData, kLocal], true, pST, false, true⟩ resetRoot 0 0 [(16, 16)]).isOk = true ∧
       (s4.engineCheck 0 ⟨[kData, kLocal], true, pST, false, true⟩ Cap.null 0 0 [(16, 16)]).isOk = false) ∧
      (let s : State := { finished with shops := [], ready := [], launches := finished.launches.map fun e => (e.1, { e.2 with vector := some 5 }) }
       (Sparse.look s.launches 0).map Launch.done = some false ∧ s.shops = [] ∧ (∀ r ∈ s.ready, r.launch ≠ some 0) ∧
         (Sparse.look s.launches 0).map Launch.vector = some (some 5) ∧ (Sparse.look finished.launches 0).map Launch.vector = some none) ∧
      (finished.shops.any fun e => decide (e.2.launch = some 0)) = true ∧ (⟨some 0, 0, 0, some 1, false, true⟩ : Ready).shop = some 1 ∧
        ((saved.shop? 1).map fun x => saved.entryFits ⟨some 0, 0, 0, some 1, false, true⟩ x.core) = some false := by
  refine ⟨⟨?_, ?_, ?_, ?_, ?_, ?_, ?_⟩, ⟨?_, ?_, ?_, ?_, ?_⟩, ?_, ?_, ?_⟩ <;> decide +kernel

/-- A line of the host window with a dirty half; an error record that waits for its half. -/
theorem witness_HostLinesAndAperture_records :
    (hosting ⟨.owned, List.replicate 64 0, true, 2⟩).region (128 * (hostBase / 128)) = .host 0 ∧
      (let s : State := { launching with records := [(0, 0, 5)] }
       s.records = [(0, 0, 5)] ∧ s.recordReady 0 0 = true) ∧
      (let s : State := { (relaunching fun q => { q with err := BitVec.ofNat 64 hostBase }) with records := [(0, 0, 5)], hwin := [(0, 1)] }
       s.recordReady 0 0 = false) ∧ (hosting ⟨.owned, [], false, 0⟩).records = [] := by
  decide +kernel

/-- Halves and lines of the host window that are held, and that are not; the first and last c registers; a channel that is retired already. -/
theorem witness_BringUpAndReliability_host :
    (let s := hosting ⟨.owned, List.replicate 64 0, true, 0⟩
     s.region (16 * (hostBase / 16 + 3)) = .host 48 ∧ Sparse.look s.halves (48 / 64) = some ⟨.owned, List.replicate 64 0, true, 0⟩ ∧ s.region (128 * (hostBase / 128)) = .host 0 ∧
       s.region (16 * (hostBase / 16 + 4)) = .host 64 ∧ Sparse.look s.halves (64 / 64) = none) ∧
      (0 : Nat) < 1 ∧ (31 : Nat) < 32 ∧ (dev team0 shop0).team? 0 = some team0 ∧
      (32 * 7 + 31 ∈ ({ dev team0 shop0 with retired := [255] } : State).retired) ∧ (∀ l ∈ [hbmTop / 128 - 1], 128 * l + 128 ≤ hbmTop) ∧
      ({ State.reset with flash := [1] } : State).flash.length < 2 ^ 43 ∧ State.reset.devId = 0 := by
  decide +kernel

/-- A GO of a block in the MMIO window; one at a peer behind an earlier command of its queue, and behind none. -/
theorem witness_GoEntersItsBlock_places :
    (let c : Cap := { resetRoot with kind := kCommand, base := BitVec.ofNat 53 (mmioBase / 16), lexp := 0, lman := 16 }
     ((dev (team0.wrC 4 c) shop0).capFails 0 goUse c (isGlobal c.kind && inMmio c.addr)).isNone = true ∧ inMmio c.addr = true ∧ 16 ≤ c.len) ∧
      (let p : Cap := { peerCap with aux := kCommand ++ (0 : BitVec 14) ++ (0 : BitVec 7) }
       let earlier (q : Nat) : State := { dev (team0.wrC 4 p) shop0 with cmds := [cmd1 q (some 0) (.copy resetRoot resetRoot [⟨0, 256, 16⟩] true) .none false], nextId := 1 }
       let held (q : Nat) (c : Cmd) : Bool := decide (c.team = some 0) && decide (c.queue = q)
       ((earlier 3).capFails 0 goUse p (isGlobal p.kind && inMmio p.addr)).isNone = true ∧ (earlier 3).portsOpen = true ∧
         ((earlier 3).cmds.all fun c => decide (c.id ≤ (earlier 3).nextId)) = true ∧ ((earlier 3).cmds.any (held 3)) = true ∧ ((earlier 0).cmds.any (held 3)) = false) := by
  decide +kernel

/-- A code slot whose image is designated once and twice, and images that wait for room in the filter. -/
theorem witness_QueueControl_waiting :
    (let m : Image := { key := [], g := 0, base := 0x5000, len := 64, note := [], vis := 1 }
     let s : State := { launching with images := [(0, m)], quar := List.replicate 32 ⟨0, 16, 0, 1⟩ }
     (s.func 0).instBusy = false ∧ (Sparse.look s.codes 256).isSome = true ∧ 32 ≤ s.quar.length ∧ s.unused 0 = false ∧ s.unused 1 = true) ∧
      (let m (b : Nat) : Image := { key := [], g := 0, base := b, len := 64, note := [], vis := 1 }
       let s : State := { launching with lehr := .remote [], images := [(0, m 0x5000), (1, m 0x6000)], quar := [⟨0, 16, 0, 1⟩] }
       (match execLehrPassComplete s with
         | .next t => decide (t.quar.map (fun q => (q.base, q.top, q.pass)) = [(0x6000, 0x6040, 2)] ∧ t.images.map Prod.fst = [0] ∧ t.lehr = .waiting)
         | _ => false) = true ∧
       (∀ e ∈ [(0, m 0x5000)], ∃ d ∈ s.codes, d.2.image = e.1)) := by
  decide +kernel
end Sys2Proof.Tests
end

section
/-!
PROOFS. A word that fails a check of decoding faults at its address and does nothing else (R10, R204, R267, R268).
-/

namespace Sys2Proof.Machine

/-- The step `f` answers through the frame in which the word `i` issues. -/
def InFrame (i : Instr) (f : State → Host.Outcome State Fault Refusal) : Prop := ∃ body, ∀ s, f s = wordStep i body s

/-! The shapes of words, from the frame up. -/

theorem inFrame_wordStep {i body} : InFrame i (wordStep i body) := ⟨body, fun _ => rfl⟩
theorem inFrame_flowStep {i f} : InFrame i (flowStep i f) := ⟨_, fun _ => rfl⟩
theorem inFrame_teamStep {i f} : InFrame i (teamStep i f) := ⟨_, fun _ => rfl⟩
theorem inFrame_memStep {i f} : InFrame i (memStep i f) := ⟨_, fun _ => rfl⟩
theorem inFrame_branchStep {i d c} : InFrame i (branchStep i d c) := inFrame_flowStep
theorem inFrame_jumpStep {i r} : InFrame i (jumpStep i r) := inFrame_flowStep
theorem inFrame_setMode {i m} : InFrame i (setMode i m) := inFrame_teamStep
theorem inFrame_laneStep {i chk f} : InFrame i (laneStep i chk f) := inFrame_teamStep
theorem inFrame_kOp {i d g} : InFrame i (kOp i d g) := inFrame_teamStep
theorem inFrame_sOp {i d a b g} : InFrame i (sOp i d a b g) := inFrame_teamStep
theorem inFrame_predStep {i p d a b g} : InFrame i (predStep i p d a b g) := inFrame_teamStep
theorem inFrame_vecStep {i p chk f} : InFrame i (vecStep i p chk f) := inFrame_teamStep
theorem inFrame_voteOp {i d a b all} : InFrame i (voteOp i d a b all) := inFrame_teamStep
theorem inFrame_foldOp {i f scan d a b} : InFrame i (foldOp i f scan d a b) := inFrame_teamStep
theorem inFrame_vecOp {i p d a b g} : InFrame i (vecOp i p d a b g) := inFrame_vecStep
theorem inFrame_vecUn {i p d a g} : InFrame i (vecUn i p d a g) := inFrame_vecStep
theorem inFrame_fltOp {i p d a b g} : InFrame i (fltOp i p d a b g) := inFrame_vecStep
theorem inFrame_minMaxOp {i d a b isMax number} : InFrame i (minMaxOp i d a b isMax number) := inFrame_vecStep
theorem inFrame_faithfulOp {i d a g} : InFrame i (faithfulOp i d a g) := inFrame_vecStep
theorem inFrame_shflOp {i d a g} : InFrame i (shflOp i d a g) := inFrame_vecStep
theorem inFrame_intOp {i d a b g} : InFrame i (intOp i d a b g) := inFrame_vecOp
theorem inFrame_fltUn {i p d a g} : InFrame i (fltUn i p d a g) := inFrame_fltOp
theorem inFrame_deriveStep {i d a f} : InFrame i (deriveStep i d a f) := inFrame_wordStep
theorem inFrame_cmdmkStep {i layout d a} : InFrame i (cmdmkStep i layout d a) := inFrame_wordStep
theorem inFrame_rawCopy {i d a g mask tags moves} : InFrame i (rawCopy i d a g mask tags moves) := inFrame_wordStep
theorem inFrame_rowCopy {i d a g scatter} : InFrame i (rowCopy i d a g scatter) := inFrame_wordStep
theorem inFrame_matrixStep {i check body} : InFrame i (matrixStep i check body) := inFrame_wordStep
theorem inFrame_groupStep {i g ty args} : InFrame i (groupStep i g ty args) := inFrame_wordStep

/-- Every word issues through the shared frame; each case names the shape of words that its meaning has. -/
theorem exec_inFrame {i : Instr} (h : hasWord i = true) : InFrame i (fun s => exec i s) := by
  cases i <;> cases h <;> simp only [exec]
  case ill | nop | bkpt => exact inFrame_flowStep
  case bra | bany | ball | bnone | brs | brsZ => exact inFrame_branchStep
  case jmp | ret => exact inFrame_jumpStep
  case call | rep | loopb | exit | endTeam | yieldc | role | leave | trap | eret | rdsr | waitc | monarm | monwait | barw | bary | mwait |
      revoke | sweepq | dead | mcas | fence | qfence | pboundv | plock | punlock | cpyb | cpym | go | bari | bara | barx | qdef | qpush |
      qpop | qtry | qgrant | mepi | mstat | nspawn | grpmk | grpq => exact inFrame_wordStep
  case yield | getm | setpri | join | wrsr | kpop | kfst | sel | bcast | pinfo | pwithin | psame | pmov | mfence => exact inFrame_teamStep
  case setm | setml => exact inFrame_setMode
  case seedr | bsini | bsrd | bspk | bssk | bspos | ballot | laneid | prf => exact inFrame_laneStep
  case kand | kor | kxor | kandn | knot | kmov | ksplit => exact inFrame_kOp
  case add | adds | sub | mul | mulh | mad | min | max | addLit | subLit | mulLit | minLit | maxLit => exact inFrame_intOp
  case abs | neg | not | mov | popc | clz | ctz | brev | fabs | fneg | fclass => exact inFrame_vecUn
  case and | or | xor | andn | shl | shr | sha | rot | fns | bfx | bfi | andLit | orLit | xorLit | shlLit | shrLit | shaLit =>
    exact inFrame_vecOp
  case cmp | fcmp | cmpLit => exact inFrame_predStep
  case cvt | cvtn | packn | unpkn | fmal | shflIdx | movs | movl => exact inFrame_vecStep
  case fadd | fsub | fmul | fma | fscale | fdivs | faddLit | fmulLit | fmaLit => exact inFrame_fltOp
  case fmin | fmax | fminn | fmaxn => exact inFrame_minMaxOp
  case frnd | frcp | frsq | fsqrt => exact inFrame_fltUn
  case fexp2 | flog2 | fsin | fcos | ftanh => exact inFrame_faithfulOp
  case bsld | ld | ldv | ldu | ldw | st | stv | stu | stn | ldq | stq | ldAcq | stRel | atom | atomu | red | deleg | rsq =>
    exact inFrame_memStep
  case shflUp | shflDn | shflXor => exact inFrame_shflOp
  case voteAny | voteAll => exact inFrame_voteOp
  case rsum | rmin | rmax | scanAdd => exact inFrame_foldOp
  case sadd | ssub | smul | sand | sor | sxor | sshl | sshr | scmp | ssel | smov | plen | smovl | saddLit | ssubLit | smulLit | sandLit |
      sorLit | sxorLit | sshlLit | sshrLit | scmpLit => exact inFrame_sOp
  case pbound | pperm | pform => exact inFrame_deriveStep
  case cmdmk | cmdmkL => exact inFrame_cmdmkStep
  case cpy | cpyt => exact inFrame_rawCopy
  case cpyg | cpys => exact inFrame_rowCopy
  case mloadb | msub | munsub | mpub | mma | mmas | mclr | mrel => exact inFrame_matrixStep
  case mlred | mstm => exact inFrame_groupStep

/-- The frame answers a check that fails at decode with its fault, whatever the body. -/
theorem wordStep_of_decodeCheck_error {i : Instr} {s : State} {x : Ctx} {e : Trap} (hcur : s.cur = some x.n) (ht : s.team? x.n = some x.t)
    (hsh : s.shop? (shopOf x.n) = some x.sh) (hend : x.t.ended = false) (hwait : x.t.wait = .none) (he : x.decodeCheck i = .error e)
    (body : Ctx → State → Effect) :
    wordStep i body s = .next (s.takeFault x.n e (BitVec.ofNat 32 (encodeNat i)) (literalOf i)) := by
  unfold wordStep
  simp only [hcur, ht, hsh, hend, hwait, Wait.resumedBy, ctx_eta, he]
  simp

/-- A word other than opcode 0x00 is checked for the core first, then for its fields and the loop that it stands in. -/
theorem decodeCheck_of_not_ill (x : Ctx) {i : Instr} (h : ¬ ∃ d a b, i = .ill d a b) :
    x.decodeCheck i = if x.sh.onV && isMatrixOp (encodeNat i / 2 ^ 24) then .error (.plain .illegalOpcode)
      else if WellFormed i && !loopRefuses x.t.loop x.t.pc i then .ok () else .error (.plain .illegalField) := by
  unfold Ctx.decodeCheck
  split
  · exact absurd ⟨_, _, _, rfl⟩ h
  · rfl

/-- Opcode 0x00, and a matrix word on a V-core, fail by ILLEGAL_OPCODE (R10, R204). -/
theorem decodeCheck_illegalOpcode {x : Ctx} {i : Instr}
    (h : (∃ d a b, i = .ill d a b) ∨ (x.sh.onV = true ∧ isMatrixOp (encodeNat i / 2 ^ 24) = true)) :
    x.decodeCheck i = .error (.plain .illegalOpcode) := by
  by_cases hi : ∃ d a b, i = .ill d a b
  · obtain ⟨d, a, b, rfl⟩ := hi
    rfl
  · obtain ⟨hv, hm⟩ := h.resolve_left hi
    rw [decodeCheck_of_not_ill x hi, hv, hm]
    rfl

/-- Any other word with a reserved field, or that an active loop refuses, fails by ILLEGAL_FIELD (R204, R267). -/
theorem decodeCheck_illegalField {x : Ctx} {i : Instr} (hi : ¬ ∃ d a b, i = .ill d a b)
    (hm : ¬ (x.sh.onV = true ∧ isMatrixOp (encodeNat i / 2 ^ 24) = true))
    (h : WellFormed i = false ∨ loopRefuses x.t.loop x.t.pc i = true) : x.decodeCheck i = .error (.plain .illegalField) := by
  rw [decodeCheck_of_not_ill x hi, if_neg (by simpa using hm), if_neg]
  rcases h with h | h <;> simp [h]

/-- Settles O23: every word goes through the frame of `wordStep`, which answers a failed check before the word's body runs. -/
theorem illegalWordsFault : Obligations.IllegalWordsFault := by
  intro i s x hword hcur ht hsh hend hwait
  obtain ⟨body, hexec⟩ := exec_inFrame hword
  have hfault : ∀ e, x.decodeCheck i = .error e → Claims.faults i s x e := fun e he =>
    (hexec s).trans (wordStep_of_decodeCheck_error hcur ht hsh hend hwait he body)
  exact ⟨fun h => hfault _ (decodeCheck_illegalOpcode h), fun hi hm h => hfault _ (decodeCheck_illegalField hi hm h)⟩

end Sys2Proof.Machine
end

section
/-!
PROOFS. What the decoder says of the length of a word, and that it never runs out of bytes when eight are there (R197, R198, R204).
-/

namespace Sys2Proof

/-! ### Bytes and words (R3) -/

theorem bytesNat_lt (bs : List (BitVec 8)) : bytesNat bs < 2 ^ (8 * bs.length) := by
  induction bs with
  | nil => simp [bytesNat]
  | cons b bs ih =>
    have hb := b.isLt
    have hpow : 2 ^ (8 * (b :: bs).length) = 2 ^ 8 * 2 ^ (8 * bs.length) := by
      rw [List.length_cons, Nat.mul_succ, Nat.add_comm, Nat.pow_add]
    rw [bytesNat, hpow]
    omega

theorem natBytes_bytesNat (bs : List (BitVec 8)) : natBytes bs.length (bytesNat bs) = bs := by
  induction bs with
  | nil => rfl
  | cons b bs ih =>
    have hb := b.isLt
    have hhead : BitVec.ofNat 8 (bytesNat (b :: bs)) = b := BitVec.eq_of_toNat_eq (by simp [bytesNat]; omega)
    have htail : bytesNat (b :: bs) / 2 ^ 8 = bytesNat bs := by rw [bytesNat]; omega
    rw [List.length_cons, natBytes, hhead, htail, ih]

/-- The four bytes of the word that four bytes make. -/
theorem natBytes_ofNat_bytesNat {bs : List (BitVec 8)} (h : bs.length = 4) : natBytes 4 (BitVec.ofNat 32 (bytesNat bs)).toNat = bs := by
  have hlt : bytesNat bs < 2 ^ 32 := by simpa [h] using bytesNat_lt bs
  rw [BitVec.toNat_ofNat, Nat.mod_eq_of_lt hlt, ← h, natBytes_bytesNat]

/-! ### The decoder's errors -/

/-- The answer of the decoder is not that bytes are missing. -/
def NotShort (r : Except DecodeError Instr) : Prop := r ≠ .error .short

theorem notShort_ok {i : Instr} : NotShort (.ok i) := nofun

theorem notShort_field : NotShort (.error .field) := nofun

theorem notShort_opcode : NotShort (.error .opcode) := nofun

theorem notShort_ite {c : Prop} [Decidable c] {a b : Except DecodeError Instr} (ha : NotShort a) (hb : NotShort b) :
    NotShort (if c then a else b) := by
  split
  · exact ha
  · exact hb

/-- A row with a capability operand. -/
theorem notShort_capRef {o : Option CapRef} {f : CapRef → Instr} : NotShort (match o with
    | some m => .ok (f m)
    | none => .error .field) := by
  cases o with
  | none => exact notShort_field
  | some m => exact notShort_ok

/-- A row with two capability operands. -/
theorem notShort_capRef_capRef {o p : Option CapRef} {f : CapRef → CapRef → Instr} : NotShort (match o with
    | some q => match p with
      | some m => .ok (f q m)
      | none => .error .field
    | none => .error .field) := by
  cases o with
  | none => exact notShort_field
  | some q => exact notShort_capRef

/-- The numbers below `n + 1`, the last one apart. -/
theorem forall_lt_succ {P : Nat → Prop} {n : Nat} (h : ∀ m, m < n → P m) (hn : P n) : ∀ m, m < n + 1 → P m := by
  intro m hm
  rcases Nat.lt_succ_iff_lt_or_eq.1 hm with hlt | rfl
  · exact h m hlt
  · exact hn

theorem forall_lt_zero {P : Nat → Prop} : ∀ m, m < 0 → P m := nofun

/-- The decoder of a word, row by row of the opcode map. -/
theorem notShort_decodeWord {w : Nat} (lit : BitVec 32) (hw : w < 2 ^ 32) : NotShort (decodeWord w lit) := by
  have hop : w / 2 ^ 24 < 256 := by omega
  unfold decodeWord
  generalize w / 2 ^ 24 = op at hop ⊢
  revert op
  iterate 16 iterate 16 refine forall_lt_succ ?_ ?_
  · exact forall_lt_zero
  all_goals apply_rules [notShort_ok, notShort_field, notShort_opcode, notShort_ite, notShort_capRef, notShort_capRef_capRef]

theorem eq_of_ite_ok {c : Prop} [Decidable c] {a i : Instr} {e : DecodeError}
    (h : (if c then .ok a else .error e : Except DecodeError Instr) = .ok i) : i = a := by
  split at h
  · exact (Except.ok.inj h).symm
  · cases h

/-- What a literal opcode decodes to carries its literal word (R198). -/
theorem literalOf_isSome_of_decodeWord {w : Nat} {lit : BitVec 32} {i : Instr} (hop : isLiteralOp (w / 2 ^ 24) = true)
    (h : decodeWord w lit = .ok i) : (literalOf i).isSome = true := by
  simp only [isLiteralOp, Bool.and_eq_true, decide_eq_true_eq] at hop
  obtain ⟨hlo, hhi⟩ := hop
  unfold decodeWord at h
  obtain ⟨k, hk⟩ := Nat.exists_eq_add_of_le hlo
  have hlt : k < 27 := by omega
  rw [hk] at h
  clear hlo hhi hk
  revert h
  revert k
  iterate 27 refine forall_lt_succ ?_ ?_
  · exact forall_lt_zero
  all_goals
    intro h
    cases eq_of_ite_ok h
    rfl

/-- Eight bytes decode to what their words decode to. -/
theorem decodeBytes_eq {bs : List (BitVec 8)} (h : bs.length = 8) : ∃ lit rest, decodeBytes bs =
    (decodeWord (bytesNat (bs.take 4)) lit).map fun i => (i, rest) := by
  unfold decodeBytes
  simp only [h, Nat.reduceLT, if_false]
  split
  · exact ⟨_, _, rfl⟩
  · exact ⟨_, _, rfl⟩

/-- Eight bytes are never too few. -/
theorem ne_short_of_decodeBytes {bs : List (BitVec 8)} {e : DecodeError} (hlen : bs.length = 8) (h : decodeBytes bs = .error e) :
    e ≠ .short := by
  obtain ⟨lit, rest, heq⟩ := decodeBytes_eq hlen
  have hw : bytesNat (bs.take 4) < 2 ^ 32 := by simpa [hlen] using bytesNat_lt (bs.take 4)
  have hns := notShort_decodeWord lit hw
  rw [heq] at h
  rintro rfl
  generalize decodeWord (bytesNat (bs.take 4)) lit = r at h hns
  cases r with
  | ok i => cases h
  | error e => cases h; exact hns rfl

/-- A literal opcode decodes to an instruction of eight bytes (R197, R198). -/
theorem size_of_decodeBytes {bs more : List (BitVec 8)} {i : Instr} (hlen : bs.length = 8) (h : decodeBytes bs = .ok (i, more))
    (hop : isLiteralOp (bytesNat (bs.take 4) / 2 ^ 24) = true) : i.size = 8 := by
  obtain ⟨lit, rest, heq⟩ := decodeBytes_eq hlen
  rw [heq] at h
  have hlit := fun j => literalOf_isSome_of_decodeWord (lit := lit) (i := j) hop
  generalize decodeWord (bytesNat (bs.take 4)) lit = r at h hlit
  cases r with
  | ok j => cases h; exact if_pos (hlit _ rfl)
  | error e => cases h

end Sys2Proof
end

section
/-!
PROOFS. A step runs the word at PC (R103, R105, R179, R190, R197 to R199, R204): what a fetch answers, what comes before a
word, and what its issue changes.
-/

namespace Sys2Proof.Machine

open Claims

/-! ### The fetch (R65, R186, R197 to R199) -/

theorem region_of_lt_hbmTop (s : State) {a : Nat} (h : a < hbmTop) : s.region a = .hbm := if_pos h

theorem inMmio_of_lt_hbmTop {a : Nat} (h : localOf a < hbmTop) : inMmio a = false := by
  have : ¬ mmioBase ≤ localOf a := by unfold hbmTop at h; unfold mmioBase; omega
  simp [inMmio, this]

theorem firstPoison_eq_none {m : Mem} {a n : Nat} : m.firstPoison a n = none ↔ m.poisoned a n = false := by
  simp [Mem.firstPoison, Mem.poisoned]

/-- A shorter fetch at PC passes where a longer one does. -/
theorem fetchable_mono {s : State} {x : Ctx} {k n : Nat} (hk : 0 < k) (hkn : k ≤ n) (h : fetchable s x n) : fetchable s x k := by
  obtain ⟨htag, hkind, hdev, hband, hperm, hquar, hlen, htop, hpoison⟩ := h
  refine ⟨htag, hkind, hdev, hband, hperm, hquar, by omega, by omega, ?_⟩
  simp only [Mem.poisoned, List.any_eq_false, mem_granules] at hpoison ⊢
  rintro g ⟨-, hlo, hhi⟩
  exact hpoison g ⟨by omega, hlo, Nat.le_trans hhi (Nat.div_le_div_right (by omega))⟩

theorem capFails_of_fetchable {s : State} {x : Ctx} {n : Nat} (h : fetchable s x n) :
    s.capFails x.sh.band Use.fetch x.sh.code false = none := by
  obtain ⟨htag, hkind, hdev, hband, hperm, hquar, -⟩ := h
  have hq : s.quarHit x.sh.code = none := by simpa [State.quarHit] using hquar
  have hb : ¬ x.sh.band = 0 → ¬ x.sh.code.band = x.sh.band → x.sh.code.band = 255 := fun h0 hne =>
    (hband.resolve_left h0).resolve_left hne
  unfold State.capFails
  simpa [htag, hkind, hdev, hperm, hq, Use.fetch, kCode, kSealed] using hb

theorem len_of_fetchable {s : State} {x : Ctx} {n : Nat} (h : fetchable s x n) : x.t.pc.toNat + n ≤ x.sh.code.len := by
  obtain ⟨-, -, -, -, -, -, hlen, -⟩ := h
  exact hlen

/-- The bytes that are fetched lie in HBM. -/
theorem codeAt_add_le_of_fetchable {s : State} {x : Ctx} {n : Nat} (h : fetchable s x n) : x.codeAt x.t.pc.toNat + n ≤ hbmTop := by
  obtain ⟨-, -, -, -, -, -, -, htop, -⟩ := h
  exact htop

theorem codeAt_lt_of_fetchable {s : State} {x : Ctx} {n : Nat} (hn : 0 < n) (h : fetchable s x n) : x.codeAt x.t.pc.toNat < hbmTop :=
  Nat.lt_of_lt_of_le (Nat.lt_add_of_pos_right hn) (codeAt_add_le_of_fetchable h)

/-- A fetch that is `fetchable` passes its checks. -/
theorem fetchCheck_of_fetchable {s : State} {x : Ctx} {n : Nat} (hn : 0 < n) (h : fetchable s x n) : s.fetchCheck x n = .ok () := by
  have hcap := capFails_of_fetchable h
  have ha : localOf (wrapAddr (x.sh.code.addr + x.t.pc.toNat)) < hbmTop := codeAt_lt_of_fetchable hn h
  obtain ⟨-, -, -, -, -, -, hlen, -, hpoison⟩ := h
  have hclean : s.mem.firstPoison (localOf (wrapAddr (x.sh.code.addr + x.t.pc.toNat))) n = none := firstPoison_eq_none.2 hpoison
  unfold State.fetchCheck
  simp only [inMmio_of_lt_hbmTop ha, hcap, Nat.not_lt.2 hlen, if_false, region_of_lt_hbmTop s ha, hclean]

/-- The bytes at PC are what a fetch of eight bytes reads. -/
theorem readAt_codeAt_of_fetchable {s : State} {x : Ctx} {n : Nat} (hn : 0 < n) (h : fetchable s x n) :
    s.readAt (x.codeAt x.t.pc.toNat) 8 = codeBytes s x := by
  unfold State.readAt
  rw [region_of_lt_hbmTop s (codeAt_lt_of_fetchable hn h)]
  rfl

theorem Mem.read_add (m : Mem) (a k n : Nat) : m.read a (k + n) = m.read a k ++ m.read (a + k) n := by
  simp [Mem.read, Sparse.getList, List.range_add, Function.comp_def, Nat.add_assoc]

@[simp] theorem Mem.read_length (m : Mem) (a n : Nat) : (m.read a n).length = n := Sparse.getList_length ..

/-- The word at PC, as memory holds it. -/
theorem newWord_pc {s : State} {x : Ctx} {n : Nat} (hn : 0 < n) (h : fetchable s x n) :
    s.newWord x x.t.pc.toNat = BitVec.ofNat 32 (bytesNat ((codeBytes s x).take 4)) := by
  unfold State.newWord State.readAt
  rw [region_of_lt_hbmTop s (codeAt_lt_of_fetchable hn h), show codeBytes s x = s.mem.read (x.codeAt x.t.pc.toNat) (4 + 4) from rfl,
    Mem.read_add, List.take_left' (Mem.read_length ..)]

/-- The word after PC lies four bytes on. -/
theorem codeAt_pc_add_four {s : State} {x : Ctx} (h : fetchable s x 8) : x.codeAt (x.t.pc.toNat + 4) = x.codeAt x.t.pc.toNat + 4 := by
  have htop := codeAt_add_le_of_fetchable h
  unfold Ctx.codeAt wrapAddr localOf hbmTop at *
  omega

/-- The eight bytes at PC are the two words there. -/
theorem codeBytes_eq_words {s : State} {x : Ctx} (h : fetchable s x 8) :
    codeBytes s x = natBytes 4 (s.newWord x x.t.pc.toNat).toNat ++ natBytes 4 (s.newWord x (x.t.pc.toNat + 4)).toNat := by
  have hlt : x.codeAt x.t.pc.toNat + 4 < hbmTop := Nat.lt_of_lt_of_le (Nat.add_lt_add_left (by omega) _) (codeAt_add_le_of_fetchable h)
  unfold State.newWord State.readAt
  rw [codeAt_pc_add_four h, region_of_lt_hbmTop s hlt, region_of_lt_hbmTop s (Nat.lt_of_le_of_lt (Nat.le_add_right _ 4) hlt)]
  simp only [natBytes_ofNat_bytesNat (Mem.read_length ..), ← Mem.read_add]
  rfl

theorem not_overwritten_pc {s : State} {x : Ctx} (h : asLoaded s x) : s.overwritten x x.t.pc.toNat = false := by
  simp [State.overwritten, h.1]

theorem not_overwritten_pc_add_four {s : State} {x : Ctx} (h : asLoaded s x) : s.overwritten x (x.t.pc.toNat + 4) = false := by
  simp [State.overwritten, h.2]

/-- A word that has not been overwritten is fetched as memory holds it. -/
theorem codeWord_of_not_overwritten {s : State} {x : Ctx} {off : Nat} (hlen : off + 4 ≤ x.sh.code.len) (h : s.overwritten x off = false) :
    s.codeWord x off = s.newWord x off := by
  simp [State.codeWord, Nat.not_lt.2 hlen, h]

/-- A word is fetched as memory holds it or as it stood when the node became resident (R199). -/
theorem codeWord_new_or_old {s : State} {x : Ctx} {off : Nat} (hlen : off + 4 ≤ x.sh.code.len) :
    s.codeWord x off = s.newWord x off ∨ s.codeWord x off = x.oldWord off := by
  unfold State.codeWord
  rw [if_neg (Nat.not_lt.2 hlen)]
  split
  · exact .inr rfl
  · exact .inl rfl

/-- The bytes that are fetched are those of the two words that are. -/
theorem fetchBytes_eq_words {s : State} {x : Ctx} (h : fetchable s x 8) :
    s.codeBytes x = natBytes 4 (s.codeWord x x.t.pc.toNat).toNat ++ natBytes 4 (s.codeWord x (x.t.pc.toNat + 4)).toNat := by
  have hlen := len_of_fetchable h
  unfold State.codeBytes
  dsimp only
  split
  · rfl
  · next hover =>
    simp only [Bool.or_eq_true, not_or, Bool.not_eq_true] at hover
    rw [codeWord_of_not_overwritten (by omega) hover.1, codeWord_of_not_overwritten (by omega) hover.2, readAt_codeAt_of_fetchable (by omega) h,
      codeBytes_eq_words h]

theorem fetchBytes_of_asLoaded {s : State} {x : Ctx} {n : Nat} (hn : 0 < n) (h : fetchable s x n) (hl : asLoaded s x) :
    s.codeBytes x = codeBytes s x := by
  unfold State.codeBytes
  simp only [not_overwritten_pc hl, not_overwritten_pc_add_four hl, Bool.or_self, Bool.false_eq_true, if_false]
  exact readAt_codeAt_of_fetchable hn h

/-- Both checks of a fetch pass: the first four bytes, and the eight bytes of a literal form. -/
theorem fetchChecks {s : State} {x : Ctx} (h4 : fetchable s x 4) (h8 : isLiteralOp (s.opAt x) = true → fetchable s x 8) :
    s.fetchCheck x 4 = .ok () ∧ s.fetchCheck x (if isLiteralOp (s.opAt x) then 8 else 4) = .ok () := by
  refine ⟨fetchCheck_of_fetchable (by omega) h4, ?_⟩
  split
  · exact fetchCheck_of_fetchable (by omega) (h8 ‹_›)
  · exact fetchCheck_of_fetchable (by omega) h4

/-- A fetch whose checks pass gives the instruction that the bytes decode to. -/
theorem fetch_of_decodeBytes_ok {s : State} {x : Ctx} {i : Instr} {more : List Byte} (h4 : fetchable s x 4)
    (h8 : isLiteralOp (s.opAt x) = true → fetchable s x 8) (hdec : decodeBytes (s.codeBytes x) = .ok (i, more)) : s.fetch x = .ok i := by
  obtain ⟨hfirst, hsecond⟩ := fetchChecks h4 h8
  unfold State.opAt at hsecond
  unfold State.fetch
  simp only [hfirst, hsecond, hdec]

/-- A fetch whose checks pass faults where the bytes do not decode, a matrix word on a V-core by ILLEGAL_OPCODE (R10, R204). -/
theorem fetch_of_decodeBytes_error {s : State} {x : Ctx} {e : DecodeError} (h4 : fetchable s x 4)
    (h8 : isLiteralOp (s.opAt x) = true → fetchable s x 8) (hdec : decodeBytes (s.codeBytes x) = .error e) :
    s.fetch x = .error (.plain (if x.sh.onV && isMatrixOp (s.opAt x) then .illegalOpcode else DecodeError.code e)) := by
  obtain ⟨hfirst, hsecond⟩ := fetchChecks h4 h8
  unfold State.opAt at hsecond ⊢
  unfold State.fetch
  simp only [hfirst, hsecond, hdec]

/-- The opcode at PC is that of the bytes there. -/
theorem opAt_of_asLoaded {s : State} {x : Ctx} {n : Nat} (hn : 4 ≤ n) (h : fetchable s x n) (hl : asLoaded s x) :
    s.opAt x = bytesNat ((codeBytes s x).take 4) / 2 ^ 24 := by
  have hlen : x.t.pc.toNat + 4 ≤ x.sh.code.len := Nat.le_trans (Nat.add_le_add_left hn _) (len_of_fetchable h)
  have hlt : bytesNat ((codeBytes s x).take 4) < 2 ^ 32 := by
    simpa [codeBytes] using bytesNat_lt ((codeBytes s x).take 4)
  rw [State.opAt, codeWord_of_not_overwritten hlen (not_overwritten_pc hl), newWord_pc (by omega) h, BitVec.toNat_ofNat, Nat.mod_eq_of_lt hlt]

theorem codeBytes_length (s : State) (x : Ctx) : (codeBytes s x).length = 8 := Mem.read_length ..

/-- The bytes at PC of an image that has not been overwritten decode to the instruction that is fetched. -/
theorem fetch_of_asLoaded {s : State} {x : Ctx} {i : Instr} {more : List Byte} (h : fetchable s x i.size) (hl : asLoaded s x)
    (hdec : decodeBytes (codeBytes s x) = .ok (i, more)) : s.fetch x = .ok i := by
  have hsize : 4 ≤ i.size := by unfold Instr.size; split <;> omega
  refine fetch_of_decodeBytes_ok (fetchable_mono (by omega) hsize h) (fun hop => ?_)
    ((congrArg decodeBytes (fetchBytes_of_asLoaded (by omega) h hl)).trans hdec)
  rw [opAt_of_asLoaded hsize h hl] at hop
  exact size_of_decodeBytes (codeBytes_length s x) hdec hop ▸ h

/-- The code of the fault of a word that does not decode. -/
theorem fetch_error_of_asLoaded {s : State} {x : Ctx} {e : DecodeError} (h : fetchable s x 8) (hl : asLoaded s x)
    (hdec : decodeBytes (codeBytes s x) = .error e) : s.fetch x = .error
      (.plain (if e = .opcode ∨ (x.sh.onV = true ∧ isMatrixOp (s.opAt x) = true) then .illegalOpcode else .illegalField)) := by
  have hshort := ne_short_of_decodeBytes (codeBytes_length s x) hdec
  rw [fetch_of_decodeBytes_error (fetchable_mono (by omega) (by omega) h) (fun _ => h)
    ((congrArg decodeBytes (fetchBytes_of_asLoaded (by omega) h hl)).trans hdec)]
  cases e with
  | opcode => simp [DecodeError.code]
  | field => simp [DecodeError.code]
  | short => exact absurd rfl hshort

/-! ### What comes before a word (R179, R183, R190) -/

theorem breaksAt_iff {t : Team} {k : Nat} : breaksAt t k ↔
    ((Sparse.get (0 : W64) t.bkpc k).getLsbD 0 && decide ((Sparse.get (0 : W64) t.bkpc k).toNat / 4 = t.pc.toNat / 4)) = true := by
  rw [Bool.and_eq_true, decide_eq_true_iff]
  rfl

theorem breakHit_eq_none {t : Team} (h : ∀ k, k < 4 → ¬ breaksAt t k) : t.breakHit = none := by
  rw [Team.breakHit, List.find?_eq_none]
  exact fun k hk => mt breaksAt_iff.2 (h k (List.mem_range.1 hk))

/-- The lowest breakpoint register that matches is hit. -/
theorem breakHit_eq_some {t : Team} {k : Nat} (hk : k < 4) (h : breaksAt t k) (hlow : ∀ j, j < k → ¬ breaksAt t j) : t.breakHit = some k := by
  rw [Team.breakHit, List.find?_range_eq_some]
  refine ⟨breaksAt_iff.1 h, List.mem_range.2 hk, fun j hj => ?_⟩
  rw [Bool.not_eq_true', ← Bool.not_eq_true]
  exact mt breaksAt_iff.2 (hlow j hj)

theorem breakBefore_of_noBreakNow {t : Team} (h : noBreakNow t) : t.breakBefore = none := by
  unfold Team.breakBefore
  rcases h with h | h | ⟨hstep, hmiss⟩
  · simp [h]
  · simp [h]
  · rw [breakHit_eq_none hmiss, hstep]
    split <;> rfl

/-- Two flags at bits 62 and 61 and a count below them leave bits 63, 33 and 32 alone. -/
theorem flags_and_count (a b : Bool) (n : Nat) : a.toNat * 2 ^ 62 + b.toNat * 2 ^ 61 + n % 2 ^ 32 < 2 ^ 63 ∧
    (a.toNat * 2 ^ 62 + b.toNat * 2 ^ 61 + n % 2 ^ 32) / 2 ^ 32 % 4 = 0 := by
  have ha := a.toNat_le
  have hb := b.toNat_le
  omega

theorem breakBody_bits (t : Team) : t.breakBody < 2 ^ 63 ∧ t.breakBody / 2 ^ 32 % 4 = 0 := flags_and_count ..

/-! ### The issue of a word (R103, R105, R106) -/

theorem ctx?_eq {s : State} {x : Ctx} (ht : s.team? x.n = some x.t) (hsh : s.shop? (shopOf x.n) = some x.sh) : s.ctx? x.n = some x := by
  simp only [State.ctx?, ht, hsh, ctx_eta]

/-- A team after the decisions of an issue by `x` (R105). -/
def State.countedTeam (s : State) (x : Ctx) (m : Nat) (u : Team) : Team :=
  if m = x.n then { u with aging := 0, aged := false } else { u with aging := agingAfter s x m u }

/-- The teams that an issue by `x` passes over are those whose aging count grows. -/
theorem countedTeam_other (s : State) (x : Ctx) {m : Nat} (u : Team) (h : m ≠ x.n) : s.countedTeam x m u =
    if s.readyTeam m && decide (u.priNow ≤ x.t.priNow) && (s.ctx? m).any fun y => (s.slotsOf y).contains (s.slotOf x) then
      { u with aging := u.aging + s.decisions x } else u := by
  have hiff : (s.readyTeam m && decide (u.priNow ≤ x.t.priNow) && (s.ctx? m).any fun y => (s.slotsOf y).contains (s.slotOf x)) = true ↔
      s.readyTeam m = true ∧ u.priNow ≤ x.t.priNow ∧ ∃ y, s.ctx? m = some y ∧ s.slotOf x ∈ s.slotsOf y := by
    simp [Option.any_eq_true, and_assoc]
  rw [State.countedTeam, if_neg h, agingAfter]
  by_cases hc : s.readyTeam m = true ∧ u.priNow ≤ x.t.priNow ∧ ∃ y, s.ctx? m = some y ∧ s.slotOf x ∈ s.slotsOf y
  · rw [if_pos hc, if_pos (hiff.2 hc)]
  · rw [if_neg hc, if_neg (mt hiff.1 hc)]

theorem team?_countIssue (s : State) (x : Ctx) (m : Nat) : (s.countIssue x).team? m = (s.team? m).map (s.countedTeam x m) := by
  unfold State.team?
  rw [← Sparse.look_map]
  refine congrArg (Sparse.look · m) (List.map_congr_left fun e _ => ?_)
  by_cases h : e.1 = x.n
  · rw [if_pos h, State.countedTeam, if_pos h]
  · rw [if_neg h, countedTeam_other s x e.2 h]
    split <;> rfl

theorem team?_updTeam (s : State) (n m : Nat) (f : Team → Team) :
    (s.updTeam n f).team? m = if m = n then (s.team? n).map f else s.team? m := by
  unfold State.updTeam
  cases h : s.team? n with
  | none =>
    change s.team? m = _
    split
    · next hm => rw [hm]; exact h
    · rfl
  | some t => rw [State.team?_setTeam]; rfl

/-- Changing a team changes nothing else. -/
theorem updTeam_frame (s : State) (n : Nat) (f : Team → Team) : s.updTeam n f = { s with teams := (s.updTeam n f).teams } := by
  unfold State.updTeam
  split <;> rfl

theorem fetched_frame (s : State) (x : Ctx) : s.fetched x = { s with fresh := (s.fetched x).fresh } := by
  unfold State.fetched
  split <;> rfl

/-- A team whose word begins (R106, R109, R183). -/
def Team.begun (t : Team) : Team := { t with dlleft := t.dlleft - 1, noBreak := false, yielded := false }

theorem team?_beginWord (s : State) (n m : Nat) : (s.beginWord n).team? m = if m = n then (s.team? n).map Team.begun else s.team? m :=
  team?_updTeam ..

theorem beginWord_frame (s : State) (n : Nat) : s.beginWord n = { s with teams := (s.beginWord n).teams } := updTeam_frame ..

/-- The state in which the word of `x` executes, the free choices of its fetch apart. -/
def State.atWord (s : State) (x : Ctx) (late : Bool) (rest : List Todo) : State :=
  { (({ s with agenda := rest } : State).countIssue x).beginWord x.n with cur := some x.n, late := late }

theorem atIssue_atWord {s : State} {x : Ctx} (ht : s.team? x.n = some x.t) (late : Bool) (rest : List Todo) :
    atIssue s (s.atWord x late rest) x late rest := by
  let s1 : State := ({ s with agenda := rest } : State).countIssue x
  have hteam (m : Nat) : (s.atWord x late rest).team? m =
      if m = x.n then ((s.team? x.n).map (s.countedTeam x x.n)).map Team.begun else (s.team? m).map (s.countedTeam x m) := by
    have h := team?_beginWord s1 x.n m
    rw [team?_countIssue, team?_countIssue] at h
    exact h
  have hframe := beginWord_frame s1 x.n
  refine ⟨rfl, rfl, congrArg State.agenda hframe, ?_, fun m hm => ?_, congrArg State.lastSlot hframe, fun k => ?_, ?_⟩
  · rw [hteam, if_pos rfl, ht]
    simp [State.countedTeam, Team.begun]
  · rw [hteam, if_neg hm]
    exact congrArg (Option.map · _) (funext fun u => if_neg hm)
  · have hrr := congrArg State.rr hframe
    exact (congrArg (Sparse.get 0 · k) hrr).trans (Sparse.get_set ..)
  · unfold State.atWord
    rw [hframe]
    rfl

/-- The free choices of a fetch apart, it leaves no trace. -/
theorem beginWord_fetched (s : State) (x : Ctx) (n : Nat) : { (s.fetched x).beginWord n with fresh := s.fresh } = s.beginWord n := by
  rw [fetched_frame]
  unfold State.beginWord State.updTeam
  cases h : s.team? n with
  | none => simp only [show ∀ g, ({ s with fresh := g } : State).team? n = none from fun _ => h]
  | some t => simp only [show ∀ g, ({ s with fresh := g } : State).team? n = some t from fun _ => h]; rfl

/-- The state of the decision on a word, before the word. -/
def State.decided (s : State) (x : Ctx) (rest : List Todo) : State := (({ s with agenda := rest } : State).countIssue x).fetched x

/-- The state that a word leaves when it faults before it executes: what its issue has changed, and the free choices of its fetch. -/
def State.begun (s : State) (x : Ctx) (rest : List Todo) : State := (s.decided x rest).beginWord x.n

/-- The free choices apart, what the issue of a word leaves is the state in which it executes. -/
theorem begun_eq_atWord (s : State) (x : Ctx) (late : Bool) (rest : List Todo) :
    { s.begun x rest with fresh := s.fresh, cur := some x.n, late := late } = s.atWord x late rest :=
  congrArg (fun r : State => { r with cur := some x.n, late := late }) (beginWord_fetched (({ s with agenda := rest } : State).countIssue x) x x.n)

theorem fetched_of_asLoaded {s : State} {x : Ctx} (h : asLoaded s x) : s.fetched x = s := by
  simp [State.fetched, not_overwritten_pc h, not_overwritten_pc_add_four h]

theorem begun_of_asLoaded {s : State} {x : Ctx} (h : asLoaded s x) (late : Bool) (rest : List Todo) :
    { s.begun x rest with cur := some x.n, late := late } = s.atWord x late rest := by
  unfold State.begun State.decided
  rw [fetched_of_asLoaded (s := ({ s with agenda := rest } : State).countIssue x) h]
  rfl

theorem team?_of_asksFor {s : State} {x : Ctx} {late : Bool} {rest : List Todo} (h : asksFor s x late rest) : s.team? x.n = some x.t := by
  obtain ⟨-, ht, -⟩ := h
  exact ht

/-- A step asked to issue the next word of a team that can. -/
theorem step_of_asksFor {s : State} {x : Ctx} {late : Bool} {rest : List Todo} (h : asksFor s x late rest) :
    step s = ({ s with agenda := rest } : State).issueWord x late := by
  obtain ⟨hag, ht, hsh, hphase, hend, hwait⟩ := h
  have hctx : ({ s with agenda := rest } : State).ctx? x.n = some x := ctx?_eq ht hsh
  unfold step
  rw [hag]
  simp [State.issue, hctx, hend, hwait, Shop.runs, hphase]

variable {s : State} {x : Ctx} {late : Bool} {rest : List Todo}

/-- No BREAK, no DEADLINE, and a fetch that gives an instruction: the step runs it. -/
theorem step_of_fetch_ok {i : Instr} (h : asksFor s x late rest) (hb : noBreakNow x.t) (hdl : x.t.dlleft ≠ 0) (hf : s.fetch x = .ok i) :
    step s = exec i { s.begun x rest with cur := some x.n, late := late } := by
  have hf' : ({ s with agenda := rest } : State).fetch x = .ok i := hf
  rw [step_of_asksFor h, State.issueWord]
  simp only [breakBefore_of_noBreakNow hb, if_neg hdl, hf']
  rfl

/-- No BREAK, no DEADLINE, and a fetch that faults: the team takes the fault. -/
theorem step_of_fetch_error {e : Trap} (h : asksFor s x late rest) (hb : noBreakNow x.t) (hdl : x.t.dlleft ≠ 0) (hf : s.fetch x = .error e) :
    step s = .next ((s.begun x rest).takeFault x.n e (s.rawWord x).1 (s.rawWord x).2) := by
  have hf' : ({ s with agenda := rest } : State).fetch x = .error e := hf
  rw [step_of_asksFor h, State.issueWord]
  simp only [breakBefore_of_noBreakNow hb, if_neg hdl, hf']
  rfl

theorem team?_fetched (s : State) (x : Ctx) (m : Nat) : (s.fetched x).team? m = s.team? m := by
  rw [fetched_frame]
  rfl

theorem team?_decided (ht : s.team? x.n = some x.t) (rest : List Todo) :
    (s.decided x rest).team? x.n = some { x.t with aging := 0, aged := false } := by
  have h : (s.decided x rest).team? x.n = (s.team? x.n).map (s.countedTeam x x.n) :=
    (team?_fetched ..).trans (team?_countIssue ({ s with agenda := rest } : State) x x.n)
  rw [h, ht]
  simp [State.countedTeam]

theorem decided_frame (s : State) (x : Ctx) (rest : List Todo) : { s.decided x rest with
    teams := s.teams, agenda := s.agenda, rr := s.rr, lastSlot := s.lastSlot, fresh := s.fresh } = s := by
  unfold State.decided
  rw [fetched_frame]
  rfl

/-- A word that meets DLLEFT = 0 is not fetched: its team takes DEADLINE (R106, R179). -/
theorem step_of_deadline (h : asksFor s x late rest) (hb : noBreakNow x.t) (hdl : x.t.dlleft = 0) : ∃ (w : W32) (lit : Option W32),
    step s = .next (({ s.decided x rest with cur := some x.n } : State).takeFault x.n (.plain .deadline) w lit) := by
  have hstep := step_of_asksFor h
  obtain ⟨-, ht, hsh, -, hend, hwait⟩ := h
  let s1 : State := { s.decided x rest with cur := some x.n }
  have hshop : s1.shop? (shopOf x.n) = some x.sh :=
    (congrArg (fun r : State => r.shop? (shopOf x.n)) (decided_frame s x rest)).trans hsh
  let y : Ctx := { x with t := { x.t with aging := 0, aged := false } }
  have hctx : s1.ctx? x.n = some y := ctx?_eq (x := y) (team?_decided ht rest) hshop
  have hdead : execDeadline s1 = .next (s1.takeFault x.n (.plain .deadline) (s1.rawWord y).1 (s1.rawWord y).2) := by
    unfold execDeadline
    rw [show s1.cur = some x.n from rfl]
    simp [hctx, y, hdl, hend, hwait]
  refine ⟨_, _, hstep.trans (Eq.trans ?_ hdead)⟩
  rw [State.issueWord]
  simp only [breakBefore_of_noBreakNow hb, if_pos hdl]
  rfl

/-- A BREAK comes before all else: the team takes it with the bits of BKCTL that it sets (R179, R190). -/
theorem step_of_break {t : Team} {e : Trap} (h : asksFor s x late rest) (hb : x.t.breakBefore = some (t, e)) : ∃ (s1 : State) (w : W32) (lit : Option W32),
    step s = .next (s1.takeFault x.n e w lit) ∧ ∃ t', s1.team? x.n = some t' ∧ t'.bkctl = t.bkctl := by
  refine ⟨(s.decided x rest).updTeam x.n fun y => { y with bkctl := t.bkctl }, (s.rawWord x).1, (s.rawWord x).2, ?_,
    { x.t with aging := 0, aged := false, bkctl := t.bkctl }, ?_, rfl⟩
  · rw [step_of_asksFor h, State.issueWord]
    simp only [hb]
    rfl
  · rw [team?_updTeam, if_pos rfl, team?_decided (team?_of_asksFor h)]
    rfl

theorem breakBefore_of_breaksAt {t : Team} {k : Nat} (hh : t.inHandler = false) (hn : t.noBreak = false) (hk : k < 4) (h : breaksAt t k)
    (hlow : ∀ j, j < k → ¬ breaksAt t j) : t.breakBefore = some ({ t with bkctl := t.bkctl ||| BitVec.ofNat 5 (2 ^ k) },
      { Trap.plain .brk with aux := 2 ^ 63 + k * 2 ^ 32 + t.breakBody }) := by
  unfold Team.breakBefore
  rw [breakHit_eq_some hk h hlow, hh, hn]
  rfl

theorem breakBefore_of_singleStep {t : Team} (hh : t.inHandler = false) (hn : t.noBreak = false) (hmiss : ∀ k, k < 4 → ¬ breaksAt t k)
    (hstep : t.bkctl.getLsbD 4 = true) : t.breakBefore = some (t, { Trap.plain .brk with aux := t.breakBody }) := by
  unfold Team.breakBefore
  rw [breakHit_eq_none hmiss, hh, hn, hstep]
  rfl

/-- A bit set by number is set, and that bit alone. -/
theorem getLsbD_or_twoPow {n : Nat} (x : BitVec n) {k : Nat} (hk : k < n) (j : Nat) :
    (x ||| BitVec.ofNat n (2 ^ k)).getLsbD j = (x.getLsbD j || decide (j = k)) := by
  have hpow : BitVec.ofNat n (2 ^ k) = BitVec.twoPow n k :=
    BitVec.eq_of_toNat_eq ((BitVec.toNat_ofNat ..).trans (BitVec.toNat_twoPow ..).symm)
  rw [hpow, BitVec.getLsbD_or, BitVec.getLsbD_twoPow, decide_eq_true hk, Bool.true_and, decide_eq_decide.2 eq_comm]

/-- Settles O56: the parts are the lemmas above, on the fetch, on what comes before a word and on what its issue changes. -/
theorem stepRunsDecodedWord : Obligations.StepRunsDecodedWord := by
  refine ⟨?_, ?_, ?_, ?_, ?_, ?_, ?_⟩
  · intro s x late rest i more h hb hdl hf hl hdec
    refine ⟨s.atWord x late rest, atIssue_atWord (team?_of_asksFor h) late rest, ?_⟩
    rw [step_of_fetch_ok h hb hdl (fetch_of_asLoaded hf hl hdec), begun_of_asLoaded hl]
  · intro s x late rest e h hb hdl hf hl hdec
    refine ⟨s.begun x rest, _, _, ?_, step_of_fetch_error h hb hdl (fetch_error_of_asLoaded hf hl hdec)⟩
    rw [begun_of_asLoaded hl]
    exact atIssue_atWord (team?_of_asksFor h) late rest
  · intro s x late rest h hb hdl hf
    have hlen := len_of_fetchable hf
    refine ⟨s.begun x rest, s.codeWord x x.t.pc.toNat, s.codeWord x (x.t.pc.toNat + 4), ?_, codeWord_new_or_old (by omega),
      codeWord_new_or_old (by omega), fun i more hdec => ?_⟩
    · have h1 := atIssue_atWord (team?_of_asksFor h) late rest
      rw [← begun_eq_atWord] at h1
      exact h1
    · rw [← fetchBytes_eq_words hf] at hdec
      exact step_of_fetch_ok h hb hdl (fetch_of_decodeBytes_ok (fetchable_mono (by omega) (by omega) hf) (fun _ => hf) hdec)
  · intro s x late rest h hb hdl
    obtain ⟨w, lit, hstep⟩ := step_of_deadline h hb hdl
    exact ⟨_, w, lit, congrArg (fun r : State => { r with cur := s.cur }) (decided_frame s x rest), hstep⟩
  · intro s x late rest h hh hn
    refine ⟨fun k hk hat hlow => ?_, fun hmiss hstep => ?_⟩
    · obtain ⟨s1, w, lit, hrun, t', ht', hctl⟩ := step_of_break h (breakBefore_of_breaksAt hh hn hk hat hlow)
      have hbody := breakBody_bits x.t
      refine ⟨s1, _, w, lit, hrun, rfl, ?_, ?_, t', ht', fun j => ?_⟩
      · show (2 ^ 63 + k * 2 ^ 32 + x.t.breakBody) / 2 ^ 63 = 1
        omega
      · show (2 ^ 63 + k * 2 ^ 32 + x.t.breakBody) / 2 ^ 32 % 4 = k
        omega
      · rw [hctl, getLsbD_or_twoPow _ (by omega)]
    · obtain ⟨s1, w, lit, hrun, -⟩ := step_of_break h (breakBefore_of_singleStep hh hn hmiss hstep)
      exact ⟨s1, _, w, lit, hrun, rfl, Nat.div_eq_of_lt (breakBody_bits x.t).1⟩
  · intro s i rest h
    unfold step
    rw [h]
  · intro s hag hboot
    unfold step
    rw [hag]
    exact if_pos hboot

end Sys2Proof.Machine
end

section
/-!
PROOFS. Soft errors and channels (R153, R154, R405): what each error poisons, and what it leaves alone.
-/

namespace Sys2Proof.Machine

open Claims

/-! ### What a soft error poisons -/

/-- `s'` is `s` with the granules of HBM that `f` names poisoned as well, and nothing else changed. -/
def Soils (s s' : State) (f : Nat → Bool) : Prop :=
  s' = { s with mem := { s.mem with poison := s'.mem.poison } } ∧
    ∀ g, Sparse.get false s'.mem.poison g = (Sparse.get false s.mem.poison g || f g)

theorem Soils.refl (s : State) : Soils s s fun _ => false := ⟨rfl, fun _ => (Bool.or_false _).symm⟩

theorem Soils.trans {s s1 s2 : State} {f f1 : Nat → Bool} (h : Soils s s1 f) (h1 : Soils s1 s2 f1) : Soils s s2 fun g => f g || f1 g := by
  obtain ⟨heq, hget⟩ := h
  obtain ⟨heq1, hget1⟩ := h1
  refine ⟨heq1.trans ?_, fun g => ?_⟩
  · rw [heq]
  · rw [hget1, hget, Bool.or_assoc]

theorem Soils.congr {s s' : State} {f f1 : Nat → Bool} (h : Soils s s' f) (hf : ∀ g, f g = f1 g) : Soils s s' f1 := funext hf ▸ h

/-- The blocks that are live stay so. -/
theorem Soils.live {s s' : State} {f : Nat → Bool} (h : Soils s s' f) : s'.live = s.live :=
  (congrArg State.live h.1 :)

theorem get_poisonRange (m : Mem) (a n g : Nat) :
    Sparse.get false (m.poisonRange a n).poison g = (Sparse.get false m.poison g || decide (g ∈ granules a n)) := by
  rw [Mem.poisonRange, get_setGranules]
  by_cases h : g ∈ granules a n <;> simp [h]

/-- A range is poisoned where its block is live: a dead one has no poison (R151, R405). -/
theorem poisonRange_soils (s : State) (a n : Nat) (live : Bool) :
    Soils s (if live then { s with mem := s.mem.poisonRange a n } else s) fun g => decide (g ∈ granules a n) && live := by
  cases live with
  | false => exact (Soils.refl s).congr fun g => (Bool.and_false _).symm
  | true => exact ⟨rfl, fun g => (get_poisonRange ..).trans (congrArg _ (Bool.and_true _).symm)⟩

/-- A line of a live block is poisoned. -/
theorem poisonLine_soils (s : State) (line : Nat) :
    Soils s (s.poisonLine line) fun g => decide (g / 8 = line) && Sparse.get false s.live (line / 32) := by
  refine (poisonRange_soils s (128 * line) 128 _).congr fun g => ?_
  have hmem : g ∈ granules (128 * line) 128 ↔ g / 8 = line := by rw [mem_granules]; omega
  simp only [hmem]

/-- A granule of a live block is poisoned. -/
theorem poisonGranule_soils (s : State) (k : Nat) :
    Soils s (s.poisonGranule k) fun g => decide (g = k) && Sparse.get false s.live (k / 256) := by
  refine (poisonRange_soils s (16 * k) 16 _).congr fun g => ?_
  have hmem : g ∈ granules (16 * k) 16 ↔ g = k := by rw [mem_granules]; omega
  simp only [hmem]

/-- One place after another: what is poisoned is what each of them poisons, by the blocks that are live at the start. -/
theorem foldl_soils {p : State → Nat → State} {f : Sparse Bool → Nat → Nat → Bool} (hp : ∀ s k, Soils s (p s k) (f s.live k)) (ks : List Nat) :
    ∀ s, Soils s (ks.foldl p s) fun g => ks.any fun k => f s.live k g := by
  induction ks with
  | nil => exact Soils.refl
  | cons k ks ih =>
    intro s
    refine ((hp s k).trans (ih (p s k))).congr fun g => ?_
    rw [(hp s k).live, List.any_cons]

/-- The lines that a bad remap entry affects (R153). -/
theorem poisonLines_soils (s : State) (lines : List Nat) :
    Soils s (lines.foldl State.poisonLine s) fun g => decide (g / 8 ∈ lines) && Sparse.get false s.live (g / 256) := by
  refine (foldl_soils (f := fun live line g => decide (g / 8 = line) && Sparse.get false live (line / 32)) poisonLine_soils lines s).congr fun g => ?_
  rw [Bool.eq_iff_iff]
  simp only [List.any_eq_true, Bool.and_eq_true, decide_eq_true_eq]
  constructor
  · rintro ⟨line, hmem, rfl, hlive⟩
    exact ⟨hmem, by rwa [Nat.div_div_eq_div_mul] at hlive⟩
  · rintro ⟨hmem, hlive⟩
    exact ⟨_, hmem, rfl, by rwa [Nat.div_div_eq_div_mul]⟩

/-- `n` granules of data that a cache holds, in HBM. -/
theorem poisonGranules_soils (s : State) (k n : Nat) :
    Soils s ((List.range n).foldl (fun (a : State) j => a.poisonGranule (k + j)) s)
      fun g => decide (k ≤ g ∧ g < k + n) && Sparse.get false s.live (g / 256) := by
  refine (foldl_soils (f := fun live j g => decide (g = k + j) && Sparse.get false live ((k + j) / 256))
    (fun s j => poisonGranule_soils s (k + j)) (List.range n) s).congr fun g => ?_
  rw [Bool.eq_iff_iff]
  simp only [List.any_eq_true, Bool.and_eq_true, decide_eq_true_eq, List.mem_range]
  constructor
  · rintro ⟨j, hj, rfl, hlive⟩
    exact ⟨by omega, hlive⟩
  · rintro ⟨⟨hlo, hhi⟩, hlive⟩
    obtain ⟨j, rfl⟩ := Nat.exists_eq_add_of_le hlo
    exact ⟨j, by omega, rfl, hlive⟩

/-! ### The report (R394, R405) -/

/-- Vector 0 of the physical function. -/
theorem interrupt_zero (s : State) : s.interrupt 0 0 = { s with out := vectorZero s :: s.out } := rfl

/-- What a reported error in HBM leaves alone. -/
theorem Soils.report {s s1 : State} {f : Nat → Bool} (h : Soils s s1 f) : (s1.interrupt 0 0).out = vectorZero s :: s.out ∧
    { s1.interrupt 0 0 with mem := s.mem, out := s.out } = s ∧ (s1.interrupt 0 0).mem.bytes = s.mem.bytes ∧
    (s1.interrupt 0 0).mem.tags = s.mem.tags ∧
    ∀ g, Sparse.get false (s1.interrupt 0 0).mem.poison g = (Sparse.get false s.mem.poison g || f g) := by
  obtain ⟨heq, hget⟩ := h
  generalize s1.mem.poison = p at heq hget
  subst heq
  exact ⟨rfl, rfl, rfl, rfl, hget⟩

/-! ### Poison in the host window (R154, R405) -/

theorem region_eq_host {s : State} {a off : Nat} (h : s.region a = .host off) : hostBase + off = a := by
  unfold State.region at h
  split at h
  · cases h
  split at h
  · cases h
  split at h
  · next hwin =>
    split at h
    · have hoff := Region.host.inj h
      omega
    · cases h
  · cases h

/-- A granule lies in one half. -/
theorem halvesOf_granule (g : Nat) : halvesOf (16 * g) 16 = [g / 4] := by
  have hcount : (16 * g + 16 - 1) / 64 - 16 * g / 64 + 1 = 1 := by omega
  have hhalf : 16 * g / 64 + 0 = g / 4 := by omega
  rw [halvesOf, if_neg (by omega), hcount, List.range_one, List.map_singleton, hhalf]

theorem halvesReady_granule (s : State) (g : Nat) : s.halvesReady (16 * g) 16 false = (Sparse.look s.halves (g / 4)).isSome := by
  rw [State.halvesReady, halvesOf_granule]
  cases h : Sparse.look s.halves (g / 4) <;> simp [h]

/-- The poison of half `k` after that of granule `g`. -/
def soilBits (k : Nat) (p : BitVec 4) (g : Nat) : BitVec 4 := if k = g / 4 then p ||| 1#4 <<< (g % 4) else p

theorem look_setHostPoison (hs : Sparse Half) (g k : Nat) :
    Sparse.look (setHostPoison true hs g) k = (Sparse.look hs k).map fun h => { h with poison := soilBits k h.poison g } := by
  unfold setHostPoison soilBits
  cases hg : Sparse.look hs (g / 4) with
  | none =>
    by_cases hk : k = g / 4
    · simp [hk, hg]
    · simp [hk]
  | some h =>
    by_cases hk : k = g / 4
    · simp [hk, hg]
    · simp [hk, Sparse.look_insert]

/-- Poison changes the halves that are held, each by its own granules. -/
theorem look_soilHost (gs : List Nat) (k : Nat) : ∀ s : State,
    Sparse.look (s.soilHost gs).halves k = (Sparse.look s.halves k).map fun h => { h with poison := gs.foldl (soilBits k) h.poison } := by
  induction gs with
  | nil => exact fun s => Option.map_id'.symm
  | cons g gs ih =>
    intro s
    refine (ih { s with halves := setHostPoison true s.halves g }).trans ?_
    rw [look_setHostPoison, Option.map_map]
    rfl

theorem getLsbD_soilBits (k : Nat) (p : BitVec 4) (g : Nat) {j : Nat} (hj : j < 4) :
    (soilBits k p g).getLsbD j = (p.getLsbD j || decide (4 * k + j = g)) := by
  have hiff : 4 * k + j = g ↔ k = g / 4 ∧ j = g % 4 := by omega
  unfold soilBits
  by_cases hk : k = g / 4
  · have hbit : decide (4 * k + j = g) = decide (j = g % 4) := decide_eq_decide.2 (by rw [hiff]; exact and_iff_right hk)
    rw [if_pos hk, hbit, BitVec.getLsbD_or, BitVec.getLsbD_shiftLeft, BitVec.getLsbD_one]
    congr 1
    rw [Bool.eq_iff_iff]
    simp
    omega
  · rw [if_neg hk, decide_eq_false (fun h => hk (hiff.1 h).1), Bool.or_false]

theorem getLsbD_foldl_soilBits (k : Nat) (gs : List Nat) {j : Nat} (hj : j < 4) : ∀ p : BitVec 4,
    (gs.foldl (soilBits k) p).getLsbD j = (p.getLsbD j || decide (4 * k + j ∈ gs)) := by
  induction gs with
  | nil => simp
  | cons g gs ih =>
    intro p
    rw [List.foldl_cons, ih, getLsbD_soilBits k p g hj]
    simp [Bool.or_assoc]

/-- The granules of data in the window from offset `o` on that a cache holds. -/
def State.heldGranules (s : State) (o n : Nat) : List Nat :=
  ((List.range n).map fun j => o / 16 + j).filter fun h => s.halvesReady (16 * h) 16 false

theorem mem_heldGranules {s : State} {o n g : Nat} :
    g ∈ s.heldGranules o n ↔ (o / 16 ≤ g ∧ g < o / 16 + n) ∧ (Sparse.look s.halves (g / 4)).isSome = true := by
  rw [State.heldGranules, List.mem_filter, halvesReady_granule, List.mem_map]
  refine and_congr_left fun _ => ⟨?_, fun ⟨hlo, hhi⟩ => ⟨g - o / 16, List.mem_range.2 (by omega), by omega⟩⟩
  rintro ⟨j, hj, rfl⟩
  have := List.mem_range.1 hj
  omega

theorem poisonCached_host {s : State} {g n o : Nat} (h : s.region (16 * g) = .host o) :
    s.poisonCached g n = if s.heldGranules o n = [] then none else some (s.soilHost (s.heldGranules o n)) := by
  unfold State.poisonCached
  rw [h]
  rfl

theorem poisonCached_hbm {s : State} {g n : Nat} (h : 16 * g < hbmTop) : s.poisonCached g n =
    some ((List.range n).foldl (fun (a : State) j => a.poisonGranule (g + j)) s) := by
  unfold State.poisonCached
  rw [show s.region (16 * g) = .hbm from if_pos h]

/-! ### Errors in HBM and in what a cache holds of it (R154, R405) -/

theorem exec_uncorrectableError (p : ErrPlace) (s : State) : exec (.uncorrectableError p) s = execUncorrectableError p s := rfl

/-- A bad line of HBM, held in a cache or not, poisons its granules. -/
theorem uncorrectableError_line (s : State) {line : Nat} (hl : 128 * line + 128 ≤ hbmTop) {p : ErrPlace}
    (hp : p = .hbmLine line ∨ p = .directoryAndData line) : ∃ s1, exec (.uncorrectableError p) s = .next (s1.interrupt 0 0) ∧
      Soils s s1 fun g => decide (g / 8 = line) && Sparse.get false s.live (line / 32) := by
  obtain rfl | rfl := hp
  · exact ⟨s.poisonLine line, if_pos (decide_eq_true hl), poisonLine_soils s line⟩
  · refine ⟨(List.range 8).foldl (fun (a : State) j => a.poisonGranule (8 * line + j)) s, ?_, (poisonGranules_soils s (8 * line) 8).congr fun g => ?_⟩
    · rw [exec_uncorrectableError, execUncorrectableError, poisonCached_hbm (by omega)]
    · have hmem : 8 * line ≤ g ∧ g < 8 * line + 8 ↔ g / 8 = line := by omega
      simp only [hmem]
      by_cases hg : g / 8 = line
      · rw [← hg, Nat.div_div_eq_div_mul]
      · simp [hg]

/-- A bad granule of HBM that a cache holds is poisoned. -/
theorem uncorrectableError_cachedGranule_hbm (s : State) {g : Nat} (hg : 16 * g + 16 ≤ hbmTop) : ∃ s1,
    exec (.uncorrectableError (.cachedGranule g)) s = .next (s1.interrupt 0 0) ∧
      Soils s s1 fun k => decide (k = g) && Sparse.get false s.live (g / 256) := by
  refine ⟨_, ?_, (poisonGranules_soils s g 1).congr fun k => ?_⟩
  · rw [exec_uncorrectableError, execUncorrectableError, poisonCached_hbm (by omega)]
  · have hmem : g ≤ k ∧ k < g + 1 ↔ k = g := by omega
    simp only [hmem]
    by_cases hk : k = g <;> simp [hk]

/-! ### Errors in what a cache holds of the host window (R154, R405) -/

/-- The window begins on a line. -/
theorem line_of_region {s : State} {line off : Nat} (h : s.region (128 * line) = .host off) : off % 128 = 0 := by
  have := region_eq_host h
  simp only [hostBase] at this
  omega

theorem heldGranules_one {s : State} {off : Nat} : s.heldGranules off 1 = if (Sparse.look s.halves (off / 64)).isSome then [off / 16] else [] := by
  have hhalf : off / 16 / 4 = off / 64 := by omega
  rw [State.heldGranules, List.range_one, List.map_singleton, Nat.add_zero, List.filter_cons, List.filter_nil, halvesReady_granule, hhalf]

/-- A bad granule of a held half is poisoned in it. -/
theorem uncorrectableError_cachedGranule_host {s : State} {g off : Nat} {h : Half} (hr : s.region (16 * g) = .host off)
    (hh : Sparse.look s.halves (off / 64) = some h) : exec (.uncorrectableError (.cachedGranule g)) s =
      .next { s with halves := Sparse.insert s.halves (off / 64) { h with poison := soilBits (off / 64) h.poison (off / 16) },
                     out := vectorZero s :: s.out } := by
  have hheld : s.heldGranules off 1 = [off / 16] := by rw [heldGranules_one, hh]; rfl
  have hhalf : off / 16 / 4 = off / 64 := by omega
  have hset : setHostPoison true s.halves (off / 16) =
      Sparse.insert s.halves (off / 64) { h with poison := soilBits (off / 64) h.poison (off / 16) } := by
    rw [setHostPoison, hhalf, hh, soilBits, if_pos hhalf.symm]
    rfl
  rw [exec_uncorrectableError, execUncorrectableError, poisonCached_host hr, hheld, if_neg (List.cons_ne_nil _ _), ← hset]
  rfl

/-- Nothing held, nothing to go bad. -/
theorem uncorrectableError_cachedGranule_none {s : State} {g off : Nat} (hr : s.region (16 * g) = .host off)
    (hh : Sparse.look s.halves (off / 64) = none) : exec (.uncorrectableError (.cachedGranule g)) s = .fault .notEnabled := by
  have hheld : s.heldGranules off 1 = [] := by rw [heldGranules_one, hh]; rfl
  rw [exec_uncorrectableError, execUncorrectableError, poisonCached_host hr, hheld, if_pos rfl]

/-- The poison of a half all of whose granules are in a list. -/
theorem foldl_soilBits_all {k : Nat} {gs : List Nat} (h : ∀ j, j < 4 → 4 * k + j ∈ gs) (p : BitVec 4) : gs.foldl (soilBits k) p = 15 := by
  refine BitVec.eq_of_getLsbD_eq fun j hj => ?_
  rw [getLsbD_foldl_soilBits k gs hj, decide_eq_true (h j hj), Bool.or_true]
  revert j
  decide

/-- The poison of a half none of whose granules is in a list. -/
theorem foldl_soilBits_none {k : Nat} {gs : List Nat} (h : ∀ j, j < 4 → 4 * k + j ∉ gs) (p : BitVec 4) : gs.foldl (soilBits k) p = p := by
  refine BitVec.eq_of_getLsbD_eq fun j hj => ?_
  rw [getLsbD_foldl_soilBits k gs hj, decide_eq_false (h j hj), Bool.or_false]

/-- A bad line of the window poisons those of its two halves that are held. -/
theorem look_soilHost_line {s : State} {off k : Nat} (hoff : off % 128 = 0) : Sparse.look (s.soilHost (s.heldGranules off 8)).halves k =
    (Sparse.look s.halves k).map fun h => if k = off / 64 ∨ k = off / 64 + 1 then { h with poison := 15 } else h := by
  rw [look_soilHost]
  refine Option.map_congr fun h hk => ?_
  have hmem : ∀ j, j < 4 → (4 * k + j ∈ s.heldGranules off 8 ↔ k = off / 64 ∨ k = off / 64 + 1) := by
    intro j hj
    have hhalf : (4 * k + j) / 4 = k := by omega
    rw [mem_heldGranules, hhalf, hk]
    simp only [Option.isSome_some, and_true]
    omega
  split
  · next hin => rw [foldl_soilBits_all fun j hj => (hmem j hj).2 hin]
  · next hout => rw [foldl_soilBits_none fun j hj => mt (hmem j hj).1 hout]

theorem uncorrectableError_directoryAndData_host {s : State} {line off : Nat} (hr : s.region (128 * line) = .host off)
    (hh : ∃ h, Sparse.look s.halves (off / 64) = some h) : exec (.uncorrectableError (.directoryAndData line)) s =
      .next ((s.soilHost (s.heldGranules off 8)).interrupt 0 0) := by
  have hline : 16 * (8 * line) = 128 * line := by omega
  have hheld : off / 16 ∈ s.heldGranules off 8 := by
    obtain ⟨h, hh⟩ := hh
    have hhalf : off / 16 / 4 = off / 64 := by omega
    exact mem_heldGranules.2 ⟨by omega, by rw [hhalf, hh]; rfl⟩
  rw [exec_uncorrectableError, execUncorrectableError, poisonCached_host (hline ▸ hr), if_neg (List.ne_nil_of_mem hheld)]

/-! ### Errors in pools and registers (R154, R405) -/

theorem uncorrectableError_spadGranule {s : State} {shop g : Nat} {x : Shop} (hx : s.shop? shop = some x) (hg : 16 * g + 16 ≤ 16384 * x.spadUnits) :
    exec (.uncorrectableError (.spadGranule shop g)) s =
      .next ((s.setShop shop { x with spad := x.spad.poisonRange (16 * g) 16 }).interrupt 0 0) := by
  simp only [exec_uncorrectableError, execUncorrectableError, hx, if_pos hg]

theorem get_poisonRange_granule (m : Mem) (g k : Nat) :
    Sparse.get false (m.poisonRange (16 * g) 16).poison k = (Sparse.get false m.poison k || decide (k = g)) := by
  have hmem : k ∈ granules (16 * g) 16 ↔ k = g := by rw [mem_granules]; omega
  rw [get_poisonRange, decide_eq_decide.2 hmem]

theorem uncorrectableError_capRegister {s : State} {n reg : Nat} {t : Team} (ht : s.team? n = some t) (h0 : 0 < reg) (hreg : reg < 32) :
    exec (.uncorrectableError (.capRegister n reg)) s = .next ((s.updTeam n fun t => t.soilCap reg true).interrupt 0 0) := by
  rw [exec_uncorrectableError, execUncorrectableError, ht, if_pos ⟨h0, hreg, rfl⟩]

theorem uncorrectableError_registerGranule {s : State} {n lane quad : Nat} {t : Team} {x : Shop} (ht : s.team? n = some t)
    (hx : s.shop? (shopOf n) = some x) (hl : lane < x.lanes) (hq : 4 * quad + 3 < t.allot) :
    exec (.uncorrectableError (.registerGranule n lane quad)) s =
      .next ((s.updTeam n fun t => t.setQuadPoison lane quad true).interrupt 0 0) := by
  rw [exec_uncorrectableError, execUncorrectableError, ctx?_eq (x := ⟨n, t, x⟩) ht hx]
  exact if_pos ⟨hl, hq⟩

theorem uncorrectableError_tileGranule {s : State} {shop tile key : Nat} {x : Shop} (hx : s.shop? shop = some x) (ht : tile < x.tileCount)
    (hk : key < 4096) : exec (.uncorrectableError (.tileGranule shop tile key)) s =
      .next ((s.setShop shop (x.setTile tile { x.tile tile with poison := Sparse.set false (x.tile tile).poison key true })).interrupt 0 0) := by
  simp only [exec_uncorrectableError, execUncorrectableError, hx, if_pos (And.intro ht hk)]

/-- Poison added at one key. -/
theorem get_set_true (m : Sparse Bool) (key k : Nat) : Sparse.get false (Sparse.set false m key true) k = (Sparse.get false m k || decide (k = key)) := by
  rw [Sparse.get_set]
  by_cases h : k = key <;> simp [h]

theorem tile_setTile (x : Shop) (n m : Nat) (t : Tile) : (x.setTile n t).tile m = if m = n then t else x.tile m := Sparse.get_set ..

/-- What a reported error in one team leaves alone. -/
theorem report_updTeam {s : State} {n : Nat} {t : Team} (ht : s.team? n = some t) (f : Team → Team) :
    ((s.updTeam n f).interrupt 0 0).out = vectorZero s :: s.out ∧
      { (s.updTeam n f).interrupt 0 0 with teams := s.teams, out := s.out } = s ∧
      (∀ m, m ≠ n → ((s.updTeam n f).interrupt 0 0).team? m = s.team? m) ∧ ((s.updTeam n f).interrupt 0 0).team? n = some (f t) := by
  have hset : s.updTeam n f = s.setTeam n (f t) := by rw [State.updTeam, ht]
  rw [hset]
  exact ⟨rfl, rfl, fun m hm => (State.team?_setTeam ..).trans (if_neg hm), (State.team?_setTeam ..).trans (if_pos rfl)⟩

/-- What a reported error in one shop leaves alone. -/
theorem report_setShop (s : State) (n : Nat) (x : Shop) : ((s.setShop n x).interrupt 0 0).out = vectorZero s :: s.out ∧
    (∀ m, m ≠ n → ((s.setShop n x).interrupt 0 0).shop? m = s.shop? m) ∧
    { (s.setShop n x).interrupt 0 0 with shops := s.shops, out := s.out } = s ∧ ((s.setShop n x).interrupt 0 0).shop? n = some x :=
  ⟨rfl, fun _ hm => (State.shop?_setShop ..).trans (if_neg hm), rfl, (State.shop?_setShop ..).trans (if_pos rfl)⟩

theorem soilCap_frame (t : Team) (r : Nat) (b : Bool) : { t.soilCap r b with cpoison := t.cpoison } = t := by
  rw [Team.soilCap]
  split <;> rfl

/-- A count of 32 bits that saturates (R405). -/
theorem toNat_saturating (c : W32) : (if c = 0xFFFFFFFF then c else c + 1).toNat = min 0xFFFFFFFF (c.toNat + 1) := by
  split
  · next h => rw [h]; rfl
  · next h =>
    have hne : c.toNat ≠ 0xFFFFFFFF := fun heq => h (BitVec.eq_of_toNat_eq heq)
    bv_omega

/-! ### Channels (R153) -/

theorem mayRetire_iff (s : State) (stack ch : Nat) : s.mayRetire stack ch = true ↔ stack < 8 ∧ ch < 32 ∧ 32 * stack + ch ∉ s.retired ∧
    2 * stack + ch / 16 ∉ s.rebuilding ∧ s.hbmunp.getLsbD (2 * stack + ch / 16) = false := by
  simp [State.mayRetire, State.groupProtected, and_assoc]

/-- With its group's parity a channel is retired, by itself or for a bad remap entry. -/
theorem channelRetire_of_mayRetire {s : State} {stack ch : Nat} (h : s.mayRetire stack ch = true) :
    exec (.channelRetire stack ch) s = .next (s.retireChannel stack ch) ∧
      ∀ lines, exec (.uncorrectableError (.remapBoth stack ch lines)) s = .next ((s.retireChannel stack ch).interrupt 0 0) :=
  ⟨if_pos h, fun _ => if_pos h⟩

/-- Without it a bad remap entry poisons the lines that it affects. -/
theorem remapBoth_of_not_mayRetire {s : State} {stack ch : Nat} {lines : List Nat} (hs : stack < 8) (hc : ch < 32)
    (hl : ∀ l ∈ lines, 128 * l + 128 ≤ hbmTop) (h : s.mayRetire stack ch = false) :
    exec (.uncorrectableError (.remapBoth stack ch lines)) s = .next ((lines.foldl State.poisonLine s).interrupt 0 0) := by
  have hall : lines.all isHbmLine = true := List.all_eq_true.2 fun l hmem => decide_eq_true (hl l hmem)
  rw [exec_uncorrectableError, execUncorrectableError, h, if_neg Bool.false_ne_true, if_pos ⟨hs, hc, hall⟩]

theorem channelRebuildComplete_of_mem {s : State} {stack g : Nat} (h : 2 * stack + g ∈ s.rebuilding) :
    exec (.channelRebuildComplete stack g) s = .next { s with hbmunp := s.hbmunp ||| BitVec.ofNat 16 (2 ^ (2 * stack + g)),
                                                              rebuilding := s.rebuilding.filter fun k => k ≠ 2 * stack + g } :=
  if_pos (List.contains_iff_mem.2 h)

end Sys2Proof.Machine
end

section
/-!
PROOFS. Canonical lengths of capabilities (R57): their mantissas and exponents, and the smallest that holds an image.
-/

namespace Sys2Proof.Machine

/-- A mantissa with its exponent is the canonical encoding of its length. -/
theorem lenFields_of_mantissa {w e : Nat} (hw : w ≤ 1023) (he : e ≤ 63) (hcanon : e = 0 ∨ 512 ≤ w) :
    lenFields (w * 2 ^ e * 16) = some (BitVec.ofNat 6 e, BitVec.ofNat 10 w) := by
  have hexp : Nat.log2 (w * 2 ^ e) + 1 - 10 = e := by
    rcases hcanon with rfl | hlow
    · have hlog : Nat.log2 w < 10 := by
        by_cases h0 : w = 0
        · subst h0; decide
        · exact (Nat.log2_lt h0).2 (by omega)
      rw [Nat.pow_zero, Nat.mul_one]
      omega
    · have hlog : Nat.log2 (w * 2 ^ e) = e + 9 := by
        have hpow : 2 ^ (e + 9) = 512 * 2 ^ e := by rw [Nat.pow_add]; omega
        have hpow' : 2 ^ (e + 9 + 1) = 1024 * 2 ^ e := by rw [Nat.add_assoc, Nat.pow_add]; omega
        rw [Nat.log2_eq_iff (Nat.mul_ne_zero (by omega) (Nat.ne_of_gt (Nat.two_pow_pos e))), hpow, hpow']
        exact ⟨Nat.mul_le_mul_right _ hlow, Nat.mul_lt_mul_of_pos_right (by omega) (Nat.two_pow_pos e)⟩
      omega
  have hpos : 0 < 2 ^ e := Nat.two_pow_pos e
  simp only [lenFields, Nat.mul_div_cancel _ (show 0 < 16 by decide), Nat.mul_mod_left, hexp, Nat.mul_div_cancel _ hpos, he, and_self, if_true]

/-- The exponent in the canonical encoding of `16 * u` bytes: 0, or the one that leaves a mantissa from 512 to 1023. -/
def lenExp (u : Nat) : Nat := Nat.log2 u + 1 - 10

theorem lt_of_lenExp (u : Nat) : u < 1024 * 2 ^ lenExp u := by
  by_cases h0 : u = 0
  · subst h0; decide
  · have hlt : u < 2 ^ (Nat.log2 u + 1) := Nat.lt_log2_self
    have hpow : 2 ^ (Nat.log2 u + 1) ≤ 2 ^ (10 + lenExp u) := Nat.pow_le_pow_right (by decide) (by unfold lenExp; omega)
    rw [Nat.pow_add 2 10] at hpow
    exact Nat.lt_of_lt_of_le hlt hpow

theorem le_of_lenExp {u : Nat} (h : lenExp u ≠ 0) : 512 * 2 ^ lenExp u ≤ u := by
  have h0 : u ≠ 0 := by rintro rfl; exact h rfl
  have hpow : 512 * 2 ^ lenExp u = 2 ^ Nat.log2 u := by
    rw [show Nat.log2 u = 9 + lenExp u by unfold lenExp at h ⊢; omega, Nat.pow_add]
  rw [hpow]
  exact Nat.log2_self_le h0

/-- The mantissa of the smallest representable length not below `n`. -/
def plenMan (n : Nat) : Nat := ((n + 15) / 16 + 2 ^ lenExp ((n + 15) / 16) - 1) / 2 ^ lenExp ((n + 15) / 16)

theorem plenUp_eq (n : Nat) : plenUp n = plenMan n * 2 ^ lenExp ((n + 15) / 16) * 16 := rfl

theorem plenMan_le_iff (n m : Nat) : plenMan n ≤ m ↔ (n + 15) / 16 ≤ m * 2 ^ lenExp ((n + 15) / 16) := by
  have hpos : 0 < 2 ^ lenExp ((n + 15) / 16) := Nat.two_pow_pos _
  rw [plenMan, ← Nat.lt_succ_iff, Nat.div_lt_iff_lt_mul hpos, Nat.succ_mul]
  omega

theorem le_plenUp (n : Nat) : n ≤ plenUp n := by
  have h := (plenMan_le_iff n _).1 (Nat.le_refl _)
  rw [plenUp_eq]
  omega

/-- No shorter representable length holds `n`. -/
theorem plenUp_le {n m e : Nat} (h : n ≤ m * 16 * 2 ^ e) (hm : m ≤ 1023) : plenUp n ≤ m * 16 * 2 ^ e := by
  have hassoc : m * 16 * 2 ^ e = m * 2 ^ e * 16 := Nat.mul_right_comm ..
  rw [hassoc] at h ⊢
  have hu : (n + 15) / 16 ≤ m * 2 ^ e := by omega
  rw [plenUp_eq]
  rcases Nat.lt_or_ge e (lenExp ((n + 15) / 16)) with hlt | hge
  · have hlow := le_of_lenExp (u := (n + 15) / 16) (by omega)
    have hpow : 2 ^ (e + 1) ≤ 2 ^ lenExp ((n + 15) / 16) := Nat.pow_le_pow_right (by decide) hlt
    have hupper : m * 2 ^ e ≤ 1023 * 2 ^ e := Nat.mul_le_mul_right _ hm
    have hpos : 0 < 2 ^ e := Nat.two_pow_pos e
    omega
  · obtain ⟨d, rfl⟩ := Nat.exists_eq_add_of_le hge
    have hsplit : m * 2 ^ (lenExp ((n + 15) / 16) + d) = m * 2 ^ d * 2 ^ lenExp ((n + 15) / 16) := by
      rw [Nat.add_comm, Nat.pow_add, Nat.mul_assoc]
    rw [hsplit] at hu ⊢
    exact Nat.mul_le_mul_right _ (Nat.mul_le_mul_right _ ((plenMan_le_iff n _).2 hu))

/-- The exponent of a length below 2^43 leaves room for one more. -/
theorem lenExp_lt {n : Nat} (h : n < 2 ^ 43) : lenExp ((n + 15) / 16) < 63 := by
  by_cases h0 : (n + 15) / 16 = 0
  · rw [h0]; decide
  · have hlog : Nat.log2 ((n + 15) / 16) < 40 := (Nat.log2_lt h0).2 (by omega)
    unfold lenExp
    omega

/-- The smallest representable length has a mantissa and an exponent: where the mantissa grows to 1024 it is halved. -/
theorem exists_mantissa_of_plenUp {n : Nat} (h : n < 2 ^ 43) : ∃ w e, w ≤ 1023 ∧ e ≤ 63 ∧ (e = 0 ∨ 512 ≤ w) ∧ plenUp n = w * 2 ^ e * 16 := by
  have he := lenExp_lt h
  have hlow : lenExp ((n + 15) / 16) = 0 ∨ 512 ≤ plenMan n := by
    refine Decidable.byContradiction fun hcon => ?_
    obtain ⟨h0, hman⟩ := not_or.1 hcon
    have hle := (plenMan_le_iff n 511).1 (by omega)
    have hge := le_of_lenExp h0
    have hpos : 0 < 2 ^ lenExp ((n + 15) / 16) := Nat.two_pow_pos _
    omega
  have hup : plenMan n ≤ 1024 := (plenMan_le_iff n 1024).2 (Nat.le_of_lt (lt_of_lenExp _))
  rcases Nat.lt_or_ge (plenMan n) 1024 with hlt | hge
  · exact ⟨plenMan n, _, by omega, by omega, hlow, plenUp_eq n⟩
  · refine ⟨512, lenExp ((n + 15) / 16) + 1, by decide, by omega, .inr (Nat.le_refl _), ?_⟩
    rw [plenUp_eq, Nat.le_antisymm hup hge, Nat.pow_succ]
    omega

/-- A code capability is as long as the smallest representable length that holds its image. -/
theorem codeCap_len (band : BitVec 8) (dev : BitVec 14) (base : Nat) {n : Nat} (h : n < 2 ^ 43) : (codeCap band dev base n).len = plenUp n := by
  obtain ⟨w, e, hw, he, hcanon, hlen⟩ := exists_mantissa_of_plenUp h
  have hfields : lenFields (plenUp n) = some (BitVec.ofNat 6 e, BitVec.ofNat 10 w) := hlen ▸ lenFields_of_mantissa hw he hcanon
  have hmod : w % 2 ^ 10 = w ∧ e % 2 ^ 6 = e := by omega
  simp only [Cap.len, codeCap, hfields, Option.getD_some, BitVec.toNat_ofNat, hmod]
  rw [hlen]
  exact Nat.mul_right_comm ..

end Sys2Proof.Machine
end

section
/-!
PROOFS. Bring-up and attestation (R401, R404): the image that BOOT_VERIFY copies, the team that it starts, and what is measured.
-/

namespace Sys2Proof.Machine

open Claims

/-! ### The boot team (R95, R401) -/

theorem foldl_wrGen (f : Nat → W32) (ls : List Nat) : ∀ t : Team, ∃ g, ls.foldl (fun (y : Team) l => y.wrGen l (f l)) t = { t with gen := g } := by
  induction ls with
  | nil => exact fun t => ⟨t.gen, rfl⟩
  | cons l ls ih => exact fun t => ih (t.wrGen l (f l))

/-- The role in which a team starts. -/
def Shop.firstRole (x : Shop) : RoleEntry := (x.roles[0]?).getD ⟨8, 0, 0, 0⟩

/-- Registers of a team at its start, but for the state of its generators. -/
theorem startTeam_eq (s : State) (x : Shop) (ix base len : Nat) : ∃ g, startTeam s x ix base len =
    { (((({ Team.blank with
        pc := x.firstRole.entry.setWidth 64, dlleft := x.deadline, pri := x.firstRole.pri, pricap := x.firstRole.ceil
        allot := x.firstRole.allot, crews := 1, privBase := base, privLen := len } : Team).wrK x.lanes 0 (laneMask x.lanes)).wrC 1
          (s.privCap x.band base len)).wrC 2 (s.spadCap x.band x.ppw)).wrC 3 x.arg with gen := g } :=
  foldl_wrGen _ _ _

theorem startTeam_rdS (s : State) (x : Shop) (ix base len r : Nat) : (startTeam s x ix base len).rdS r = 0 := by
  obtain ⟨g, hg⟩ := startTeam_eq s x ix base len
  simp [hg, Team.rdS, Team.blank]

theorem startTeam_rdC (s : State) (x : Shop) (ix base len r : Nat) : (startTeam s x ix base len).rdC r =
    if r = 3 then x.arg else if r = 2 then s.spadCap x.band x.ppw else if r = 1 then s.privCap x.band base len else Cap.null := by
  obtain ⟨g, hg⟩ := startTeam_eq s x ix base len
  by_cases h0 : r = 0
  · subst h0
    rfl
  · simp [hg, Team.rdC, Team.wrC, Team.blank, Sparse.get_set, h0]

/-- What a team reads of itself at its start, in its first role. -/
theorem startTeam_role (s : State) (x : Shop) (ix base len : Nat) : (startTeam s x ix base len).pc = x.firstRole.entry.setWidth 64 ∧
    (startTeam s x ix base len).mode = 0 ∧ (startTeam s x ix base len).pri = x.firstRole.pri ∧
    (startTeam s x ix base len).allot = x.firstRole.allot ∧ (startTeam s x ix base len).dlleft = x.deadline := by
  obtain ⟨g, hg⟩ := startTeam_eq s x ix base len
  simp [hg, Team.blank]

theorem read_write_self (m : Mem) (a : Nat) (bs : List Byte) : (m.write a bs).read a bs.length = bs := by
  refine List.ext_getElem (Sparse.getList_length ..) fun j _ hj => ?_
  have hbyte := Mem.byte_write m a bs (a + j)
  rw [if_pos ⟨by omega, by omega⟩, Nat.add_sub_cancel_left, List.getD_eq_getElem?_getD, List.getElem?_eq_getElem hj,
    Option.getD_some] at hbyte
  simpa only [Mem.read, Mem.byte, Sparse.getList, List.getElem_map, List.getElem_range] using hbyte

theorem bootVerify_of_valid {s : State} (hb : s.boot = .loading) (hv : Config.bootSignatureValid s.flash s.flashSig = true) :
    exec .bootVerify s = .next ((s.writeHbm 0 s.flash).startBoot s.flash.length) := by
  change execBootVerify s = _
  rw [execBootVerify, if_neg (not_not_intro hb), if_pos hv]

theorem bootVerify_of_invalid {s : State} (hb : s.boot = .loading) (hv : Config.bootSignatureValid s.flash s.flashSig = false) :
    exec .bootVerify s = .next { s.writeHbm 0 s.flash with boot := .failed 1 } := by
  change execBootVerify s = _
  rw [execBootVerify, if_neg (not_not_intro hb), hv, if_neg Bool.false_ne_true]

/-- The image lies at local address 0, whether the boot team runs it or not. -/
theorem loaded_image {s s' : State} (h : s'.mem = s.mem.write 0 s.flash) : s'.mem.read 0 s.flash.length = s.flash ∧
    ∀ a, s.flash.length ≤ a → s'.mem.byte a = s.mem.byte a := by
  rw [h]
  exact ⟨read_write_self .., fun a ha => (Mem.byte_write ..).trans (if_neg (by omega))⟩

/-- The boot team, which starts in a role of its own and whose c1 is null (R95, R401). -/
def State.bootTeam (s : State) (x : Shop) : Team := (startTeam s x 0 0 0).wrC 1 .null

theorem bootTeam_rdS (s : State) (x : Shop) (r : Nat) : (s.bootTeam x).rdS r = 0 := by
  rw [State.bootTeam, Team.rdS, Team.wrC_sreg]
  exact startTeam_rdS ..

theorem bootTeam_rdC (s : State) (x : Shop) : (s.bootTeam x).rdC 1 = Cap.null ∧ (s.bootTeam x).rdC 2 = s.spadCap x.band x.ppw ∧
    (s.bootTeam x).rdC 3 = x.arg := by
  simp [State.bootTeam, startTeam_rdC]

theorem bootTeam_role (s : State) (x : Shop) : (s.bootTeam x).pc = x.firstRole.entry.setWidth 64 ∧ (s.bootTeam x).mode = 0 ∧
    (s.bootTeam x).pri = x.firstRole.pri ∧ (s.bootTeam x).allot = x.firstRole.allot ∧ (s.bootTeam x).dlleft = x.deadline := by
  simpa only [State.bootTeam, Team.wrC_pc, Team.wrC_mode, Team.wrC_pri, Team.wrC_allot, Team.wrC_dlleft] using startTeam_role s x 0 0 0

/-- The boot team's shop, once it runs. -/
theorem shop?_startBoot (s : State) (len : Nat) :
    (s.startBoot len).shop? s.nextShop = some (bootShop len (s.codeCells (codeCap 0 0 0 len))) := by
  simp [State.startBoot]

theorem team?_startBoot (s : State) (len : Nat) : (s.startBoot len).team? (32 * s.nextShop) =
    some (s.bootTeam (bootShop len (s.codeCells (codeCap 0 0 0 len)))) := by
  simp [State.startBoot, State.bootTeam]

/-- The fields of the boot team's pool word (R401). -/
theorem bootPpw_toNat : bootPpw.toNat = 2 * 2 ^ 24 + 64 * 2 ^ 16 + 0 * 2 ^ 10 + 4 * 2 ^ 6 + 0 := by decide

/-- The boot team's shop has 64 units of scratchpad (R142, R401). -/
theorem spadCap_boot_len (s : State) (band : BitVec 8) : (s.spadCap band bootPpw).len = 2 ^ 20 := by
  have hunits : (ppwFields bootPpw.toNat).2.1 = 64 := by decide
  have hfields : lenFields (16384 * 64) = some (7, 512) := lenFields_of_mantissa (w := 512) (e := 7) (by decide) (by decide) (.inr (Nat.le_refl _))
  simp only [Cap.len, State.spadCap, hunits, hfields, Option.getD_some]
  decide

theorem spadCap_base (s : State) (band : BitVec 8) (ppw : W32) (h : s.devId = 0) : (s.spadCap band ppw).base = 0 := by
  simp only [State.spadCap, h]
  rfl

/-- The reset root covers every local address. -/
theorem resetRoot_len : resetRoot.len = 2 ^ 43 := by decide

/-! ### Attestation (R404) -/

theorem spdmAnswer_of_lt {fn : Nat} (h : fn < 64) (request : Nat) (parts : List (List Byte)) (s : State) :
    spdmAnswer fn request parts s = .next { s with out := .spdm fn request parts :: s.out } := if_pos (decide_eq_true h)

theorem getMeasurements_of_measured {s : State} {fn index : Nat} {bs : List Byte} (h : fn < 64) (hm : s.measured fn index = some bs) :
    exec (.getMeasurements fn index) s =
      .next { s with out := .spdm fn 6 [shake256 64 bs, Config.identitySign (shake256 64 bs)] :: s.out } := by
  change execGetMeasurements fn index s = _
  rw [execGetMeasurements, hm]
  exact spdmAnswer_of_lt h ..

theorem getMeasurements_of_not_measured {s : State} {fn index : Nat} (h : fn < 64) (hm : s.measured fn index = none) :
    exec (.getMeasurements fn index) s = .next { s with out := .spdm fn 6 [] :: s.out } := by
  change execGetMeasurements fn index s = _
  rw [execGetMeasurements, hm]
  exact spdmAnswer_of_lt h ..

/-- The registers of a limit block that are measured, as numbers (R396, R404). -/
theorem measured_limits (s : State) (fn : Nat) : s.measured fn 3 = some (Config.measureBytes 3 (let f := s.func fn
      let word (k : Nat) : Nat := f.deleg.toNat / 2 ^ (64 * k) % 2 ^ 64
      [f.band.toNat, f.part.toNat, f.limit.toNat, f.policy.toNat, f.privWin.toNat, f.privLen.toNat, f.ctxWin.toNat, f.ctxLen.toNat,
        word 0, word 1, word 2, word 3])) := by
  have hrange : List.range 12 = [0, 1, 2, 3, 4, 5, 6, 7, 8, 9, 10, 11] := rfl
  simp only [State.measured, hrange, List.map_cons, List.map_nil, Func.limitReg, Option.getD_some, wideWord, BitVec.toNat_ofNat,
    BitVec.toNat_setWidth_of_le (show 8 ≤ 64 by decide), BitVec.toNat_setWidth_of_le (show 32 ≤ 64 by decide),
    BitVec.toNat_setWidth_of_le (show 2 ≤ 64 by decide)]

/-- No other index than those of R404 is measured. -/
theorem measured_unlisted (s : State) (fn : Nat) {k : Nat} (h : k = 0 ∨ 4 < k) : s.measured fn k = none := by
  match k, h with
  | 0, _ => rfl
  | 1, h | 2, h | 3, h | 4, h => omega
  | _ + 5, _ => rfl

/-- Settles O55: the parts are the lemmas above, on the boot team, on what each error poisons, on channels and on measurements. -/
theorem bringUpAndReliability : Obligations.BringUpAndReliability := by
  unfold Obligations.BringUpAndReliability
  refine ⟨fun s => ⟨_, rfl, rfl, rfl, rfl, rfl, rfl, rfl, rfl, rfl, rfl, rfl, rfl, rfl, rfl, rfl, rfl, rfl, rfl, rfl, rfl⟩, ?_,
    fun s hb => if_pos hb, ?_, ?_, fun s line => rfl, ?_, ?_, ?_, ?_, ?_, ?_, ?_, ?_, ?_, ?_, ?_, ?_, ?_⟩
  · intro s hb
    cases hv : Config.bootSignatureValid s.flash s.flashSig with
    | false =>
      obtain ⟨hread, hrest⟩ := loaded_image (s := s) (s' := { s.writeHbm 0 s.flash with boot := .failed 1 }) rfl
      exact ⟨_, bootVerify_of_invalid hb hv, hread, hrest, fun _ => ⟨rfl, rfl⟩, fun h => absurd h Bool.false_ne_true⟩
    | true =>
      obtain ⟨hread, hrest⟩ := loaded_image (s := s) (s' := (s.writeHbm 0 s.flash).startBoot s.flash.length) rfl
      refine ⟨_, bootVerify_of_valid hb hv, hread, hrest, fun h => absurd h.symm Bool.false_ne_true, fun _ => ?_⟩
      have hshop := shop?_startBoot (s.writeHbm 0 s.flash) s.flash.length
      have hteam := team?_startBoot (s.writeHbm 0 s.flash) s.flash.length
      generalize hx : bootShop s.flash.length _ = x at hshop hteam
      obtain ⟨hpc, hmode, hpri, hallot, hdl⟩ := bootTeam_role (s.writeHbm 0 s.flash) x
      obtain ⟨hc1, hc2, hc3⟩ := bootTeam_rdC (s.writeHbm 0 s.flash) x
      refine ⟨rfl, x, _, hshop, hteam, ?_⟩
      rw [hpc, hmode, hpri, hallot, hdl, hc1, hc2, hc3]
      subst hx
      refine ⟨rfl, rfl, rfl, rfl, rfl, rfl, rfl, rfl, rfl, rfl, rfl, rfl, rfl, rfl, rfl, rfl, rfl, rfl, rfl, rfl, rfl, rfl, rfl,
        rfl, rfl, rfl, rfl, resetRoot_len, rfl, rfl, bootTeam_rdS _ _, bootPpw_toNat, rfl, rfl, rfl, fun h => ?_, rfl, rfl,
        spadCap_boot_len .., rfl, rfl, spadCap_base _ _ _⟩
      have hlen := codeCap_len 0 0 0 h
      exact ⟨hlen ▸ le_plenUp _, fun m e hfit hm _ => hlen ▸ plenUp_le hfit hm⟩
  · exact fun s => ⟨_, rfl, toNat_saturating s.cecnt⟩
  · intro s line hl p hp
    obtain ⟨s1, hexec, hsoils⟩ := uncorrectableError_line s hl hp
    exact ⟨_, hexec, hsoils.report⟩
  · intro s shop g x hx hg
    exact ⟨_, uncorrectableError_spadGranule hx hg, fun k => get_poisonRange_granule ..⟩
  · intro s g hg
    obtain ⟨s1, hexec, hsoils⟩ := uncorrectableError_cachedGranule_hbm s hg
    exact ⟨_, hexec, hsoils.report⟩
  · intro s g off h hr hh
    refine ⟨_, uncorrectableError_cachedGranule_host hr hh, fun j hj => ?_⟩
    have hbit : 4 * (off / 64) + j = off / 16 ↔ j = off / 16 % 4 := by omega
    rw [getLsbD_soilBits _ _ _ hj, decide_eq_decide.2 hbit]
  · intro s line off hr hh
    exact ⟨_, uncorrectableError_directoryAndData_host hr hh, rfl, rfl, fun k => look_soilHost_line (line_of_region hr)⟩
  · exact fun s g off => uncorrectableError_cachedGranule_none
  · intro s n reg t ht h0 hreg
    obtain ⟨hout, hframe, hothers, hteam⟩ := report_updTeam ht fun t => t.soilCap reg true
    refine ⟨_, _, uncorrectableError_capRegister ht h0 hreg, hout, hframe, hothers, hteam, soilCap_frame .., fun r hr => ?_⟩
    rw [Team.capPoison_soilCap _ _ _ _ hr]
    simp [Nat.ne_of_gt h0]
  · intro s n lane quad t x ht hx hl hquad hq
    obtain ⟨hout, hframe, hothers, hteam⟩ := report_updTeam ht fun t => t.setQuadPoison lane quad true
    refine ⟨_, _, uncorrectableError_registerGranule ht hx hl hq, hout, hothers, hframe, hteam, fun l q hq => ?_⟩
    have hkey : 64 * l + q = lane * 64 + quad ↔ l = lane ∧ q = quad := by omega
    rw [get_set_true, decide_eq_decide.2 hkey]
  · intro s shop tile key x hx ht hk
    obtain ⟨hout, hothers, hframe, hshop⟩ := report_setShop s shop _
    refine ⟨_, _, uncorrectableError_tileGranule hx ht hk, hout, hothers, hframe, hshop, rfl, fun m hm => ?_, _, ?_, fun k => get_set_true ..⟩
    · exact (tile_setTile ..).trans (if_neg hm)
    · exact (tile_setTile ..).trans (if_pos rfl)
  · intro s stack ch hs hc hret hreb hunp
    exact channelRetire_of_mayRetire ((mayRetire_iff s stack ch).2 ⟨hs, hc, hret, hreb, hunp⟩)
  · intro s stack ch lines hs hc hl hno
    have hmay : s.mayRetire stack ch = false := Bool.eq_false_iff.2 fun h => by
      obtain ⟨-, -, hret, hreb, hunp⟩ := (mayRetire_iff s stack ch).1 h
      simp [hret, hreb, hunp] at hno
    exact ⟨_, remapBoth_of_not_mayRetire hs hc hl hmay, (poisonLines_soils s lines).report⟩
  · intro s stack g hmem hlt
    exact ⟨_, _, channelRebuildComplete_of_mem hmem, fun j => getLsbD_or_twoPow _ hlt j, fun k => by simp⟩
  · exact fun s core hcore => if_pos (decide_eq_true hcore)
  · intro s fn hfn
    refine ⟨spdmAnswer_of_lt hfn .., spdmAnswer_of_lt hfn .., ?_, spdmAnswer_of_lt hfn .., spdmAnswer_of_lt hfn .., fun nonce => spdmAnswer_of_lt hfn ..,
      getMeasurements_of_measured hfn rfl, getMeasurements_of_measured hfn rfl, getMeasurements_of_measured hfn (measured_limits s fn),
      getMeasurements_of_measured hfn rfl, fun k hk => getMeasurements_of_not_measured hfn ?_⟩
    · have hsig : nameBytes "ML-DSA-65" = [0x4D, 0x4C, 0x2D, 0x44, 0x53, 0x41, 0x2D, 0x36, 0x35] := by decide
      have hhash : nameBytes "SHAKE256" = [0x53, 0x48, 0x41, 0x4B, 0x45, 0x32, 0x35, 0x36] := by decide
      rw [← hsig, ← hhash]
      exact spdmAnswer_of_lt hfn ..
    · exact measured_unlisted s fn hk

end Sys2Proof.Machine
end
